-- ==== Sys2Proof/Word.lean ====
section
/-! DEFINITION. Sys2Proof/Word.lean: the word types of the machine (spec 01, 03) and the plainest arithmetic on them. -/

namespace Sys2Proof

/-- One byte; words are stored little-endian (R9). -/
abbrev Byte := BitVec 8

/-- A 32-bit register, queue entry or uniform register (R21). -/
abbrev Word := BitVec 32

/-- A 64-bit pair, address, mask or instruction word (R25, R29, R79). -/
abbrev Word64 := BitVec 64

/-- A mask over the lanes of a warp, bit i for lane i (R25). -/
abbrev Mask := BitVec 64

/-- The four lanes of a slice (R13). -/
abbrev Nib := BitVec 4

/-- A BF16 code (R59). -/
abbrev Half := BitVec 16

/-- A 32-bit word of ones or zeros. -/
def Word.ofBool (b : Bool) : Word := if b then 1 else 0

end Sys2Proof
end

