-- ==== Sys2Proof/Syntax.lean ====
section
/-! DEFINITION. Sys2Proof/Syntax.lean: the instruction formats of spec 03 (R79 to R96), the records and messages of spec 10, 12
and 13, and the ONE inductive of steps: one constructor per row of spec/opcode_table.json. -/

namespace Sys2Proof

/-- The two strands of a warp (R15). -/
inductive Strand where
  | c
  | a
deriving DecidableEq, Repr

/-- The common fields of an instruction word after OP: S, GM, GP (R79). -/
structure Hdr where
  sw : Bool
  gm : BitVec 3
  gp : Bool
deriving DecidableEq, Repr

/-- Format Q (R84), with the modifier byte of R55 in its four fields. -/
structure FormQ where
  dk : BitVec 3
  fs : BitVec 5
  sa : BitVec 7
  sb : BitVec 7
  sc : BitVec 7
  ty : BitVec 4
  rnd : BitVec 2
  sat : Bool
  flag : Bool
  sub : BitVec 13
deriving DecidableEq, Repr

/-- Format QI (R88). -/
structure FormQI where
  dk : BitVec 3
  fs : BitVec 5
  sa : BitVec 7
  ty : BitVec 3
  imm : Word
deriving DecidableEq, Repr

/-- Format B (R89). -/
structure FormB where
  cond : BitVec 4
  aux : BitVec 14
  off : Word
deriving DecidableEq, Repr

/-- Format BD (R91) less MODE, which names the row (BRD_IF or BRD_LOOP). -/
structure FormBD where
  tgt : BitVec 24
  rcv : BitVec 24
deriving DecidableEq, Repr

/-- Format A (R92). -/
structure FormA where
  xd : BitVec 5
  xa : BitVec 5
  xb : BitVec 5
  ty : BitVec 3
  imm : Word
deriving DecidableEq, Repr

/-- Format M (R93); the atomic layout of bits 23:0 (R94) is read from imm. -/
structure FormM where
  xd : BitVec 5
  xbase : BitVec 5
  xi : BitVec 5
  size : BitVec 3
  scope : BitVec 3
  nt : Bool
  ie : Bool
  pol : BitVec 3
  imm : BitVec 24
deriving DecidableEq, Repr

/-- Format X (R95); rsv is the reserved bit 7. -/
structure FormX where
  acc : BitVec 4
  sa : BitVec 7
  sb : BitVec 7
  ta : BitVec 4
  tb : BitVec 4
  shape : BitVec 3
  ctl : BitVec 5
  imm8 : BitVec 8
  rsv : Bool
  sc : BitVec 7
deriving DecidableEq, Repr

/-- Format E (R96). -/
structure FormE where
  dk : BitVec 3
  fs : BitVec 5
  sa : BitVec 7
  sb : BitVec 7
  sc : BitVec 7
  imm16 : BitVec 16
  sube : BitVec 5
deriving DecidableEq, Repr

/-- A placed or pending group: launch sequence number and group number (R317, R318). -/
structure GroupKey where
  seq : Nat
  grp : Nat
deriving DecidableEq, Repr

/-- A warp of a group. -/
structure WarpKey where
  seq : Nat
  grp : Nat
  warp : Nat
deriving DecidableEq, Repr

/-- The group of a warp. -/
def WarpKey.group (w : WarpKey) : GroupKey := ⟨w.seq, w.grp⟩

/-- Where the Crown puts one member of a cohort: its core, the workspace address of its context blocks, call stacks and save
area, and the workspace address of the phase record of its successor task (R327, R336, R359, R365). -/
structure PlaceSite where
  core : Nat
  area : Nat
  recAt : Nat
deriving DecidableEq, Repr

/-- The 256 bytes of a launch-window record (R316). -/
structure Record where
  bytes : List Byte
deriving DecidableEq, Repr

/-- The transport fields of an RDMA request: port, queue pair, R_Key and RDMA virtual address (R313, R382). -/
structure RdmaReq where
  port : Nat
  qp : Nat
  rkey : Word
  va : Word64
deriving DecidableEq, Repr

/-- A firmware image with its header fields (R390). -/
structure FwImage where
  body : List Byte
  kind : Word
  version : Word
  edKey : List Byte
  mlKey : List Byte
  edSig : List Byte
  mlSig : List Byte
deriving DecidableEq, Repr

/-- The fuse block as set at test (R2, R389): the digests of the two public keys, the security version, the grade, the dies disabled. -/
structure Fuses where
  edDigest : List Byte
  mlDigest : List Byte
  svn : Word
  gradeB : Bool
  disabled : List Nat
deriving DecidableEq, Repr

/-- What boot reads (R389): the fuses, the images stage by stage, the configuration blob, and the dies whose self-test fails (R379). -/
structure BootImages where
  fuses : Fuses
  controller : FwImage
  edies : List FwImage
  mdie : FwImage
  kdie : FwImage
  crown : FwImage
  handlers : List FwImage
  config : List Byte
  selfTestFail : List Nat
deriving DecidableEq, Repr

/-- The structure an error is found in (R401). -/
inductive ErrorUnit where
  /-- state of the pool that a warp holds -/
  | warpState (w : WarpKey)
  /-- an accumulator row (R193, R217): row 0 to 27 of a B latch, a warp's configuration row, or a row of one octet's latch, partial tile and
  tiles -/
  | bLatch (g : GroupKey) (latch : Bool) (row : Nat)
  | configRow (w : WarpKey)
  | accRow (w : WarpKey) (octet row : Nat)
  /-- a cached line or an HBM sector at a physical address -/
  | line (pa : Nat)
  | hbm (pa : Nat)
  | link (link : Nat)
deriving DecidableEq, Repr

/-- One detected error (R401): die, unit, unit number as logged, and whether it could be corrected. -/
structure ErrorEvent where
  die : Nat
  unit : ErrorUnit
  unitNo : Nat
  corrected : Bool
deriving DecidableEq, Repr

/-- One SPDM request message (R391), and whether it came inside the session, which its answer then does too. -/
structure SpdmMsg where
  bytes : List Byte
  secured : Bool
deriving DecidableEq, Repr

/-- The event counter that PSEL and PCLR name (R395). -/
structure CounterName where
  die : BitVec 16
  core : BitVec 16
  num : Word
deriving DecidableEq, Repr

/-- A flit on a link that is sent again (R373). -/
structure LinkFlit where
  link : Nat
  flit : Nat
deriving DecidableEq, Repr

/-- The dies' draws, the rest of the module's, and until when a die is withheld (R387). -/
structure Withhold where
  until_ : Nat
  draws : List (Nat × Nat)
  rest : Nat
deriving DecidableEq, Repr

/-- Every step of the part: one constructor per row of the table of operations and events. The instruction rows carry the fields
of their format; the event, command and management rows carry what the row's agents bring with them. -/
inductive Instr where
  /-- IADD (R112): Format Q integer add of two sources, wrapping or saturating per element. -/
  | iadd (h : Hdr) (q : FormQ)
  /-- ISUB (R112): Format Q integer subtract, wrapping or saturating per element. -/
  | isub (h : Hdr) (q : FormQ)
  /-- IMUL (R112): Format Q integer multiply keeping the low bits or saturating. -/
  | imul (h : Hdr) (q : FormQ)
  /-- IMULH (R111): Format Q integer multiply returning the high half of the exact product. -/
  | imulh (h : Hdr) (q : FormQ)
  /-- IMAD (R112): Format Q integer multiply-add formed exactly and reduced once. -/
  | imad (h : Hdr) (q : FormQ)
  /-- IDIV (R113): Long integer division with defined divide-by-zero and overflow results that set DZ. -/
  | idiv (h : Hdr) (q : FormQ)
  /-- IREM (R113): Long integer remainder with defined divide-by-zero and overflow results that set DZ. -/
  | irem (h : Hdr) (q : FormQ)
  /-- IMIN (R111): Format Q integer minimum by type signedness. -/
  | imin (h : Hdr) (q : FormQ)
  /-- IMAX (R111): Format Q integer maximum by type signedness. -/
  | imax (h : Hdr) (q : FormQ)
  /-- IABS (R112): Integer absolute value, wrapping or saturating the most negative value. -/
  | iabs (h : Hdr) (q : FormQ)
  /-- INEG (R112): Integer negation, wrapping or saturating the most negative value. -/
  | ineg (h : Hdr) (q : FormQ)
  /-- ICMP (R114): Integer compare by condition code giving all ones or zero per element. -/
  | icmp (h : Hdr) (q : FormQ)
  /-- AND (R111): Format Q bitwise AND. -/
  | andBits (h : Hdr) (q : FormQ)
  /-- OR (R111): Format Q bitwise OR. -/
  | orBits (h : Hdr) (q : FormQ)
  /-- XOR (R111): Format Q bitwise XOR. -/
  | xorBits (h : Hdr) (q : FormQ)
  /-- NOT (R111): Bitwise complement of one source. -/
  | notBits (h : Hdr) (q : FormQ)
  /-- SHL (R115): Format Q shift left filling with zeros. -/
  | shl (h : Hdr) (q : FormQ)
  /-- SHR (R115): Format Q logical shift right. -/
  | shr (h : Hdr) (q : FormQ)
  /-- SAR (R115): Format Q arithmetic shift right. -/
  | sar (h : Hdr) (q : FormQ)
  /-- ROT (R115): Rotate left per element. -/
  | rot (h : Hdr) (q : FormQ)
  /-- POPC (R115): Population count per element. -/
  | popc (h : Hdr) (q : FormQ)
  /-- CLZ (R115): Count leading zeros per element. -/
  | clz (h : Hdr) (q : FormQ)
  /-- BREV (R115): Bit reverse per element. -/
  | brev (h : Hdr) (q : FormQ)
  /-- BFX (R116): Bit-field extract with sign or zero extension. -/
  | bfx (h : Hdr) (q : FormQ)
  /-- BFI (R116): Bit-field insert of the low bits of b into a. -/
  | bfi (h : Hdr) (q : FormQ)
  /-- SEL (R117): Per-lane select between two sources by a mask bit. -/
  | sel (h : Hdr) (q : FormQ)
  /-- SELH (R117): Builds a word from selected 16-bit halves of two sources. -/
  | selh (h : Hdr) (q : FormQ)
  /-- IADD_IMM (R109): Format QI integer add with a 32-bit immediate. -/
  | iaddImm (h : Hdr) (q : FormQI)
  /-- IMUL_IMM (R109): Format QI integer multiply with an immediate. -/
  | imulImm (h : Hdr) (q : FormQI)
  /-- AND_IMM (R109): Format QI bitwise AND with an immediate. -/
  | andBitsImm (h : Hdr) (q : FormQI)
  /-- OR_IMM (R109): Format QI bitwise OR with an immediate. -/
  | orBitsImm (h : Hdr) (q : FormQI)
  /-- XOR_IMM (R109): Format QI bitwise XOR with an immediate. -/
  | xorBitsImm (h : Hdr) (q : FormQI)
  /-- SHL_IMM (R109): Format QI shift left by an immediate count. -/
  | shlImm (h : Hdr) (q : FormQI)
  /-- SHR_IMM (R109): Format QI logical shift right by an immediate count. -/
  | shrImm (h : Hdr) (q : FormQI)
  /-- SAR_IMM (R109): Format QI arithmetic shift right by an immediate count. -/
  | sarImm (h : Hdr) (q : FormQI)
  /-- IMIN_IMM (R109): Format QI integer minimum with an immediate. -/
  | iminImm (h : Hdr) (q : FormQI)
  /-- IMAX_IMM (R109): Format QI integer maximum with an immediate. -/
  | imaxImm (h : Hdr) (q : FormQI)
  /-- FADD (R118): Correctly rounded floating-point add on f32 or bf16x2. -/
  | fadd (h : Hdr) (q : FormQ)
  /-- FSUB (R118): Correctly rounded floating-point subtract. -/
  | fsub (h : Hdr) (q : FormQ)
  /-- FMUL (R118): Correctly rounded floating-point multiply. -/
  | fmul (h : Hdr) (q : FormQ)
  /-- FFMA (R118): Fused multiply-add with one rounding. -/
  | ffma (h : Hdr) (q : FormQ)
  /-- FMIN (R119): Floating-point minimum with defined NaN and signed-zero handling. -/
  | fmin (h : Hdr) (q : FormQ)
  /-- FMAX (R119): Floating-point maximum with defined NaN and signed-zero handling. -/
  | fmax (h : Hdr) (q : FormQ)
  /-- FABS (R118): Clears the sign bit of each element. -/
  | fabs (h : Hdr) (q : FormQ)
  /-- FNEG (R118): Inverts the sign bit of each element. -/
  | fneg (h : Hdr) (q : FormQ)
  /-- FCMP (R119): Floating-point compare by condition code, setting no flag. -/
  | fcmp (h : Hdr) (q : FormQ)
  /-- FRND (R120): Rounds each element to an integral value by the rounding mode. -/
  | frnd (h : Hdr) (q : FormQ)
  /-- FCLASS (R120): Writes the class mask of each element. -/
  | fclass (h : Hdr) (q : FormQ)
  /-- FDIV (R122): Long IEEE division with defined special cases. -/
  | fdiv (h : Hdr) (q : FormQ)
  /-- FSQRT (R122): Long IEEE square root with defined special cases. -/
  | fsqrt (h : Hdr) (q : FormQ)
  /-- FADD_IMM (R109): Format QI floating-point add with an immediate, rounding rne. -/
  | faddImm (h : Hdr) (q : FormQI)
  /-- FMUL_IMM (R109): Format QI floating-point multiply with an immediate, rounding rne. -/
  | fmulImm (h : Hdr) (q : FormQI)
  /-- FMIN_IMM (R109): Format QI floating-point minimum with an immediate. -/
  | fminImm (h : Hdr) (q : FormQI)
  /-- FMAX_IMM (R109): Format QI floating-point maximum with an immediate. -/
  | fmaxImm (h : Hdr) (q : FormQI)
  /-- RCP (R123): Long special function: reciprocal, correctly rounded. -/
  | rcp (h : Hdr) (q : FormQ)
  /-- RSQ (R123): Long special function: reciprocal square root. -/
  | rsq (h : Hdr) (q : FormQ)
  /-- EX2 (R123): Long special function: base-2 exponential. -/
  | ex2 (h : Hdr) (q : FormQ)
  /-- LG2 (R123): Long special function: base-2 logarithm. -/
  | lg2 (h : Hdr) (q : FormQ)
  /-- SIN (R123): Long special function: sine in radians. -/
  | sin (h : Hdr) (q : FormQ)
  /-- COS (R123): Long special function: cosine in radians. -/
  | cos (h : Hdr) (q : FormQ)
  /-- TANH (R123): Long special function: hyperbolic tangent. -/
  | tanh (h : Hdr) (q : FormQ)
  /-- SIGM (R123): Long special function: logistic sigmoid. -/
  | sigm (h : Hdr) (q : FormQ)
  /-- CVT (R126): Converts one element to a scalar of another type under the pair rules. -/
  | cvt (h : Hdr) (q : FormQ)
  /-- QNT (R127): Quantises a value with an E8M0 scale into a narrow type. -/
  | qnt (h : Hdr) (q : FormQ)
  /-- DQNT (R128): Dequantises an element with an E8M0 scale into f32 or bf16. -/
  | dqnt (h : Hdr) (q : FormQ)
  /-- PACK (R129): Replaces element j of a word with a narrow code. -/
  | pack (h : Hdr) (q : FormQ)
  /-- UNPK (R129): Extracts element j of a word as a scalar. -/
  | unpk (h : Hdr) (q : FormQ)
  /-- SHFL (R135): Long cross-lane shuffle by index, up, down or xor. -/
  | shfl (h : Hdr) (q : FormQ)
  /-- VOTE (R136): Long cross-lane ballot, any, all or uniform vote. -/
  | vote (h : Hdr) (q : FormQ)
  /-- WRED (R137): Long sequential reduction over contributing lanes. -/
  | wred (h : Hdr) (q : FormQ)
  /-- WSCAN (R137): Long inclusive or exclusive prefix scan over lanes. -/
  | wscan (h : Hdr) (q : FormQ)
  /-- MATCH (R138): Long cross-lane match mask of equal values. -/
  | matchLanes (h : Hdr) (q : FormQ)
  /-- BCAST (R138): Long broadcast of one lane's value to executing lanes. -/
  | bcast (h : Hdr) (q : FormQ)
  /-- MOV (R130): Copies a source unchanged under the destination kind. -/
  | mov (h : Hdr) (q : FormQ)
  /-- MOVI (R130): Writes a 32-bit immediate under the destination kind. -/
  | movi (h : Hdr) (q : FormQI)
  /-- DUP (R131): Pushes copies of the n youngest queue entries. -/
  | dup (h : Hdr) (q : FormQ)
  /-- SAVE (R132): Copies n consecutive queue ages into frame slots without shifting. -/
  | save (h : Hdr) (q : FormQ)
  /-- REJOIN (R133): Permutes the queue of an arm and records its layout tag. -/
  | rejoin (h : Hdr) (q : FormQI)
  /-- BRA (R140): Gang-uniform conditional branch. -/
  | bra (h : Hdr) (b : FormB)
  /-- BRD_IF (R141): Divergent branch that splits lanes and pushes join and pending entries. -/
  | brdIf (h : Hdr) (b : FormBD)
  /-- BRD_LOOP (R143): Divergent loop-closing branch with a loop entry. -/
  | brdLoop (h : Hdr) (b : FormBD)
  /-- BRX (R144): Indexed jump through a target table, parting slices by target. -/
  | brx (h : Hdr) (b : FormB)
  /-- CALL (R31): Saves the queue to the call stack region and seeds a fresh queue. -/
  | call (h : Hdr) (b : FormB)
  /-- CALLX (R145): Indirect call to an absolute instruction index. -/
  | callx (h : Hdr) (b : FormB)
  /-- RET (R32): Restores the caller's queue and pushes the returned entries. -/
  | ret (h : Hdr) (b : FormB)
  /-- REGANG (R146): Holds slices until every live slice arrives, then merges gangs. -/
  | regang (h : Hdr) (b : FormB)
  /-- EXIT (R147): Retires the lanes of the current arm from the strand. -/
  | exit (h : Hdr) (b : FormB)
  /-- NOP (R147): Changes no state. -/
  | nop (h : Hdr) (b : FormB)
  /-- AADD (R152): A-strand register-form add. -/
  | aadd (h : Hdr) (a : FormA)
  /-- ASUB (R152): A-strand register-form subtract. -/
  | asub (h : Hdr) (a : FormA)
  /-- AMUL (R152): A-strand register-form multiply, low bits. -/
  | amul (h : Hdr) (a : FormA)
  /-- AMAD (R152): A-strand multiply plus immediate addend. -/
  | amad (h : Hdr) (a : FormA)
  /-- ASHL (R152): A-strand register-form shift left. -/
  | ashl (h : Hdr) (a : FormA)
  /-- ASHR (R152): A-strand register-form shift right, fill by type. -/
  | ashr (h : Hdr) (a : FormA)
  /-- AAND (R152): A-strand register-form AND. -/
  | aand (h : Hdr) (a : FormA)
  /-- AOR (R152): A-strand register-form OR. -/
  | aor (h : Hdr) (a : FormA)
  /-- AXOR (R152): A-strand register-form XOR. -/
  | axor (h : Hdr) (a : FormA)
  /-- AMIN (R152): A-strand register-form minimum by type. -/
  | amin (h : Hdr) (a : FormA)
  /-- AMAX (R152): A-strand register-form maximum by type. -/
  | amax (h : Hdr) (a : FormA)
  /-- AMOV (R154): Copies an x register or pair. -/
  | amov (h : Hdr) (a : FormA)
  /-- AMOVI (R154): Writes an extended immediate to an x register or pair. -/
  | amovi (h : Hdr) (a : FormA)
  /-- ACMP (R153): Register-form compare writing a g mask bit per lane. -/
  | acmp (h : Hdr) (a : FormA)
  /-- ASEL (R154): Per-lane select between two x operands by a g mask. -/
  | asel (h : Hdr) (a : FormA)
  /-- POPI (R154): Pops one IQ entry into an x register or pair. -/
  | popi (h : Hdr) (a : FormA)
  /-- AADD_IMM (R152): A-strand immediate-form add. -/
  | aaddImm (h : Hdr) (a : FormA)
  /-- ASUB_IMM (R152): A-strand immediate-form subtract. -/
  | asubImm (h : Hdr) (a : FormA)
  /-- AMUL_IMM (R152): A-strand immediate-form multiply. -/
  | amulImm (h : Hdr) (a : FormA)
  /-- ASHL_IMM (R152): A-strand immediate-form shift left. -/
  | ashlImm (h : Hdr) (a : FormA)
  /-- ASHR_IMM (R152): A-strand immediate-form shift right. -/
  | ashrImm (h : Hdr) (a : FormA)
  /-- AAND_IMM (R152): A-strand immediate-form AND. -/
  | aandImm (h : Hdr) (a : FormA)
  /-- AOR_IMM (R152): A-strand immediate-form OR. -/
  | aorImm (h : Hdr) (a : FormA)
  /-- AXOR_IMM (R152): A-strand immediate-form XOR. -/
  | axorImm (h : Hdr) (a : FormA)
  /-- AMIN_IMM (R152): A-strand immediate-form minimum. -/
  | aminImm (h : Hdr) (a : FormA)
  /-- AMAX_IMM (R152): A-strand immediate-form maximum. -/
  | amaxImm (h : Hdr) (a : FormA)
  /-- ACMP_IMM (R153): Immediate-form compare writing a g mask bit per lane. -/
  | acmpImm (h : Hdr) (a : FormA)
  /-- LD (R161): Long memory load into an x register or pair. -/
  | ld (h : Hdr) (m : FormM)
  /-- LDS (R161): Long scratch load into an x register. -/
  | lds (h : Hdr) (m : FormM)
  /-- LDX (R163): Long memory load indexed by a popped IQ entry into x. -/
  | ldx (h : Hdr) (m : FormM)
  /-- LDC (R157): Long data-segment load into x. -/
  | ldc (h : Hdr) (m : FormM)
  /-- ST (R161): Memory store of data from x. -/
  | st (h : Hdr) (m : FormM)
  /-- STS (R161): Scratch store of data from x. -/
  | sts (h : Hdr) (m : FormM)
  /-- STX (R163): Memory store from x indexed by a popped IQ entry. -/
  | stx (h : Hdr) (m : FormM)
  /-- PF (R166): Prefetch of a line that never faults. -/
  | pf (h : Hdr) (m : FormM)
  /-- LD_LQ (R163): Memory load that reserves LQ entries at issue. -/
  | ldLq (h : Hdr) (m : FormM)
  /-- LDS_LQ (R163): Scratch load into LQ. -/
  | ldsLq (h : Hdr) (m : FormM)
  /-- LDX_LQ (R163): IQ-indexed memory load into LQ. -/
  | ldxLq (h : Hdr) (m : FormM)
  /-- LDC_LQ (R163): Data-segment load into LQ. -/
  | ldcLq (h : Hdr) (m : FormM)
  /-- ST_SQ (R163): Memory store of data popped from SQ. -/
  | stSq (h : Hdr) (m : FormM)
  /-- STS_SQ (R163): Scratch store of data popped from SQ. -/
  | stsSq (h : Hdr) (m : FormM)
  /-- STX_SQ (R163): IQ-indexed memory store of data popped from SQ. -/
  | stxSq (h : Hdr) (m : FormM)
  /-- ATOM (R170): Atomic read-modify-write returning the old value. -/
  | atom (h : Hdr) (m : FormM)
  /-- RED (R170): Atomic reduction with no result. -/
  | red (h : Hdr) (m : FormM)
  /-- MRED (R173): Sends a reduction to the memory-side arithmetic unit of the home stack. -/
  | mred (h : Hdr) (m : FormM)
  /-- FENCE (R175): Waits for earlier accesses to be fixed or performed at scope, then orders later ones. -/
  | fence (h : Hdr) (m : FormM)
  /-- RFENCE (R176): Waits until earlier MRED operations are applied and invalidations acknowledged. -/
  | rfence (h : Hdr) (m : FormM)
  /-- DRAIN (R177): Waits until earlier non-temporal stores are performed at scope. -/
  | drain (h : Hdr) (m : FormM)
  /-- CWB (R178): Writes a line's dirty data to the service point of a scope. -/
  | cwb (h : Hdr) (m : FormM)
  /-- CINV (R178): Writes back and removes a line from the die's bypassed caches. -/
  | cinv (h : Hdr) (m : FormM)
  /-- COPY (R182): Starts a contiguous copy from a descriptor. -/
  | copy (h : Hdr) (m : FormM)
  /-- COPYG (R183): Starts an indexed gather or scatter copy of rows. -/
  | copyg (h : Hdr) (m : FormM)
  /-- COPYS (R185): Starts a two-dimensional tile copy with edge handling. -/
  | copys (h : Hdr) (m : FormM)
  /-- PUBLISH (R191): Waits for the group's copies into a publish-pair buffer, then flips it. -/
  | publish (h : Hdr) (m : FormM)
  /-- CPSTAT (R190): Reads, waits on, clears or reports a stage counter. -/
  | cpstat (h : Hdr) (m : FormM)
  /-- MGA (R200): Gathers A latch rows from scratch through per-lane indices. -/
  | mga (h : Hdr) (x : FormX)
  /-- MLA (R200): Loads A latch rows from scratch at a stride. -/
  | mla (h : Hdr) (x : FormX)
  /-- MLB (R202): Loads N rows of a B latch from scratch. -/
  | mlb (h : Hdr) (x : FormX)
  /-- MMA (R204): Queues a block-sum multiply into a partial or accumulator tile. -/
  | mma (h : Hdr) (x : FormX)
  /-- MMAX (R205): Queues a synthesised f32 or i32 product from slices. -/
  | mmax (h : Hdr) (x : FormX)
  /-- MZ (R209): Clears a tile, the partial tile or all tiles. -/
  | mz (h : Hdr) (x : FormX)
  /-- MDR (R210): Drains tile columns to scratch with output conversion. -/
  | mdr (h : Hdr) (x : FormX)
  /-- MDRA (R211): Drains tile columns into the octet's A latch. -/
  | mdra (h : Hdr) (x : FormX)
  /-- MSCA (R208): Applies block scales to the partial tile into an accumulator. -/
  | msca (h : Hdr) (x : FormX)
  /-- MFENCE (R213): Closes open matrix operations into a batch slot. -/
  | mfence (h : Hdr) (x : FormX)
  /-- MWAIT (R213): Waits until a batch slot, or all operations, have completed. -/
  | mwait (h : Hdr) (x : FormX)
  /-- MCFG (R203): Sets XVA and XVB for later latch loads. -/
  | mcfg (h : Hdr) (x : FormX)
  /-- ROUTE (R225): Opens a reassembly entry and sends claims for each valid routing slot. -/
  | route (h : Hdr) (e : FormE)
  /-- RTAKE (R228): Takes the oldest untaken inbox slot of a port. -/
  | rtake (h : Hdr) (e : FormE)
  /-- RRET (R229): Returns a result row or drop notice and frees the inbox slot. -/
  | rret (h : Hdr) (e : FormE)
  /-- RCLOSE_WIN (R234): Completes a routing window of the issuing core at once. -/
  | rcloseWin (h : Hdr) (e : FormE)
  /-- RCLOSE_PORT (R234): Resets a port's claim count for a window. -/
  | rclosePort (h : Hdr) (e : FormE)
  /-- RSTAT (R235): Reads window, late, drop or claim status. -/
  | rstat (h : Hdr) (e : FormE)
  /-- EOPEN_OPEN (R237): Checks a worklist descriptor and opens the worklist on every live die. -/
  | eopenOpen (h : Hdr) (e : FormE)
  /-- EOPEN_CLOSE (R237): Discards a worklist's tasks, terminates waiting pops and closes it. -/
  | eopenClose (h : Hdr) (e : FormE)
  /-- EPUSH (R238): Pushes one task per executing lane into the die's Escapement unit. -/
  | epush (h : Hdr) (e : FormE)
  /-- EPOP (R240): Pops tasks from the lowest servable bucket, or reports termination. -/
  | epop (h : Hdr) (e : FormE)
  /-- EDONE (R241): Records one completed task per executing lane. -/
  | edone (h : Hdr) (e : FormE)
  /-- ESTAT (R246): Reads local, min, sum or status of a worklist. -/
  | estat (h : Hdr) (e : FormE)
  /-- BAR (R247): Arrives at the group barrier of the strand. -/
  | bar (h : Hdr) (e : FormE)
  /-- CBAR (R247): Arrives at the cohort barrier of the strand. -/
  | cbar (h : Hdr) (e : FormE)
  /-- ABAR (R251): Arrives at an Arbor channel generation as an AND of all ones. -/
  | abar (h : Hdr) (e : FormE)
  /-- AWAIT (R251): Waits for the joined generation to release and writes its number or value. -/
  | await (h : Hdr) (e : FormE)
  /-- ARED (R251): Contributes a value to an Arbor channel reduction. -/
  | ared (h : Hdr) (e : FormE)
  /-- PHASE (R248): Ends the warp's part in the phase and names the next phase. -/
  | phase (h : Hdr) (e : FormE)
  /-- SIGNAL_HOLD (R249): Adds 1 to the predecessor count of the group's next phase. -/
  | signalHold (h : Hdr) (e : FormE)
  /-- SIGNAL_REL (R249): Releases one hold on another group's next phase. -/
  | signalRel (h : Hdr) (e : FormE)
  /-- SYS (R253): Reads, clears or writes the state named by a selector. -/
  | sys (h : Hdr) (e : FormE)
  /-- TOPO (R254): Writes the topology word named by a selector. -/
  | topo (h : Hdr) (e : FormE)
  /-- CLK (R255): Reads the time counter, its latch, a TOFS entry or the ck counter. -/
  | clk (h : Hdr) (e : FormE)
  /-- SETXV (R256): Writes the warp XV in y15 from a source. -/
  | setxv (h : Hdr) (e : FormE)
  /-- SETXV_IMM (R256): Writes the warp XV in y15 from IMM16. -/
  | setxvImm (h : Hdr) (e : FormE)
  /-- TRAP (R257): Raises cause 0x48 with the immediate. -/
  | trap (h : Hdr) (e : FormE)
  /-- BKPT (R257): Raises cause 0x40 with the immediate. -/
  | bkpt (h : Hdr) (e : FormE)
  /-- RETT (R357): Leaves handler mode, reloads the warp and resumes it. -/
  | rett (h : Hdr) (e : FormE)
  /-- SLEEP (R258): Stops issue from the strand for a number of ck. -/
  | sleep (h : Hdr) (e : FormE)
  /-- PERF (R259): Reads a granted event counter in halves. -/
  | perf (h : Hdr) (e : FormE)
  /-- LONG_RESULT_WRITE (R81): A long instruction's result is written to its destination and its flags set. -/
  | longResultWrite (w : WarpKey) (id : Nat)
  /-- LOAD_DATA_RETURN (R17): Load data returns to LQ or x, or poison is reported by the home. -/
  | loadDataReturn (w : WarpKey) (id unit : Nat)
  /-- STORE_PERFORMED (R174): A store, atomic or reduction becomes performed at its scope. -/
  | storePerformed (w : WarpKey) (id unit : Nat)
  /-- MRED_APPLY (R276): The home MSA applies an MRED and invalidates HC copies. -/
  | mredApply (w : WarpKey) (id unit : Nat)
  /-- REMOTE_WRITE_APPLY (R296): A causal write packet arrives and is applied or buffered by the receiving die. -/
  | remoteWriteApply (die src : Nat)
  /-- TRANSLATION_WALK_COMPLETE (R302): A page walk ends with a result and fetch resumes or a fault arises. -/
  | translationWalkComplete (die dom va page : Nat)
  /-- STRAND_DEADLOCK (R19): The 256-ck deadlock count expires and the C-strand traps with 0x24. -/
  | strandDeadlock (w : WarpKey)
  /-- COPY_CHUNK_COMPLETE (R186): A copy chunk completes, the cursor advances and the stage counts bytes. -/
  | copyChunkComplete (copy chunk bytes : Nat)
  /-- COPY_COMPLETE (R188): A copy completes and lowers its successor count. -/
  | copyComplete (copy : Nat)
  /-- MATRIX_OP_COMPLETE (R214): A queued matrix operation is performed and completes in issue order. -/
  | matrixOpComplete (op : Nat)
  /-- CLAIM_ARRIVE (R226): A route claim reaches a port and is accepted or dropped. -/
  | claimArrive (claim : Nat)
  /-- INBOX_ROW_ENTER (R227): An accepted row moves from staging into a free inbox slot. -/
  | inboxRowEnter (dom table port : Nat)
  /-- ROUTE_RETURN_ARRIVE (R230): A return or drop notice reaches the originating core and is applied or discarded. -/
  | routeReturnArrive (ret : Nat)
  /-- ROUTE_WINDOW_TIMEOUT (R232): The window timeout of T ck expires and the window completes. -/
  | routeWindowTimeout (die core win : Nat)
  /-- ARBOR_RELEASE (R250): A channel generation releases and the release reaches each participant. -/
  | arborRelease (seq chan die : Nat)
  /-- SLEEP_EXPIRE (R258): The sleep time expires and the strand may issue again. -/
  | sleepExpire (w : WarpKey) (strand : Strand)
  /-- CAUSE_TAKEN (R351): At an instruction boundary the lowest pending cause is taken and delivered. -/
  | causeTaken (w : WarpKey)
  /-- CROWN_PLACE (R327): The Crown places a waiting group, cohort or ready phase once room exists. -/
  | crownPlace (g : GroupKey) (die : Nat) (sites : List PlaceSite)
  /-- LAUNCH_START (R327): A launch first in its stream with its dependences met is started. -/
  | launchStart (seq : Nat)
  /-- LAUNCH (R318): A launch record is parsed, checked, accepted or rejected. -/
  | launch (win : Nat) (r : Record)
  /-- ROOT (R325): Sets a domain's translation root. -/
  | root (r : Record)
  /-- INVAL (R306): Invalidates translations for a domain or range. -/
  | inval (r : Record)
  /-- RING (R305): Installs a free-page ring for a stack and page size. -/
  | ring (r : Record)
  /-- CLEAN (R307): Performs the write-back step of a class transition for a page. -/
  | clean (r : Record)
  /-- BINDR (R343): Binds a route table and its staging region. -/
  | bindr (r : Record)
  /-- UNBINDR (R343): Unbinds a route table. -/
  | unbindr (r : Record)
  /-- FLIPS (R309): Allots flip entries to a domain. -/
  | flips (r : Record)
  /-- WORK (R336): Sets a domain's workspace. -/
  | work (r : Record)
  /-- CRING (R323): Sets a window's completion ring. -/
  | cring (r : Record)
  /-- WCONF (R313): Binds a window to a domain and queue pair and clears it. -/
  | wconf (r : Record)
  /-- CANCEL (R326): Ends a launch of a window. -/
  | cancel (r : Record)
  /-- RESUME (R363): Resumes the warp or copy held on a pending fault record. -/
  | resume (r : Record)
  /-- ABORT (R363): Aborts a suspended copy and frees its record. -/
  | abort (r : Record)
  /-- HALT (R325): Raises cause 0x41 in every warp of a group. -/
  | halt (r : Record)
  /-- PROF (R332): Copies a die's profile tables to the host. -/
  | prof (r : Record)
  /-- SLICE (R339): Sets the time slice of every core. -/
  | slice (r : Record)
  /-- PUBLISH_FLIP_REQUEST (R311): A flip request reaches the Arbor root and is serialised. -/
  | publishFlipRequest (flip : Nat)
  /-- FLIP_CLOSE (R311): A die receives the close, stalls new accesses and arrives at the AND. -/
  | flipClose (flip die : Nat)
  /-- FLIP_AND_COMPLETE (R311): The close AND completes and the root broadcasts the flip. -/
  | flipAndComplete (flip : Nat)
  /-- FLIP_TAKE (R311): A die receives the flip, inverts V and releases stalled accesses. -/
  | flipTake (flip die : Nat)
  /-- FLIP_DONE (R311): Every die has acknowledged and the PUBLISH strand continues. -/
  | flipDone (flip : Nat)
  /-- DRESET (R383): Withdraws a live die, resets it and leaves it masked. -/
  | dreset (tag : Word) (die : Nat)
  /-- RETIRE (R383): Withdraws a die and keeps it masked until power-on. -/
  | retire (tag : Word) (die : Nat)
  /-- REINSTATE (R386): Self-tests and rejoins a reset die. -/
  | reinstate (tag : Word) (die : Nat)
  /-- W0WRITE (R394): Writes a record into the next slot of window 0. -/
  | w0write (tag : Word) (r : Record)
  /-- W0RING (R394): Sets the completion ring of window 0. -/
  | w0ring (tag : Word) (addr : Word64) (key qp : Word)
  /-- GRANT (R399): Sets a domain's PERF counter grant mask. -/
  | grant (tag : Word) (dom : Byte) (mask : Word64)
  /-- WLIST (R394): Allots or frees a worklist for a domain. -/
  | wlist (tag : Word) (wl dom : Byte)
  /-- PSEL (R400): Writes an event select word and clears the counter. -/
  | psel (tag : Word) (c : CounterName) (sel : Word)
  /-- PCLR (R394): Sets an event counter to 0. -/
  | pclr (tag : Word) (c : CounterName)
  /-- ACCT (R398): Returns the accounting readout. -/
  | acct (tag : Word)
  /-- ERRLOG (R401): Returns a range of error log entries. -/
  | errlog (tag : Word) (first count : Word)
  /-- SPARE (R402): Remaps one HBM row to a spare row. -/
  | spare (tag : Word) (stack : Word) (row : Word64)
  /-- FWSTAGE (R395): Stages a firmware image piece and verifies it on the last piece. -/
  | fwstage (tag : Word) (off total flags : Word) (piece : List Byte)
  /-- FUSESVN (R394): Raises the fused security version of an image kind. -/
  | fusesvn (tag : Word) (kind version : Word)
  /-- UNASSIGNED_OPCODE (R97): An instruction word whose OP field is unassigned is issued and traps with cause 0x20. -/
  | unassignedOpcode (op : BitVec 9)
  /-- INSTRUCTION_FETCH_FAULT (R98): A strand fetches from outside its code segment and traps with cause 0x10. -/
  | instructionFetchFault
  /-- UNKNOWN_RECORD (R316): A parsed window record of unknown kind, or a command with an unknown code, is rejected with error 0x0001 or 0x000A. -/
  | unknownRecord (win : Nat) (r : Record)
  /-- UNKNOWN_MANAGEMENT_OPCODE (R395): A management request whose opcode is absent from the table is answered with status 3. -/
  | unknownManagementOpcode (tag : Word) (op : BitVec 16)
  /-- LAUNCH_COMPLETE (R324): The launch completes, makes the successor store and writes its completion record. -/
  | launchComplete (seq : Nat)
  /-- GROUP_RETIRE (R335): A group retires once its warps exited and its copies and windows completed. -/
  | groupRetire (g : GroupKey)
  /-- PHASE_END_COMPLETE (R41): The phase end completes, writes the carry set and lowers the successor count. -/
  | phaseEndComplete (g : GroupKey)
  /-- COPY_SUSPEND (R189): A copy meeting a fault or poison suspends at its cursor and writes a fault record. -/
  | copySuspend (copy : Nat)
  /-- BALANCE_TICK (R244): Every 256 ck an overloaded unit sends tasks to a less loaded neighbour. -/
  | balanceTick (wl die : Nat)
  /-- BALANCE_RECEIVE (R244): A receiving unit places balanced tasks in their buckets. -/
  | balanceReceive (transfer : Nat)
  /-- ARBOR_SAMPLE (R242): Every 256 ck the Arbor samples MIN and SUM of each open worklist. -/
  | arborSample (wl : Nat)
  /-- ARBOR_MIN_RESULT (R242): A MIN result arrives at a unit, which adopts it as G and reconsiders pops. -/
  | arborMinResult (wl die : Nat)
  /-- EOPEN_TAKE_EFFECT (R237): An open or close reaches a live die's Escapement unit. -/
  | eopenTakeEffect (op die : Nat)
  /-- PREEMPTION_REQUEST (R341): The Crown requests eviction of lower-priority warps for waiting work. -/
  | preemptionRequest (die core : Nat) (w : WarpKey)
  /-- TIME_SLICE_EXPIRY (R339): A group's time slice expires and it is swapped out. -/
  | timeSliceExpiry (g : GroupKey)
  /-- GROUP_SWAP (R339): A group is swapped out and the head of the pending set enters the active set. -/
  | groupSwap (die core : Nat)
  /-- WARP_EVICT (R364): A named warp is evicted after its waits and its register rows return. -/
  | warpEvict (w : WarpKey)
  /-- GROUP_ROWS_EVICT (R365): A fully evicted group's scratch and accumulator rows are saved and returned. -/
  | groupRowsEvict (g : GroupKey)
  /-- GROUP_RESTORE (R366): An evicted group's rows and warps are restored on its own core. -/
  | groupRestore (g : GroupKey)
  /-- LINK_RETRY (R373): A link CRC error causes a flit retry. -/
  | linkRetry (link : LinkFlit)
  /-- LINK_DOWN (R373): Sixteen failed retries mark a link down and report it. -/
  | linkDown (link : Nat)
  /-- DIE_UNRESPONSIVE (R379): A die answering no Arbor operation for 1 ms is reported. -/
  | dieUnresponsive (die : Nat)
  /-- WITHDRAW_WRITEBACK_TIMEOUT (R384): The 50 µs write-back limit expires and unwritten lines are poisoned. -/
  | withdrawWritebackTimeout (die : Nat)
  /-- WITHDRAW_WRITEBACK_DONE (R384): Every dirty line of a withdrawn die is written back or returned, and withdrawal proceeds to masking. -/
  | withdrawWritebackDone (die : Nat)
  /-- PFC_PAUSE_FRAME (R381): An IEEE 802.1Qbb priority flow control frame arrives on an Ethernet port. -/
  | pfcPauseFrame (port cls quanta : Nat)
  /-- RDMA_WRITE (R313): An RDMA WRITE to memory or a launch window is checked and committed. -/
  | rdmaWrite (r : RdmaReq) (data : List Byte)
  /-- RDMA_READ (R382): An RDMA READ is translated and answered, or NAKed. -/
  | rdmaRead (r : RdmaReq) (len : Nat)
  /-- RDMA_SEND (R381): A RoCEv2 SEND is received on a port. -/
  | rdmaSend (port qp : Nat) (data : List Byte)
  /-- RDMA_ATOMIC_REQUEST (R381): An RDMA atomic request is answered with an invalid-request NAK. -/
  | rdmaAtomicRequest (r : RdmaReq)
  /-- ETHERNET_FRAME_DISCARD (R381): A frame of another EtherType or UDP port is discarded and counted. -/
  | ethernetFrameDiscard (port etherType udpPort : Nat)
  /-- TOFS_MEASURE (R377): Firmware measures region offsets and replaces all TOFS entries. -/
  | tofsMeasure (offsets : List Int)
  /-- POWER_LIMIT_WITHHOLD (R387): The module controller withholds issue to keep total power at the grade maximum. -/
  | powerLimitWithhold (die : Nat) (until_ : Withhold)
  /-- TEMPERATURE_THROTTLE (R388): A die at 95 °C junction has issue withheld and the event reported. -/
  | temperatureThrottle (die temp until_ : Nat)
  /-- THERMAL_TRIP (R388): 105 °C on a die or 95 °C on a stack removes module power. -/
  | thermalTrip (stack : Bool) (site temp : Nat)
  /-- POWER_ON (R389): The module boots through measured stages. -/
  | powerOn (b : BootImages)
  /-- ENERGY_MEASURE (R397): Each millisecond module energy is divided among domains. -/
  | energyMeasure (mj : Nat)
  /-- ERROR_DETECT (R401): An error is detected, corrected or poisoned, and logged. -/
  | errorDetect (e : ErrorEvent)
  /-- GET_VERSION (R391): SPDM GET_VERSION request. -/
  | getVersion (c : SpdmMsg)
  /-- GET_CAPABILITIES (R391): SPDM GET_CAPABILITIES request. -/
  | getCapabilities (c : SpdmMsg)
  /-- NEGOTIATE_ALGORITHMS (R391): SPDM NEGOTIATE_ALGORITHMS request. -/
  | negotiateAlgorithms (c : SpdmMsg)
  /-- GET_DIGESTS (R391): SPDM GET_DIGESTS request. -/
  | getDigests (c : SpdmMsg)
  /-- GET_CERTIFICATE (R391): SPDM GET_CERTIFICATE request for slot 0. -/
  | getCertificate (slot : Nat) (c : SpdmMsg)
  /-- CHALLENGE (R391): SPDM CHALLENGE request. -/
  | challenge (c : SpdmMsg)
  /-- GET_MEASUREMENTS (R392): Returns MEAS0 to MEAS7 with dual signatures. -/
  | getMeasurements (signed : Bool) (c : SpdmMsg)
  /-- KEY_EXCHANGE (R393): Opens the mutually authenticated session, or answers Busy. -/
  | keyExchange (c : SpdmMsg)
  /-- FINISH (R391): SPDM FINISH request completing session setup. -/
  | finish (chain : List (List Byte)) (c : SpdmMsg)
  /-- END_SESSION (R391): SPDM END_SESSION request closing the session. -/
  | endSession (c : SpdmMsg)
  /-- SPDM_UNSUPPORTED_REQUEST (R391): Any other SPDM request is answered with ERROR UnsupportedRequest. -/
  | spdmUnsupportedRequest (code : Nat) (c : SpdmMsg)
deriving DecidableEq, Repr

/-- What the machine's own agenda may name as the next thing to happen: a gang of a strand issues its next instruction, the line
monitor looks at a window (R315), bytes arrive on the management port that carry a management request (R395), or an SPDM message, with the certificate
chain that the requester has presented (R391, R393), or an event of the table comes about. -/
inductive Act where
  | issue (w : WarpKey) (strand : Strand) (gang : Nat)
  | monitor (win : Nat)
  | manage (bytes : List Byte)
  | attest (chain : List (List Byte)) (bytes : List Byte)
  | event (i : Instr)
deriving DecidableEq, Repr

/-- One entry of the agenda: the ck that pass first, then what happens. -/
structure Entry where
  ck : Nat
  act : Act
deriving DecidableEq, Repr

end Sys2Proof
end

