-- ==== Sys2Proof/Config.lean ====
section
/-! DEFINITION. Sys2Proof/Config.lean: the fixed figures of the part (spec 00, 09, 10, 12) and the free values: opaque constants
with no body, so that no proof can learn what they are. Each is named in the assumption log. -/

namespace Sys2Proof.Config

/-- K-die coordinates of the panel (R369). -/
def dies : Nat := 512
/-- Cores of an enabled K-die: 92 clusters of 24 (R372). -/
def coresPerDie : Nat := 2208
/-- Pool rows of a core and the bytes of a row (R284). -/
def poolRows : Nat := 896
def rowBytes : Nat := 148
/-- Queue depths (R16). -/
def lqDepth : Nat := 16
def sqDepth : Nat := 8
def iqDepth : Nat := 8
/-- Reconvergence entries per slice and strand (R33), call levels (R31). -/
def stackDepth : Nat := 32
def callDepth : Nat := 8
/-- Capacity of one stack: 36 GB (R8), and what of it can be mapped (R295, R298). -/
def stackBytes : Nat := 36000000000
def stackMappable : Nat := stackBytes / 2097152 * 2097152 - 2147483648 - 67108864
/-- Copies a core may hold that have not completed (R179), matrix operations of a warp (R198). -/
def maxCopies : Nat := 32
def maxMatrixOps : Nat := 64
/-- On-chip tasks of a worklist in one unit (R238). -/
def chipTasks : Nat := 1024
/-- Fault records of a domain and where they start in the workspace (R361). -/
def faultRecords : Nat := 4096
def faultBase : Nat := 0x1000
def faultQueueBytes : Nat := faultBase + 64 * faultRecords

/-- Entries of the directory of one stack (R294). -/
def dirEntries : Nat := 2097152
/-- Entries of the translation cache of a core and of a die (R306). -/
def coreTlb : Nat := 32
def dieTlb : Nat := 8192

/-- Free: which agent moves when the agenda is empty (log 1). -/
opaque nextEntry : Nat → Option Entry
/-- Free: what a read of a destination with an outstanding long result gives (R82; log 5). -/
opaque freeWord : Nat → Word
/-- Free: the event counts that only timing decides (R48, R400; log 20). -/
opaque freeCount : Nat → Word64
/-- Free: this part's .f32 special functions, by opcode (R123, R125; log 7); Machine/Sfu.lean keeps them within their bounds. -/
opaque specialF32 : Nat → Word → Word
/-- Free: the region-0 time counter at power-on and each region's offset from it (R377; log 8). -/
opaque clockStart : Word64
opaque regionOffset : Nat → Int
/-- Free: how far a die's counter stands from its region's, at most 2 ns (R377; log 8). -/
opaque dieSkew : Nat → Fin 3
/-- Free: the remote-line cache's set of a line (R295 names none; log 12). -/
opaque rlcSet : Nat → Nat
/-- Free: the path MTU of a queue pair, 1 024, 2 048 or 4 096 bytes (R381; log 73). -/
opaque pathMtu : Nat → Fin 3
/-- Free: the bytes of a stack that a look into the remote-line cache's tags takes (R295), and those that a change of a directory entry takes
(R294, R396); log 66. -/
opaque tagBytes : Nat
opaque dirBytes : Nat
/-- Free: spare rows of a stack (R402 gives no count; log 21). -/
opaque spareRows : Nat → Nat
/-- Free: what makes this device itself: the 32-byte seeds of its Ed25519 key and of its ML-DSA-65 key (R391, R392; log 17). -/
opaque deviceSeed : Nat → Byte
/-- Free: the certificates above the device's, root first, and what its own holds beside its two public keys: its serial number, its issuer's name,
its dates, its own name, the identifier of the vendor extension, its issuer's signature (R391; log 17). -/
opaque issuers : List (List Byte)
opaque certText : Nat → List Byte
/-- Free: the figures that SPDM leaves to the responder: its time exponent, transfer size and message size (R391; log 17). -/
opaque spdmFigure : Nat → Nat
/-- Free: the weights of the energy shares by counter, as the module controller's firmware fixes them, whose register is MEAS1 (R397; log 18). -/
opaque energyWeight : List Byte → Nat → Nat

end Sys2Proof.Config
end

