-- ==== Sys2Proof/WellFormed.lean ====
section
/-! DEFINITION. Sys2Proof/WellFormed.lean: the decode check of R80 step 2: reserved fields, unused fields and reserved values. A word that
fails it traps with cause 0x21. Checks that need the state (strand, handler mode, tiles, recorded types) stand with the meanings. -/

namespace Sys2Proof

/-- Specifier codes 0 to 60 name a source (R85). -/
def srcOk (c : BitVec 7) : Bool := c.toNat ≤ 60

/-- Formats X and E have no TYPE, so the one source (code 60) is refused (R107). -/
def srcOkNoOne (c : BitVec 7) : Bool := c.toNat ≤ 59

/-- A source field: a specifier when read, 0 when not (R85). -/
def srcField (used : Bool) (c : BitVec 7) : Bool := if used then srcOk c else c == 0

def srcFieldNoOne (used : Bool) (c : BitVec 7) : Bool := if used then srcOkNoOne c else c == 0

/-- DK and FS together (R84, R25, R26): FS is 0 for kinds 0, 3, 4 and 7, at most 15 for kind 5, and a mask m1 to m7 for kind 6. -/
def dstOk (dk : BitVec 3) (fs : BitVec 5) : Bool :=
  match dk.toNat with
  | 1 | 2 => true
  | 5 => fs.toNat < 16
  | 6 => 1 ≤ fs.toNat && fs.toNat < 8
  | _ => fs == 0

/-- The guard of instructions that must not carry one. -/
def noGuard (h : Hdr) : Bool := h.gm == 0 && !h.gp

/-- What one format Q instruction allows (R109): the sources it reads, its types, and the use of RND, SAT, FLAG, SUB and DK. -/
structure QRule where
  nsrc : Nat
  types : List Nat
  rnd : Bool := false
  sat : Bool := false
  flag : Bool := false
  sub : Nat → Bool := fun s => s == 0
  dk : BitVec 3 → Bool := fun _ => true

def QRule.ok (r : QRule) (q : FormQ) : Bool :=
  srcField (0 < r.nsrc) q.sa && srcField (1 < r.nsrc) q.sb && srcField (2 < r.nsrc) q.sc &&
  r.types.contains q.ty.toNat && (r.rnd || q.rnd == 0) && (r.sat || !q.sat) && (r.flag || !q.flag) &&
  r.sub q.sub.toNat && r.dk q.dk && dstOk q.dk q.fs

/-- Elements of a type in a 32-bit word (R57). -/
def elemsOfCode (ty : Nat) : Nat :=
  match ty with
  | 0 | 1 | 4 => 1
  | 2 | 3 | 5 | 11 | 12 | 13 => 2
  | 7 => 5
  | 8 => 8
  | _ => 4

def ints : List Nat := [0, 1, 2, 3]
def floats : List Nat := [4, 5]

/-- The width of an integer type, 0 for any other (R54). -/
def intWidth (ty : Nat) : Nat :=
  match ty with
  | 0 | 1 => 32
  | 2 | 3 | 11 | 12 => 16
  | 9 | 10 => 8
  | _ => 0

/-- CVT's fields (R126): destination type, element index, the e8m0 restriction and the pairs that take SAT. -/
def cvtOk (q : FormQ) : Bool :=
  let src := q.ty.toNat
  let s := q.sub.toNat
  let dst := s % 16
  (QRule.mk 1 (List.range 15) true true false (fun _ => true) (fun _ => true)).ok q &&
  [0, 1, 4, 6, 7, 8, 9, 10, 11, 12, 13].contains dst && (s / 16 % 8 < elemsOfCode src) && (s < 128) &&
  (src != 14 || dst == 4 || dst == 13) &&
  (!q.sat || (src == 4 && dst == 13) || (0 < intWidth dst && intWidth dst < intWidth src))

/-- QNT's fields (R127). -/
def qntOk (q : FormQ) : Bool :=
  (QRule.mk 2 [6, 7, 8, 9, 10, 11, 12] true false true (fun s => s == 4 || s == 13) (fun _ => true)).ok q &&
  (!q.flag || q.ty == 8)

/-- DQNT's fields (R128). -/
def dqntOk (q : FormQ) : Bool :=
  let s := q.sub.toNat
  (QRule.mk 2 [6, 7, 8, 9, 10, 13] true false false (fun _ => true) (fun _ => true)).ok q &&
  (s % 16 == 4 || s % 16 == 13) && (s / 16 % 8 < elemsOfCode q.ty.toNat) && (s < 128)

/-- PACK and UNPK (R129). -/
def packOk (nsrc : Nat) (q : FormQ) : Bool :=
  (QRule.mk nsrc [6, 7, 8, 9, 10, 11, 12, 13, 14] false false false (fun s => s < elemsOfCode q.ty.toNat) (fun _ => true)).ok q

/-- WRED and WSCAN (R137). -/
def wredOk (flag : Bool) (q : FormQ) : Bool :=
  let s := q.sub.toNat
  (QRule.mk 1 [0, 1, 4] true true flag (fun s => s ≤ 8) (fun _ => true)).ok q &&
  (if s ≤ 5 then q.ty.toNat ≤ 1 else q.ty == 4) && (s == 6 || q.rnd == 0) && (s == 0 || !q.sat)

/-- Format QI (R88, R99): the register source, when read, and the types of the format Q form. -/
def qiOk (types : List Nat) (q : FormQI) : Bool := srcOk q.sa && types.contains q.ty.toNat && dstOk q.dk q.fs

/-- COND 0 (AL) requires no guard (R89). -/
def condZero (h : Hdr) (b : FormB) : Bool := b.cond == 0 && noGuard h

/-- BRA (R89, R90). -/
def braOk (h : Hdr) (b : FormB) : Bool :=
  b.cond.toNat ≤ 5 && (if b.cond.toNat ≥ 4 then b.aux.toNat < 16 else b.aux == 0) &&
  ((1 ≤ b.cond.toNat && b.cond.toNat ≤ 3) || noGuard h)

/-- The fields of AUX (R90). -/
def FormB.k (b : FormB) : Nat := b.aux.toNat / 1024
def FormB.src (b : FormB) : BitVec 7 := b.aux.extractLsb' 0 7
def FormB.tableLen (b : FormB) : Nat := b.aux.toNat / 128 + 1

/-- Format A: a legal type, and even register fields for the 64-bit types (R92). -/
def aRegOk (ty : BitVec 3) (r : BitVec 5) : Bool := ty.toNat < 2 || r.toNat % 2 == 0

def aOk (a : FormA) (useD useA useB useImm : Bool) : Bool :=
  a.ty.toNat ≤ 3 && (useD || a.xd == 0) && (useA || a.xa == 0) && (useB || a.xb == 0) && (useImm || a.imm == 0) &&
  (!useD || aRegOk a.ty a.xd) && (!useA || aRegOk a.ty a.xa) && (!useB || aRegOk a.ty a.xb)

/-- ACMP's destination mask g1 to g7 (R92, R153). -/
def acmpDst (a : FormA) : Bool := 1 ≤ a.xd.toNat && a.xd.toNat ≤ 7

def acmpRegOk (a : FormA) : Bool :=
  a.ty.toNat ≤ 3 && acmpDst a && a.imm.toNat ≤ 5 && aRegOk a.ty a.xa && aRegOk a.ty a.xb

def acmpImmOk (a : FormA) : Bool := a.ty.toNat ≤ 3 && acmpDst a && a.xb.toNat ≤ 5 && aRegOk a.ty a.xa

/-- Register alignment by access size: even for b64, a multiple of 4 for b128 (R93). -/
def sizeRegOk (size : BitVec 3) (r : BitVec 5) : Bool :=
  match size.toNat with
  | 3 => r.toNat % 2 == 0
  | 4 => r.toNat % 4 == 0
  | _ => true

/-- The address fields and reserved codes of format M (R93, R165). -/
def mOk (m : FormM) : Bool :=
  m.xbase.toNat % 2 == 0 && m.size.toNat ≤ 6 && m.scope.toNat ≤ 5 && m.pol.toNat ≤ 5 && (m.ie || m.xi == 0) &&
  (!m.nt || m.pol == 0)

def mPlain (m : FormM) : Bool := m.scope == 0 && !m.nt && m.pol == 0

def storeSize (m : FormM) : Bool := m.size.toNat ≤ 4

/-- The atomic layout of bits 23:0 (R94). -/
def FormM.xr (m : FormM) : BitVec 5 := m.imm.extractLsb' 19 5
def FormM.aop (m : FormM) : BitVec 4 := m.imm.extractLsb' 15 4
def FormM.imm15 (m : FormM) : BitVec 15 := m.imm.extractLsb' 0 15

/-- The legal pairs of AOP and SIZE (R168); kind 0 ATOM, 1 RED, 2 MRED. -/
def aopSize (kind : Nat) (aop size : Nat) : Bool :=
  if aop ≤ 2 then size == 2 || (size == 3 && kind ≤ 1)
  else if aop ≤ 7 then kind ≤ 1 && (size == 2 || size == 3)
  else if aop ≤ 9 then kind == 0 && (size == 2 || size == 3)
  else if aop ≤ 12 then size == 2
  else size == 1 || size == 2

def atomicOk (kind : Nat) (m : FormM) : Bool :=
  m.xbase.toNat % 2 == 0 && m.scope.toNat ≤ 5 && m.pol.toNat ≤ 5 && (m.ie || m.xi == 0) &&
  aopSize kind m.aop.toNat m.size.toNat &&
  (kind == 0 || m.xr == 0) &&
  (m.size != 3 || (m.xd.toNat % 2 == 0 && m.xr.toNat % 2 == 0)) &&
  (m.aop != 9 || (if m.size == 3 then m.xd.toNat % 4 == 0 else m.xd.toNat % 2 == 0)) &&
  (if kind == 2 then mPlain m else (!m.nt || (m.scope == 0 && m.pol == 0)))

/-- FENCE, RFENCE, DRAIN (R174): SIZE holds the kind of a FENCE and is 0 otherwise. -/
def fenceOk (lo hi : Nat) (m : FormM) : Bool :=
  m.xd == 0 && m.xbase == 0 && m.xi == 0 && !m.ie && m.imm == 0 && !m.nt && m.pol == 0 && m.scope.toNat ≤ 5 &&
  lo ≤ m.size.toNat && m.size.toNat ≤ hi

def lineOk (m : FormM) : Bool :=
  m.xd == 0 && m.size == 0 && !m.nt && m.pol == 0 && m.scope.toNat ≤ 5 && m.xbase.toNat % 2 == 0 && (m.ie || m.xi == 0)

def copyOk (m : FormM) : Bool :=
  m.xd == 0 && m.size == 0 && mPlain m && m.xbase.toNat % 2 == 0 && (m.ie || m.xi == 0)

def cpstatOk (m : FormM) : Bool :=
  m.xbase == 0 && m.xi == 0 && !m.ie && m.size == 0 && mPlain m && m.imm.toNat < 40

/-- Format X (R195): which of the fields an instruction uses. A reserved SHAPE and a type that the instruction does not take are checks of R197,
made at issue. -/
structure XRule where
  acc : Bool := false
  sa : Bool := false
  sb : Bool := false
  sc : Bool := false
  ta : Bool := false
  tb : Bool := false
  shape : Bool := false
  ctl : Bool := false
  imm8 : Bool := false

def XRule.ok (r : XRule) (x : FormX) : Bool :=
  (r.acc || x.acc == 0) && srcFieldNoOne r.sa x.sa && srcFieldNoOne r.sb x.sb && srcFieldNoOne r.sc x.sc &&
  (r.ta || x.ta == 0) && (r.tb || x.tb == 0) &&
  (r.shape || x.shape == 0) && (r.ctl || x.ctl == 0) && (r.imm8 || x.imm8 == 0) && !x.rsv

/-- The element types MMA multiplies (R204). -/
def mmaType (t : BitVec 4) : Bool := [6, 7, 8, 9, 10, 13].contains t.toNat

def mmaOk (x : FormX) : Bool :=
  let p := x.ctl.getLsbD 0
  let z := x.ctl.getLsbD 1
  let i := x.ctl.getLsbD 2
  ({ acc := true, ta := true, tb := true, shape := true, ctl := true, imm8 := true } : XRule).ok x &&
  mmaType x.ta && mmaType x.tb && x.ctl.toNat < 8 && x.imm8.toNat < 2 &&
  (!p || (x.acc == 0 && !z && !i)) && (!i || ((x.ta == 9 || x.ta == 10) && (x.tb == 9 || x.tb == 10)))

def mmaxOk (x : FormX) : Bool :=
  ({ acc := true, ta := true, tb := true, shape := true, ctl := true, imm8 := true } : XRule).ok x &&
  (x.ta == 0 || x.ta == 4) && x.tb == x.ta && x.ctl.toNat < 4 && x.imm8.toNat < 2 && (x.ta == 4 || !x.ctl.getLsbD 0)

def mzOk (x : FormX) : Bool :=
  ({ acc := true, ctl := true } : XRule).ok x && x.ctl.toNat < 4 && (!x.ctl.getLsbD 1 || x.acc == 0)

/-- The output types of MDR and MDRA with their rounding and saturation (R210). -/
def drainOk (x : FormX) : Bool :=
  [0, 4, 6, 7, 8, 9, 10, 13].contains x.ta.toNat && x.ctl.toNat < 8 &&
  ((x.ta != 0 && x.ta != 4) || x.ctl.toNat % 4 == 0) && (x.ta == 13 || !x.ctl.getLsbD 2)

def mcfgOk (x : FormX) : Bool :=
  let a := x.ctl.getLsbD 0
  let b := x.ctl.getLsbD 1
  ({ sa := a, sb := b, ctl := true } : XRule).ok x && 1 ≤ x.ctl.toNat && x.ctl.toNat ≤ 3

/-- Format E (R219): the sources read, whether there is a register result, and the IMM16 and SUBE values allowed. -/
structure ERule where
  result : Bool := false
  sa : Bool := false
  sb : Bool := false
  sc : Bool := false
  imm : Nat → Bool := fun n => n == 0
  sube : Nat → Bool := fun n => n == 0
  fs : Bool := false
  unguarded : Bool := false

def ERule.ok (r : ERule) (h : Hdr) (e : FormE) : Bool :=
  (if r.result then dstOk e.dk e.fs else e.dk == 0 && (r.fs || e.fs == 0)) &&
  srcFieldNoOne r.sa e.sa && srcFieldNoOne r.sb e.sb && srcFieldNoOne r.sc e.sc &&
  r.imm e.imm16.toNat && r.sube e.sube.toNat && (!r.unguarded || noGuard h)

/-- The subfields of IMM16 (R219): table, window, port. -/
def FormE.table (e : FormE) : Nat := e.imm16.toNat / 4096
def FormE.window (e : FormE) : Nat := e.imm16.toNat / 256 % 16
def FormE.port (e : FormE) : Nat := e.imm16.toNat % 256
/-- The worklist that IMM16 names (R219). -/
def FormE.wl (e : FormE) : Nat := e.imm16.toNat % 16
/-- The Arbor channel that IMM16 names (R219). -/
def FormE.channel (e : FormE) : Nat := e.imm16.toNat % 8

def rstatOk (h : Hdr) (e : FormE) : Bool :=
  ({ result := true, sube := fun m => m ≤ 3,
     imm := fun n => match e.sube.toNat with
       | 0 => n / 4096 == 0 && n % 256 == 0
       | 3 => true
       | _ => n == 0 } : ERule).ok h e

def clkOk (h : Hdr) (e : FormE) : Bool :=
  ({ result := true, sube := fun m => m ≤ 3, imm := fun n => if e.sube == 2 then n < 16 else n == 0 } : ERule).ok h e

def perfOk (h : Hdr) (e : FormE) : Bool :=
  ({ result := true, sube := fun m => m ≤ 1, imm := fun n => n < 4 || (32 ≤ n && n < 64) } : ERule).ok h e

/-- A launch-window record has 256 bytes and a window number (R313, R314). -/
def recordOk (r : Record) : Bool := r.bytes.length == 256

/-- R80 step 2, instruction by instruction; for a row without an instruction word, the form of what its agent brings. -/
def Instr.wellFormed : Instr → Bool
  | .iadd _ q | .isub _ q | .imul _ q => (QRule.mk 2 ints false true false (· == 0) (fun _ => true)).ok q
  | .imad _ q => (QRule.mk 3 ints false true false (· == 0) (fun _ => true)).ok q
  | .imulh _ q | .idiv _ q | .irem _ q | .imin _ q | .imax _ q | .andBits _ q | .orBits _ q | .xorBits _ q
  | .shl _ q | .shr _ q | .sar _ q | .rot _ q => ({ nsrc := 2, types := ints } : QRule).ok q
  | .iabs _ q | .ineg _ q => ({ nsrc := 1, types := [0, 2], sat := true } : QRule).ok q
  | .icmp _ q => ({ nsrc := 2, types := ints, sub := fun s => s ≤ 5 } : QRule).ok q
  | .notBits _ q | .popc _ q | .clz _ q | .brev _ q => ({ nsrc := 1, types := ints } : QRule).ok q
  | .bfx _ q | .bfi _ q => ({ nsrc := 3, types := [0, 1] } : QRule).ok q
  | .sel _ q | .selh _ q => ({ nsrc := 2, types := [0], sub := fun s => s < 16 } : QRule).ok q
  | .iaddImm _ q | .imulImm _ q | .andBitsImm _ q | .orBitsImm _ q | .xorBitsImm _ q | .shlImm _ q | .shrImm _ q
  | .sarImm _ q | .iminImm _ q | .imaxImm _ q => qiOk ints q
  | .fadd _ q | .fsub _ q | .fmul _ q | .fdiv _ q => ({ nsrc := 2, types := floats, rnd := true, sat := true } : QRule).ok q
  | .ffma _ q => ({ nsrc := 3, types := floats, rnd := true, sat := true } : QRule).ok q
  | .fsqrt _ q => ({ nsrc := 1, types := floats, rnd := true, sat := true } : QRule).ok q
  | .fmin _ q | .fmax _ q => ({ nsrc := 2, types := floats } : QRule).ok q
  | .fabs _ q | .fneg _ q | .fclass _ q => ({ nsrc := 1, types := floats } : QRule).ok q
  | .fcmp _ q => ({ nsrc := 2, types := floats, sub := fun s => s < 8 } : QRule).ok q
  | .frnd _ q | .rcp _ q => ({ nsrc := 1, types := floats, rnd := true } : QRule).ok q
  | .faddImm _ q | .fmulImm _ q | .fminImm _ q | .fmaxImm _ q => qiOk floats q
  | .rsq _ q | .ex2 _ q | .lg2 _ q | .sin _ q | .cos _ q | .tanh _ q | .sigm _ q =>
    ({ nsrc := 1, types := floats } : QRule).ok q
  | .cvt _ q => cvtOk q
  | .qnt _ q => qntOk q
  | .dqnt _ q => dqntOk q
  | .pack _ q => packOk 2 q
  | .unpk _ q => packOk 1 q
  | .shfl _ q => ({ nsrc := 2, types := [0], flag := true, sub := fun s => s < 4 } : QRule).ok q &&
      (!q.flag || q.sub == 1 || q.sub == 2)
  | .vote _ q => ({ nsrc := 1, types := [0], flag := true, sub := fun s => s < 4 } : QRule).ok q && (!q.flag || q.sub == 0)
  | .wred _ q => wredOk false q
  | .wscan _ q => wredOk true q
  | .matchLanes _ q => ({ nsrc := 1, types := [0], flag := true, dk := fun d => d != 6 } : QRule).ok q
  | .bcast _ q => (if q.flag then ({ nsrc := 1, types := [0], flag := true } : QRule).ok q
      else ({ nsrc := 2, types := [0] } : QRule).ok q)
  | .mov _ q => ({ nsrc := 1, types := [0] } : QRule).ok q
  | .movi _ q => q.sa == 0 && dstOk q.dk q.fs
  | .dup _ q => ({ nsrc := 0, types := [0], sub := fun s => 1 ≤ s && s ≤ 4, dk := fun d => d == 0 } : QRule).ok q
  | .save _ q => ({ nsrc := 1, types := [0], sub := fun s => s < 8, dk := fun d => d == 2 } : QRule).ok q &&
      (q.sa.toNat + q.sub.toNat ≤ 7) && (q.fs.toNat + q.sub.toNat ≤ 31)
  | .rejoin h q => noGuard h && q.dk == 0 && q.fs == 0 && q.sa == 0 && q.ty == 0
  | .bra h b => braOk h b
  | .brdIf _ _ => true
  | .brdLoop _ b => b.rcv == 0
  | .brx h b => condZero h b && srcOk b.src && b.off.toNat % 4 == 0
  | .call h b => condZero h b && b.k ≤ 8 && b.aux.toNat % 1024 == 0
  | .callx h b => condZero h b && b.k ≤ 8 && b.aux.toNat / 128 % 8 == 0 && srcOk b.src && b.off == 0
  | .ret h b => condZero h b && b.k ≤ 8 && b.aux.toNat % 1024 == 0 && b.off == 0
  | .regang h b | .exit h b | .nop h b => condZero h b && b.aux == 0 && b.off == 0
  | .aadd _ a | .asub _ a | .amul _ a | .ashl _ a | .ashr _ a | .aand _ a | .aor _ a | .axor _ a | .amin _ a
  | .amax _ a => aOk a true true true false
  | .amad _ a => aOk a true true true true
  | .amov _ a => aOk a true true false false
  | .amovi _ a => aOk a true false false true
  | .acmp _ a => acmpRegOk a
  | .asel _ a => aOk a true true true true && a.imm.toNat < 8
  | .popi _ a => aOk a true false false false
  | .aaddImm _ a | .asubImm _ a | .amulImm _ a | .ashlImm _ a | .ashrImm _ a | .aandImm _ a | .aorImm _ a | .axorImm _ a
  | .aminImm _ a | .amaxImm _ a => aOk a true true false true
  | .acmpImm _ a => acmpImmOk a
  | .ld _ m | .ldx _ m => mOk m && sizeRegOk m.size m.xd
  | .lds _ m => mOk m && sizeRegOk m.size m.xd && mPlain m
  | .ldc _ m => mOk m && sizeRegOk m.size m.xd && mPlain m && m.xbase == 0
  | .st _ m | .stx _ m => mOk m && sizeRegOk m.size m.xd && storeSize m
  | .sts _ m => mOk m && sizeRegOk m.size m.xd && storeSize m && mPlain m
  | .pf _ m => mOk m && m.xd == 0 && !m.nt && m.scope == 0
  | .ldLq _ m | .ldxLq _ m => mOk m && m.xd == 0
  | .ldsLq _ m => mOk m && m.xd == 0 && mPlain m
  | .ldcLq _ m => mOk m && m.xd == 0 && mPlain m && m.xbase == 0
  | .stSq _ m | .stxSq _ m => mOk m && m.xd == 0 && storeSize m
  | .stsSq _ m => mOk m && m.xd == 0 && storeSize m && mPlain m
  | .atom _ m => atomicOk 0 m
  | .red _ m => atomicOk 1 m
  | .mred _ m => atomicOk 2 m
  | .fence _ m => fenceOk 1 3 m
  | .rfence _ m | .drain _ m => fenceOk 0 0 m
  | .cwb _ m | .cinv _ m => lineOk m
  | .copy _ m | .copyg _ m | .copys _ m | .publish _ m => copyOk m
  | .cpstat _ m => cpstatOk m
  | .mga _ x => ({ sa := true, sb := true, sc := true, ta := true } : XRule).ok x
  | .mla _ x => ({ sa := true, sb := true, ta := true } : XRule).ok x
  | .mlb _ x => ({ sa := true, sb := true, tb := true, shape := true, imm8 := true } : XRule).ok x
  | .mma _ x => mmaOk x
  | .mmax _ x => mmaxOk x
  | .mz _ x => mzOk x
  | .mdr _ x => ({ acc := true, sa := true, sb := true, ta := true, shape := true, ctl := true } : XRule).ok x
  | .mdra _ x => ({ acc := true, ta := true, shape := true, ctl := true } : XRule).ok x && drainOk x
  | .msca _ x => ({ acc := true, sa := true, sb := true, shape := true } : XRule).ok x
  | .mfence h x => ({ imm8 := true } : XRule).ok x && x.imm8.toNat < 8 && noGuard h
  | .mwait h x => ({ ctl := true, imm8 := true } : XRule).ok x && x.ctl.toNat < 2 &&
      (if x.ctl == 1 then x.imm8 == 0 else x.imm8.toNat < 8) && noGuard h
  | .mcfg _ x => mcfgOk x
  | .route h e => ({ sa := true, imm := fun n => n % 256 == 0, sube := fun m => m ≤ 1 } : ERule).ok h e
  | .rtake h e => ({ result := true, imm := fun n => n / 256 % 16 == 0, sube := fun m => m ≤ 1 } : ERule).ok h e
  | .rret h e => ({ sa := true, sb := e.sube == 0, imm := fun n => n / 256 % 16 == 0, sube := fun m => m ≤ 1 } : ERule).ok h e
  | .rcloseWin h e => ({ imm := fun n => n / 4096 == 0 && n % 256 == 0 } : ERule).ok h e
  | .rclosePort h e => ({ imm := fun _ => true, sube := fun m => m == 1 } : ERule).ok h e
  | .rstat h e => rstatOk h e
  | .eopenOpen h e => ({ sa := true, imm := fun n => n < 16 } : ERule).ok h e
  | .eopenClose h e => ({ imm := fun n => n < 16, sube := fun m => m == 1 } : ERule).ok h e
  | .epush h e => ({ sa := true, sb := true, sc := true, imm := fun n => n < 16, sube := fun m => m ≤ 1,
                     fs := e.sube == 1 } : ERule).ok h e
  | .epop h e => ({ imm := fun n => n < 16, sube := fun m => m ≤ 1, fs := true } : ERule).ok h e && e.fs.toNat + 3 ≤ 31
  | .edone h e => ({ imm := fun n => n < 16 } : ERule).ok h e
  | .estat h e => ({ result := true, imm := fun n => n < 16, sube := fun m => m ≤ 3 } : ERule).ok h e
  | .bar h e | .cbar h e => ({ unguarded := true } : ERule).ok h e
  | .abar h e => ({ imm := fun n => n < 8, unguarded := true } : ERule).ok h e
  | .await h e => ({ result := true, imm := fun n => n < 8, sube := fun m => m ≤ 1 } : ERule).ok h e
  | .ared h e => ({ result := true, sa := true, imm := fun n => n < 8, sube := fun m => m ≤ 2 } : ERule).ok h e
  | .phase h e => ({ imm := fun _ => true, unguarded := true } : ERule).ok h e
  | .signalHold h e => ({ unguarded := true } : ERule).ok h e
  | .signalRel h e => ({ sa := true, sube := fun m => m == 1, unguarded := true } : ERule).ok h e
  | .sys h e => ({ result := true, sa := e.sube != 0, imm := fun _ => true, sube := fun m => m ≤ 2 } : ERule).ok h e
  | .topo h e => ({ result := true, sa := true, imm := fun n => n ≤ 5 } : ERule).ok h e
  | .clk h e => clkOk h e
  | .setxv h e => ({ sa := true } : ERule).ok h e
  | .setxvImm h e => ({ imm := fun _ => true, sube := fun m => m == 1 } : ERule).ok h e
  | .trap h e | .bkpt h e => ({ imm := fun _ => true, unguarded := true } : ERule).ok h e
  | .rett h e => ({ sube := fun m => m ≤ 1, unguarded := true } : ERule).ok h e
  | .sleep h e => ({ imm := fun _ => true, unguarded := true } : ERule).ok h e
  | .perf h e => perfOk h e
  | .launch w r => w < 256 && recordOk r
  | .unknownRecord w r => w < 256 && recordOk r
  | .root r | .inval r | .ring r | .clean r | .bindr r | .unbindr r | .flips r | .work r | .cring r | .wconf r | .cancel r
  | .resume r | .abort r | .halt r | .prof r | .slice r => recordOk r
  | .w0write _ r => recordOk r
  | _ => true

end Sys2Proof
end

