-- ==== Sys2Proof/Decode.lean ====
section
/-! DEFINITION. Sys2Proof/Decode.lean: instruction words to instructions and back (R79 to R97), launch-window records (R316, R325) and
management messages (R395). Every decoder is total; what it refuses it refuses by name. -/

namespace Sys2Proof

/-- Little-endian value of a byte string (R9). -/
def leNat : List Byte → Nat
  | [] => 0
  | b :: bs => b.toNat + 256 * leNat bs

/-- The n low bytes of a number, least significant first (R9). -/
def leBytes : Nat → Nat → List Byte
  | 0, _ => []
  | n + 1, v => BitVec.ofNat 8 v :: leBytes n (v / 256)

/-- Bytes off to off + n − 1 of a message. -/
def bytesAt (bs : List Byte) (off n : Nat) : List Byte := (bs.drop off).take n

def leAt (bs : List Byte) (off n : Nat) : Nat := leNat (bytesAt bs off n)

/-- The word of an opcode, header and body (R79). -/
def wordOf (op : BitVec 9) (h : Hdr) (body : BitVec 50) : Word64 :=
  op ++ BitVec.ofBool h.sw ++ h.gm ++ BitVec.ofBool h.gp ++ body

def Hdr.ofWord (w : Word64) : Hdr := ⟨w.getLsbD 54, w.extractLsb' 51 3, w.getLsbD 50⟩

def opOf (w : Word64) : BitVec 9 := w.extractLsb' 55 9

def bodyOf (w : Word64) : BitVec 50 := w.extractLsb' 0 50

def FormQ.bits (q : FormQ) : BitVec 50 :=
  q.dk ++ q.fs ++ q.sa ++ q.sb ++ q.sc ++ q.ty ++ q.rnd ++ BitVec.ofBool q.sat ++ BitVec.ofBool q.flag ++ q.sub

def FormQ.ofBits (b : BitVec 50) : FormQ :=
  ⟨b.extractLsb' 47 3, b.extractLsb' 42 5, b.extractLsb' 35 7, b.extractLsb' 28 7, b.extractLsb' 21 7, b.extractLsb' 17 4,
   b.extractLsb' 15 2, b.getLsbD 14, b.getLsbD 13, b.extractLsb' 0 13⟩

def FormQI.bits (q : FormQI) : BitVec 50 := q.dk ++ q.fs ++ q.sa ++ q.ty ++ q.imm

def FormQI.ofBits (b : BitVec 50) : FormQI :=
  ⟨b.extractLsb' 47 3, b.extractLsb' 42 5, b.extractLsb' 35 7, b.extractLsb' 32 3, b.extractLsb' 0 32⟩

def FormB.bits (b : FormB) : BitVec 50 := b.cond ++ b.aux ++ b.off

def FormB.ofBits (b : BitVec 50) : FormB := ⟨b.extractLsb' 46 4, b.extractLsb' 32 14, b.extractLsb' 0 32⟩

def FormBD.bits (b : FormBD) (mode : BitVec 2) : BitVec 50 := b.tgt ++ b.rcv ++ mode

def FormBD.ofBits (b : BitVec 50) : FormBD := ⟨b.extractLsb' 26 24, b.extractLsb' 2 24⟩

def FormA.bits (a : FormA) : BitVec 50 := a.xd ++ a.xa ++ a.xb ++ a.ty ++ a.imm

def FormA.ofBits (b : BitVec 50) : FormA :=
  ⟨b.extractLsb' 45 5, b.extractLsb' 40 5, b.extractLsb' 35 5, b.extractLsb' 32 3, b.extractLsb' 0 32⟩

def FormM.bits (m : FormM) : BitVec 50 :=
  m.xd ++ m.xbase ++ m.xi ++ m.size ++ m.scope ++ BitVec.ofBool m.nt ++ BitVec.ofBool m.ie ++ m.pol ++ m.imm

def FormM.ofBits (b : BitVec 50) : FormM :=
  ⟨b.extractLsb' 45 5, b.extractLsb' 40 5, b.extractLsb' 35 5, b.extractLsb' 32 3, b.extractLsb' 29 3, b.getLsbD 28, b.getLsbD 27,
   b.extractLsb' 24 3, b.extractLsb' 0 24⟩

def FormX.bits (x : FormX) : BitVec 50 :=
  x.acc ++ x.sa ++ x.sb ++ x.ta ++ x.tb ++ x.shape ++ x.ctl ++ x.imm8 ++ BitVec.ofBool x.rsv ++ x.sc

def FormX.ofBits (b : BitVec 50) : FormX :=
  ⟨b.extractLsb' 46 4, b.extractLsb' 39 7, b.extractLsb' 32 7, b.extractLsb' 28 4, b.extractLsb' 24 4, b.extractLsb' 21 3,
   b.extractLsb' 16 5, b.extractLsb' 8 8, b.getLsbD 7, b.extractLsb' 0 7⟩

def FormE.bits (e : FormE) : BitVec 50 := e.dk ++ e.fs ++ e.sa ++ e.sb ++ e.sc ++ e.imm16 ++ e.sube

def FormE.ofBits (b : BitVec 50) : FormE :=
  ⟨b.extractLsb' 47 3, b.extractLsb' 42 5, b.extractLsb' 35 7, b.extractLsb' 28 7, b.extractLsb' 21 7, b.extractLsb' 5 16,
   b.extractLsb' 0 5⟩

/-- The format Q rows of the opcode map (R97). -/
def decodeQ (op : Nat) (h : Hdr) (q : FormQ) : Option Instr :=
  match op with
  | 0x001 => some (.iadd h q)
  | 0x002 => some (.isub h q)
  | 0x003 => some (.imul h q)
  | 0x004 => some (.imulh h q)
  | 0x005 => some (.imad h q)
  | 0x006 => some (.idiv h q)
  | 0x007 => some (.irem h q)
  | 0x008 => some (.imin h q)
  | 0x009 => some (.imax h q)
  | 0x00A => some (.iabs h q)
  | 0x00B => some (.ineg h q)
  | 0x00C => some (.icmp h q)
  | 0x00D => some (.andBits h q)
  | 0x00E => some (.orBits h q)
  | 0x00F => some (.xorBits h q)
  | 0x010 => some (.notBits h q)
  | 0x011 => some (.shl h q)
  | 0x012 => some (.shr h q)
  | 0x013 => some (.sar h q)
  | 0x014 => some (.rot h q)
  | 0x015 => some (.popc h q)
  | 0x016 => some (.clz h q)
  | 0x017 => some (.brev h q)
  | 0x018 => some (.bfx h q)
  | 0x019 => some (.bfi h q)
  | 0x01A => some (.sel h q)
  | 0x01B => some (.selh h q)
  | 0x060 => some (.fadd h q)
  | 0x061 => some (.fsub h q)
  | 0x062 => some (.fmul h q)
  | 0x063 => some (.ffma h q)
  | 0x064 => some (.fmin h q)
  | 0x065 => some (.fmax h q)
  | 0x066 => some (.fabs h q)
  | 0x067 => some (.fneg h q)
  | 0x068 => some (.fcmp h q)
  | 0x069 => some (.frnd h q)
  | 0x06A => some (.fclass h q)
  | 0x06B => some (.fdiv h q)
  | 0x06C => some (.fsqrt h q)
  | 0x080 => some (.rcp h q)
  | 0x081 => some (.rsq h q)
  | 0x082 => some (.ex2 h q)
  | 0x083 => some (.lg2 h q)
  | 0x084 => some (.sin h q)
  | 0x085 => some (.cos h q)
  | 0x086 => some (.tanh h q)
  | 0x087 => some (.sigm h q)
  | 0x090 => some (.cvt h q)
  | 0x091 => some (.qnt h q)
  | 0x092 => some (.dqnt h q)
  | 0x093 => some (.pack h q)
  | 0x094 => some (.unpk h q)
  | 0x0A0 => some (.shfl h q)
  | 0x0A1 => some (.vote h q)
  | 0x0A2 => some (.wred h q)
  | 0x0A3 => some (.wscan h q)
  | 0x0A4 => some (.matchLanes h q)
  | 0x0A5 => some (.bcast h q)
  | 0x0C0 => some (.mov h q)
  | 0x0C2 => some (.dup h q)
  | 0x0C3 => some (.save h q)
  | _ => none

/-- The format QI rows of the opcode map (R97). -/
def decodeQI (op : Nat) (h : Hdr) (q : FormQI) : Option Instr :=
  match op with
  | 0x040 => some (.iaddImm h q)
  | 0x041 => some (.imulImm h q)
  | 0x042 => some (.andBitsImm h q)
  | 0x043 => some (.orBitsImm h q)
  | 0x044 => some (.xorBitsImm h q)
  | 0x045 => some (.shlImm h q)
  | 0x046 => some (.shrImm h q)
  | 0x047 => some (.sarImm h q)
  | 0x048 => some (.iminImm h q)
  | 0x049 => some (.imaxImm h q)
  | 0x070 => some (.faddImm h q)
  | 0x071 => some (.fmulImm h q)
  | 0x072 => some (.fminImm h q)
  | 0x073 => some (.fmaxImm h q)
  | 0x0C1 => some (.movi h q)
  | 0x0C4 => some (.rejoin h q)
  | _ => none

/-- The format B rows of the opcode map (R97). -/
def decodeB (op : Nat) (h : Hdr) (b : FormB) : Option Instr :=
  match op with
  | 0x0E0 => some (.bra h b)
  | 0x0E2 => some (.brx h b)
  | 0x0E3 => some (.call h b)
  | 0x0E4 => some (.callx h b)
  | 0x0E5 => some (.ret h b)
  | 0x0E6 => some (.regang h b)
  | 0x0E7 => some (.exit h b)
  | 0x0E8 => some (.nop h b)
  | _ => none

/-- The format A rows of the opcode map (R97). -/
def decodeA (op : Nat) (h : Hdr) (a : FormA) : Option Instr :=
  match op with
  | 0x100 => some (.aadd h a)
  | 0x101 => some (.asub h a)
  | 0x102 => some (.amul h a)
  | 0x103 => some (.amad h a)
  | 0x104 => some (.ashl h a)
  | 0x105 => some (.ashr h a)
  | 0x106 => some (.aand h a)
  | 0x107 => some (.aor h a)
  | 0x108 => some (.axor h a)
  | 0x109 => some (.amin h a)
  | 0x10A => some (.amax h a)
  | 0x10B => some (.amov h a)
  | 0x10C => some (.amovi h a)
  | 0x10D => some (.acmp h a)
  | 0x10E => some (.asel h a)
  | 0x10F => some (.popi h a)
  | 0x110 => some (.aaddImm h a)
  | 0x111 => some (.asubImm h a)
  | 0x112 => some (.amulImm h a)
  | 0x114 => some (.ashlImm h a)
  | 0x115 => some (.ashrImm h a)
  | 0x116 => some (.aandImm h a)
  | 0x117 => some (.aorImm h a)
  | 0x118 => some (.axorImm h a)
  | 0x119 => some (.aminImm h a)
  | 0x11A => some (.amaxImm h a)
  | 0x11D => some (.acmpImm h a)
  | _ => none

/-- The format M rows of the opcode map (R97). -/
def decodeM (op : Nat) (h : Hdr) (m : FormM) : Option Instr :=
  match op with
  | 0x120 => some (.ld h m)
  | 0x121 => some (.lds h m)
  | 0x122 => some (.ldx h m)
  | 0x123 => some (.ldc h m)
  | 0x124 => some (.st h m)
  | 0x125 => some (.sts h m)
  | 0x126 => some (.stx h m)
  | 0x127 => some (.pf h m)
  | 0x128 => some (.ldLq h m)
  | 0x129 => some (.ldsLq h m)
  | 0x12A => some (.ldxLq h m)
  | 0x12B => some (.ldcLq h m)
  | 0x12C => some (.stSq h m)
  | 0x12D => some (.stsSq h m)
  | 0x12E => some (.stxSq h m)
  | 0x130 => some (.atom h m)
  | 0x131 => some (.red h m)
  | 0x132 => some (.mred h m)
  | 0x160 => some (.fence h m)
  | 0x161 => some (.rfence h m)
  | 0x162 => some (.drain h m)
  | 0x163 => some (.cwb h m)
  | 0x164 => some (.cinv h m)
  | 0x170 => some (.copy h m)
  | 0x171 => some (.copyg h m)
  | 0x172 => some (.copys h m)
  | 0x173 => some (.publish h m)
  | 0x174 => some (.cpstat h m)
  | _ => none

/-- The format X rows of the opcode map (R97). -/
def decodeX (op : Nat) (h : Hdr) (x : FormX) : Option Instr :=
  match op with
  | 0x180 => some (.mga h x)
  | 0x181 => some (.mla h x)
  | 0x182 => some (.mlb h x)
  | 0x183 => some (.mma h x)
  | 0x184 => some (.mmax h x)
  | 0x185 => some (.mz h x)
  | 0x186 => some (.mdr h x)
  | 0x187 => some (.mdra h x)
  | 0x188 => some (.msca h x)
  | 0x189 => some (.mfence h x)
  | 0x18A => some (.mwait h x)
  | 0x18B => some (.mcfg h x)
  | _ => none

/-- The format E rows of the opcode map (R97). -/
def decodeE (op : Nat) (h : Hdr) (e : FormE) : Option Instr :=
  match op with
  | 0x1B0 => some (.route h e)
  | 0x1B1 => some (.rtake h e)
  | 0x1B2 => some (.rret h e)
  | 0x1B4 => some (.rstat h e)
  | 0x1C1 => some (.epush h e)
  | 0x1C2 => some (.epop h e)
  | 0x1C3 => some (.edone h e)
  | 0x1C4 => some (.estat h e)
  | 0x1D0 => some (.bar h e)
  | 0x1D1 => some (.cbar h e)
  | 0x1D2 => some (.abar h e)
  | 0x1D3 => some (.await h e)
  | 0x1D4 => some (.ared h e)
  | 0x1D5 => some (.phase h e)
  | 0x1E0 => some (.sys h e)
  | 0x1E1 => some (.topo h e)
  | 0x1E2 => some (.clk h e)
  | 0x1E4 => some (.trap h e)
  | 0x1E5 => some (.bkpt h e)
  | 0x1E6 => some (.rett h e)
  | 0x1E7 => some (.sleep h e)
  | 0x1E8 => some (.perf h e)
  | 0x1B3 => some (if e.sube == 1 then .rclosePort h e else .rcloseWin h e)
  | 0x1C0 => some (if e.sube == 1 then .eopenClose h e else .eopenOpen h e)
  | 0x1D6 => some (if e.sube == 1 then .signalRel h e else .signalHold h e)
  | 0x1E3 => some (if e.sube == 1 then .setxvImm h e else .setxv h e)
  | _ => none

/-- BRD's two modes (R91); modes 2 and 3 are reserved. -/
def decodeBD (op : Nat) (h : Hdr) (b : BitVec 50) : Option Instr :=
  if op == 0x0E1 then
    match (b.extractLsb' 0 2).toNat with
    | 0 => some (.brdIf h (.ofBits b))
    | 1 => some (.brdLoop h (.ofBits b))
    | _ => none
  else none

/-- The assigned opcodes (R97). -/
def opcodeAssigned (op : Nat) : Bool :=
  (0x001 ≤ op && op ≤ 0x01B) || (0x040 ≤ op && op ≤ 0x049) || (0x060 ≤ op && op ≤ 0x06C) || (0x070 ≤ op && op ≤ 0x073) ||
  (0x080 ≤ op && op ≤ 0x087) || (0x090 ≤ op && op ≤ 0x094) || (0x0A0 ≤ op && op ≤ 0x0A5) || (0x0C0 ≤ op && op ≤ 0x0C4) ||
  (0x0E0 ≤ op && op ≤ 0x0E8) || (0x100 ≤ op && op ≤ 0x112) || (0x114 ≤ op && op ≤ 0x11A) || op == 0x11D ||
  (0x120 ≤ op && op ≤ 0x12E) || (0x130 ≤ op && op ≤ 0x132) || (0x160 ≤ op && op ≤ 0x164) || (0x170 ≤ op && op ≤ 0x174) ||
  (0x180 ≤ op && op ≤ 0x18B) || (0x1B0 ≤ op && op ≤ 0x1B4) || (0x1C0 ≤ op && op ≤ 0x1C4) || (0x1D0 ≤ op && op ≤ 0x1D6) ||
  (0x1E0 ≤ op && op ≤ 0x1E8)

/-- Which strands an opcode is valid in (R97). -/
def opcodeInStrand (op : Nat) (st : Strand) : Bool :=
  opcodeAssigned op &&
  ((0x0E0 ≤ op && op ≤ 0x0E8) || [0x1D0, 0x1D1, 0x1D5, 0x1E4, 0x1E5, 0x1E6, 0x1E7].contains op ||
   ((0x100 ≤ op && op < 0x180) == (st == .a)))

/-- The instruction a word spells before R80 step 2 is applied. -/
def decodeRaw (w : Word64) : Option Instr :=
  let op := (opOf w).toNat
  let h := Hdr.ofWord w
  let b := bodyOf w
  (decodeQ op h (.ofBits b)).or <| (decodeQI op h (.ofBits b)).or <| (decodeB op h (.ofBits b)).or <| (decodeBD op h b).or <|
  (decodeA op h (.ofBits b)).or <| (decodeM op h (.ofBits b)).or <| (decodeX op h (.ofBits b)).or (decodeE op h (.ofBits b))

/-- What a word is: an instruction, an unassigned opcode (cause 0x20), or an assigned one with reserved contents (0x21). -/
inductive Decoded where
  | instr (i : Instr)
  | unassigned (op : BitVec 9)
  | reserved (op : BitVec 9)
deriving DecidableEq, Repr

/-- R80 steps 1 and 2, for either strand. -/
def decode (w : Word64) : Decoded :=
  if opcodeAssigned (opOf w).toNat then
    match decodeRaw w with
    | some i => if i.wellFormed then .instr i else .reserved (opOf w)
    | none => .reserved (opOf w)
  else .unassigned (opOf w)

/-- The restrictions that hold in one strand only (R89, R90): no YZ and YNZ in the A-strand, and there an x register as the index
source of BRX and CALLX. -/
def Instr.strandOk (st : Strand) : Instr → Bool
  | .bra _ b => st == .c || b.cond.toNat < 4
  | .brx _ b | .callx _ b => st == .c || b.src.toNat < 32
  | _ => true

/-- R80 steps 1 and 2 in the strand that fetched the word: an opcode of the other strand counts as unassigned. -/
def decodeIn (st : Strand) (w : Word64) : Decoded :=
  if opcodeInStrand (opOf w).toNat st then
    match decode w with
    | .instr i => if i.strandOk st then .instr i else .reserved (opOf w)
    | d => d
  else .unassigned (opOf w)

/-- The word of an instruction; none for the rows that are no instruction. -/
def encode : Instr → Option Word64
  | .iadd h q => some (wordOf 0x001 h q.bits)
  | .isub h q => some (wordOf 0x002 h q.bits)
  | .imul h q => some (wordOf 0x003 h q.bits)
  | .imulh h q => some (wordOf 0x004 h q.bits)
  | .imad h q => some (wordOf 0x005 h q.bits)
  | .idiv h q => some (wordOf 0x006 h q.bits)
  | .irem h q => some (wordOf 0x007 h q.bits)
  | .imin h q => some (wordOf 0x008 h q.bits)
  | .imax h q => some (wordOf 0x009 h q.bits)
  | .iabs h q => some (wordOf 0x00A h q.bits)
  | .ineg h q => some (wordOf 0x00B h q.bits)
  | .icmp h q => some (wordOf 0x00C h q.bits)
  | .andBits h q => some (wordOf 0x00D h q.bits)
  | .orBits h q => some (wordOf 0x00E h q.bits)
  | .xorBits h q => some (wordOf 0x00F h q.bits)
  | .notBits h q => some (wordOf 0x010 h q.bits)
  | .shl h q => some (wordOf 0x011 h q.bits)
  | .shr h q => some (wordOf 0x012 h q.bits)
  | .sar h q => some (wordOf 0x013 h q.bits)
  | .rot h q => some (wordOf 0x014 h q.bits)
  | .popc h q => some (wordOf 0x015 h q.bits)
  | .clz h q => some (wordOf 0x016 h q.bits)
  | .brev h q => some (wordOf 0x017 h q.bits)
  | .bfx h q => some (wordOf 0x018 h q.bits)
  | .bfi h q => some (wordOf 0x019 h q.bits)
  | .sel h q => some (wordOf 0x01A h q.bits)
  | .selh h q => some (wordOf 0x01B h q.bits)
  | .iaddImm h q => some (wordOf 0x040 h q.bits)
  | .imulImm h q => some (wordOf 0x041 h q.bits)
  | .andBitsImm h q => some (wordOf 0x042 h q.bits)
  | .orBitsImm h q => some (wordOf 0x043 h q.bits)
  | .xorBitsImm h q => some (wordOf 0x044 h q.bits)
  | .shlImm h q => some (wordOf 0x045 h q.bits)
  | .shrImm h q => some (wordOf 0x046 h q.bits)
  | .sarImm h q => some (wordOf 0x047 h q.bits)
  | .iminImm h q => some (wordOf 0x048 h q.bits)
  | .imaxImm h q => some (wordOf 0x049 h q.bits)
  | .fadd h q => some (wordOf 0x060 h q.bits)
  | .fsub h q => some (wordOf 0x061 h q.bits)
  | .fmul h q => some (wordOf 0x062 h q.bits)
  | .ffma h q => some (wordOf 0x063 h q.bits)
  | .fmin h q => some (wordOf 0x064 h q.bits)
  | .fmax h q => some (wordOf 0x065 h q.bits)
  | .fabs h q => some (wordOf 0x066 h q.bits)
  | .fneg h q => some (wordOf 0x067 h q.bits)
  | .fcmp h q => some (wordOf 0x068 h q.bits)
  | .frnd h q => some (wordOf 0x069 h q.bits)
  | .fclass h q => some (wordOf 0x06A h q.bits)
  | .fdiv h q => some (wordOf 0x06B h q.bits)
  | .fsqrt h q => some (wordOf 0x06C h q.bits)
  | .faddImm h q => some (wordOf 0x070 h q.bits)
  | .fmulImm h q => some (wordOf 0x071 h q.bits)
  | .fminImm h q => some (wordOf 0x072 h q.bits)
  | .fmaxImm h q => some (wordOf 0x073 h q.bits)
  | .rcp h q => some (wordOf 0x080 h q.bits)
  | .rsq h q => some (wordOf 0x081 h q.bits)
  | .ex2 h q => some (wordOf 0x082 h q.bits)
  | .lg2 h q => some (wordOf 0x083 h q.bits)
  | .sin h q => some (wordOf 0x084 h q.bits)
  | .cos h q => some (wordOf 0x085 h q.bits)
  | .tanh h q => some (wordOf 0x086 h q.bits)
  | .sigm h q => some (wordOf 0x087 h q.bits)
  | .cvt h q => some (wordOf 0x090 h q.bits)
  | .qnt h q => some (wordOf 0x091 h q.bits)
  | .dqnt h q => some (wordOf 0x092 h q.bits)
  | .pack h q => some (wordOf 0x093 h q.bits)
  | .unpk h q => some (wordOf 0x094 h q.bits)
  | .shfl h q => some (wordOf 0x0A0 h q.bits)
  | .vote h q => some (wordOf 0x0A1 h q.bits)
  | .wred h q => some (wordOf 0x0A2 h q.bits)
  | .wscan h q => some (wordOf 0x0A3 h q.bits)
  | .matchLanes h q => some (wordOf 0x0A4 h q.bits)
  | .bcast h q => some (wordOf 0x0A5 h q.bits)
  | .mov h q => some (wordOf 0x0C0 h q.bits)
  | .movi h q => some (wordOf 0x0C1 h q.bits)
  | .dup h q => some (wordOf 0x0C2 h q.bits)
  | .save h q => some (wordOf 0x0C3 h q.bits)
  | .rejoin h q => some (wordOf 0x0C4 h q.bits)
  | .bra h b => some (wordOf 0x0E0 h b.bits)
  | .brx h b => some (wordOf 0x0E2 h b.bits)
  | .call h b => some (wordOf 0x0E3 h b.bits)
  | .callx h b => some (wordOf 0x0E4 h b.bits)
  | .ret h b => some (wordOf 0x0E5 h b.bits)
  | .regang h b => some (wordOf 0x0E6 h b.bits)
  | .exit h b => some (wordOf 0x0E7 h b.bits)
  | .nop h b => some (wordOf 0x0E8 h b.bits)
  | .aadd h a => some (wordOf 0x100 h a.bits)
  | .asub h a => some (wordOf 0x101 h a.bits)
  | .amul h a => some (wordOf 0x102 h a.bits)
  | .amad h a => some (wordOf 0x103 h a.bits)
  | .ashl h a => some (wordOf 0x104 h a.bits)
  | .ashr h a => some (wordOf 0x105 h a.bits)
  | .aand h a => some (wordOf 0x106 h a.bits)
  | .aor h a => some (wordOf 0x107 h a.bits)
  | .axor h a => some (wordOf 0x108 h a.bits)
  | .amin h a => some (wordOf 0x109 h a.bits)
  | .amax h a => some (wordOf 0x10A h a.bits)
  | .amov h a => some (wordOf 0x10B h a.bits)
  | .amovi h a => some (wordOf 0x10C h a.bits)
  | .acmp h a => some (wordOf 0x10D h a.bits)
  | .asel h a => some (wordOf 0x10E h a.bits)
  | .popi h a => some (wordOf 0x10F h a.bits)
  | .aaddImm h a => some (wordOf 0x110 h a.bits)
  | .asubImm h a => some (wordOf 0x111 h a.bits)
  | .amulImm h a => some (wordOf 0x112 h a.bits)
  | .ashlImm h a => some (wordOf 0x114 h a.bits)
  | .ashrImm h a => some (wordOf 0x115 h a.bits)
  | .aandImm h a => some (wordOf 0x116 h a.bits)
  | .aorImm h a => some (wordOf 0x117 h a.bits)
  | .axorImm h a => some (wordOf 0x118 h a.bits)
  | .aminImm h a => some (wordOf 0x119 h a.bits)
  | .amaxImm h a => some (wordOf 0x11A h a.bits)
  | .acmpImm h a => some (wordOf 0x11D h a.bits)
  | .ld h m => some (wordOf 0x120 h m.bits)
  | .lds h m => some (wordOf 0x121 h m.bits)
  | .ldx h m => some (wordOf 0x122 h m.bits)
  | .ldc h m => some (wordOf 0x123 h m.bits)
  | .st h m => some (wordOf 0x124 h m.bits)
  | .sts h m => some (wordOf 0x125 h m.bits)
  | .stx h m => some (wordOf 0x126 h m.bits)
  | .pf h m => some (wordOf 0x127 h m.bits)
  | .ldLq h m => some (wordOf 0x128 h m.bits)
  | .ldsLq h m => some (wordOf 0x129 h m.bits)
  | .ldxLq h m => some (wordOf 0x12A h m.bits)
  | .ldcLq h m => some (wordOf 0x12B h m.bits)
  | .stSq h m => some (wordOf 0x12C h m.bits)
  | .stsSq h m => some (wordOf 0x12D h m.bits)
  | .stxSq h m => some (wordOf 0x12E h m.bits)
  | .atom h m => some (wordOf 0x130 h m.bits)
  | .red h m => some (wordOf 0x131 h m.bits)
  | .mred h m => some (wordOf 0x132 h m.bits)
  | .fence h m => some (wordOf 0x160 h m.bits)
  | .rfence h m => some (wordOf 0x161 h m.bits)
  | .drain h m => some (wordOf 0x162 h m.bits)
  | .cwb h m => some (wordOf 0x163 h m.bits)
  | .cinv h m => some (wordOf 0x164 h m.bits)
  | .copy h m => some (wordOf 0x170 h m.bits)
  | .copyg h m => some (wordOf 0x171 h m.bits)
  | .copys h m => some (wordOf 0x172 h m.bits)
  | .publish h m => some (wordOf 0x173 h m.bits)
  | .cpstat h m => some (wordOf 0x174 h m.bits)
  | .mga h x => some (wordOf 0x180 h x.bits)
  | .mla h x => some (wordOf 0x181 h x.bits)
  | .mlb h x => some (wordOf 0x182 h x.bits)
  | .mma h x => some (wordOf 0x183 h x.bits)
  | .mmax h x => some (wordOf 0x184 h x.bits)
  | .mz h x => some (wordOf 0x185 h x.bits)
  | .mdr h x => some (wordOf 0x186 h x.bits)
  | .mdra h x => some (wordOf 0x187 h x.bits)
  | .msca h x => some (wordOf 0x188 h x.bits)
  | .mfence h x => some (wordOf 0x189 h x.bits)
  | .mwait h x => some (wordOf 0x18A h x.bits)
  | .mcfg h x => some (wordOf 0x18B h x.bits)
  | .route h e => some (wordOf 0x1B0 h e.bits)
  | .rtake h e => some (wordOf 0x1B1 h e.bits)
  | .rret h e => some (wordOf 0x1B2 h e.bits)
  | .rstat h e => some (wordOf 0x1B4 h e.bits)
  | .epush h e => some (wordOf 0x1C1 h e.bits)
  | .epop h e => some (wordOf 0x1C2 h e.bits)
  | .edone h e => some (wordOf 0x1C3 h e.bits)
  | .estat h e => some (wordOf 0x1C4 h e.bits)
  | .bar h e => some (wordOf 0x1D0 h e.bits)
  | .cbar h e => some (wordOf 0x1D1 h e.bits)
  | .abar h e => some (wordOf 0x1D2 h e.bits)
  | .await h e => some (wordOf 0x1D3 h e.bits)
  | .ared h e => some (wordOf 0x1D4 h e.bits)
  | .phase h e => some (wordOf 0x1D5 h e.bits)
  | .sys h e => some (wordOf 0x1E0 h e.bits)
  | .topo h e => some (wordOf 0x1E1 h e.bits)
  | .clk h e => some (wordOf 0x1E2 h e.bits)
  | .trap h e => some (wordOf 0x1E4 h e.bits)
  | .bkpt h e => some (wordOf 0x1E5 h e.bits)
  | .rett h e => some (wordOf 0x1E6 h e.bits)
  | .sleep h e => some (wordOf 0x1E7 h e.bits)
  | .perf h e => some (wordOf 0x1E8 h e.bits)
  | .rcloseWin h e | .rclosePort h e => some (wordOf 0x1B3 h e.bits)
  | .eopenOpen h e | .eopenClose h e => some (wordOf 0x1C0 h e.bits)
  | .signalHold h e | .signalRel h e => some (wordOf 0x1D6 h e.bits)
  | .setxv h e | .setxvImm h e => some (wordOf 0x1E3 h e.bits)
  | .brdIf h b => some (wordOf 0x0E1 h (b.bits 0))
  | .brdLoop h b => some (wordOf 0x0E1 h (b.bits 1))
  | _ => none

/-- The decoder's reading of a table word: the bits above nbits are zero. -/
def decodeTableWord (nbits w : Nat) : Option Instr :=
  match decode (BitVec.ofNat 64 (w % 2 ^ min nbits 64)) with
  | .instr i => some i
  | _ => none

/-- Fields of a 256-byte record (R318, R325). -/
def Record.nat (r : Record) (off n : Nat) : Nat := leAt r.bytes off n

/-- What the line monitor parses a record as (R316, R325): launches in any window, commands in window 0 only. -/
def decodeRecord (win : Nat) (r : Record) : Instr :=
  match r.nat 0 1 with
  | 1 => .launch win r
  | 2 =>
    if win != 0 then .unknownRecord win r
    else
      match r.nat 3 1 with
      | 0x01 => .root r
      | 0x02 => .inval r
      | 0x03 => .ring r
      | 0x04 => .clean r
      | 0x05 => .bindr r
      | 0x06 => .unbindr r
      | 0x07 => .flips r
      | 0x08 => .work r
      | 0x09 => .cring r
      | 0x0A => .wconf r
      | 0x0B => .cancel r
      | 0x0C => .resume r
      | 0x0D => .abort r
      | 0x0E => .halt r
      | 0x0F => .prof r
      | 0x10 => .slice r
      | _ => .unknownRecord win r
  | _ => .unknownRecord win r

/-- The operand length of a management opcode (R395); FWSTAGE takes 12 bytes and a piece. -/
def mgmtLength (op len : Nat) : Bool :=
  match op with
  | 0x0001 => len == 256
  | 0x0002 | 0x0020 | 0x0040 => len == 16
  | 0x0010 | 0x0011 | 0x0012 | 0x0021 => len == 4
  | 0x0022 => len == 12
  | 0x0023 | 0x0031 | 0x0051 => len == 8
  | 0x0030 => len == 0
  | 0x0050 => 12 ≤ len && len ≤ 12 + 65536
  | _ => false

/-- The reserved operand bytes of a management opcode are zero (R395). -/
def mgmtReserved (op : Nat) (a : List Byte) : Bool :=
  match op with
  | 0x0020 => leAt a 1 7 == 0
  | 0x0021 => leAt a 2 2 == 0
  | 0x0040 => leAt a 4 4 == 0
  | 0x0050 => leAt a 8 4 < 2
  | _ => true

def counterName (a : List Byte) : CounterName :=
  ⟨BitVec.ofNat 16 (leAt a 0 2), BitVec.ofNat 16 (leAt a 2 2), BitVec.ofNat 32 (leAt a 4 4)⟩

/-- A management message (R395). A malformed one of a known opcode gets the same answer, status 3, as an unknown opcode. -/
def decodeMgmt (bs : List Byte) : Instr :=
  let op := leAt bs 0 2
  let tag : Word := BitVec.ofNat 32 (leAt bs 4 4)
  let len := leAt bs 8 4
  let a := bs.drop 12
  let w (off : Nat) : Word := BitVec.ofNat 32 (leAt a off 4)
  if bs.length < 12 || a.length != len || leAt bs 2 2 != 0 || !mgmtLength op len || !mgmtReserved op a then
    .unknownManagementOpcode tag (BitVec.ofNat 16 op)
  else
    match op with
    | 0x0001 => .w0write tag ⟨a⟩
    | 0x0002 => .w0ring tag (BitVec.ofNat 64 (leAt a 0 8)) (w 8) (w 12)
    | 0x0010 => .dreset tag (leAt a 0 4)
    | 0x0011 => .retire tag (leAt a 0 4)
    | 0x0012 => .reinstate tag (leAt a 0 4)
    | 0x0020 => .grant tag (BitVec.ofNat 8 (leAt a 0 1)) (BitVec.ofNat 64 (leAt a 8 8))
    | 0x0021 => .wlist tag (BitVec.ofNat 8 (leAt a 0 1)) (BitVec.ofNat 8 (leAt a 1 1))
    | 0x0022 => .psel tag (counterName a) (w 8)
    | 0x0023 => .pclr tag (counterName a)
    | 0x0030 => .acct tag
    | 0x0031 => .errlog tag (w 0) (w 4)
    | 0x0040 => .spare tag (w 0) (BitVec.ofNat 64 (leAt a 8 8))
    | 0x0050 => .fwstage tag (w 0) (w 4) (w 8) (a.drop 12)
    | 0x0051 => .fusesvn tag (w 0) (w 4)
    | _ => .unknownManagementOpcode tag (BitVec.ofNat 16 op)

end Sys2Proof
end

