-- ==== Sys2Proof/Machine/Num.lean ====
section
/-! DEFINITION. Sys2Proof/Machine/Num.lean: number formats and arithmetic as values (spec 02): exact dyadic numbers, one rounding, the
conversions of R69 to R71 and the block sums of R72 to R78. -/

namespace Sys2Proof.Machine

/-- Lane status flags by bit (R27). -/
def flagDZ : Byte := 0x01
def flagIV : Byte := 0x02
def flagOF : Byte := 0x04
def flagUF : Byte := 0x08
def flagIX : Byte := 0x10
def flagSX : Byte := 0x20

/-- A value read from a format: a NaN or NX, an infinity, or (−1)^neg × man × 2^exp; a zero has man 0. -/
inductive Val where
  | nan
  | inf (neg : Bool)
  | fin (neg : Bool) (man : Nat) (exp : Int)
deriving DecidableEq, Repr

/-- A result word and the flags it raises. -/
structure Res where
  word : Word
  flags : Byte
deriving DecidableEq, Repr

def shl (n : Nat) (k : Int) : Nat := n * 2 ^ k.toNat

/-- The value as a multiple of 2^q, when it is one. -/
def toScale (neg : Bool) (man : Nat) (exp q : Int) : Int :=
  let n := (shl man (exp - q)) / 2 ^ (q - exp).toNat
  if neg then -n else n

/-- The magnitude man × 2^exp (plus a lost part when sticky) as a multiple of 2^q, rounded by RND (R56); whether it is inexact. -/
def roundTo (rnd : BitVec 2) (neg : Bool) (man : Nat) (exp : Int) (sticky : Bool) (q : Int) : Nat × Bool :=
  let den := 2 ^ (q - exp).toNat
  let num := shl man (exp - q)
  let n := num / den
  let r := num % den
  let inexact := r != 0 || sticky
  let up :=
    match rnd.toNat with
    | 0 => den < 2 * r || (den == 2 * r && (sticky || n % 2 == 1))
    | 1 => false
    | 2 => neg && inexact
    | _ => !neg && inexact
  (if up then n + 1 else n, inexact)

/-- The code of infinity, of the largest finite value and of the canonical NaN in a binary format with frac fraction bits (R59, R60). -/
def infCode (frac : Nat) : Nat := 255 * 2 ^ frac
def nanCode (frac : Nat) : Nat := infCode frac + 2 ^ (frac - 1)
def signCode (frac : Nat) (neg : Bool) : Nat := if neg then 2 ^ (frac + 8) else 0

/-- A binary32 (frac 23) or BF16 (frac 7) code as a value (R59). -/
def binVal (frac code : Nat) : Val :=
  let neg := code / 2 ^ (frac + 8) % 2 == 1
  let e := code / 2 ^ frac % 256
  let f := code % 2 ^ frac
  if e == 255 then (if f == 0 then .inf neg else .nan)
  else if e == 0 then .fin neg f (-126 - frac)
  else .fin neg (f + 2 ^ frac) ((e : Int) - 127 - frac)

def isSubnormal (frac code : Nat) : Bool := code / 2 ^ frac % 256 == 0 && code % 2 ^ frac != 0

/-- A subnormal input read as zero of its sign when FTZ = 1 (R61). -/
def flushIn (ftz : Bool) (frac code : Nat) : Nat :=
  if ftz && isSubnormal frac code then code / 2 ^ (frac + 8) * 2 ^ (frac + 8) else code

/-- A rounded code and its flags. -/
structure Rounded where
  code : Nat
  flags : Byte
deriving DecidableEq, Repr

/-- One rounding to a binary format (R59): overflow by mode, tininess after rounding. -/
def roundBin (frac : Nat) (rnd : BitVec 2) (neg : Bool) (man : Nat) (exp : Int) (sticky : Bool) : Rounded :=
  if man == 0 then ⟨signCode frac neg, 0⟩
  else
    let top := exp + Nat.log2 man
    let qmin : Int := -126 - frac
    let q := max (top - frac) qmin
    let (n, inexact) := roundTo rnd neg man exp sticky q
    let (u, _) := roundTo rnd neg man exp sticky (top - frac)
    let tiny := toScale false u (top - frac) (qmin - 4) < 2 ^ (frac + 4)
    let fl := (if inexact then flagIX else 0) ||| (if tiny && inexact then flagUF else 0)
    let code := if n < 2 ^ frac then n else (q + frac + 126).toNat * 2 ^ frac + n
    if infCode frac ≤ code then
      let toInf :=
        match rnd.toNat with
        | 0 => true
        | 1 => false
        | 2 => neg
        | _ => !neg
      ⟨signCode frac neg + (if toInf then infCode frac else infCode frac - 1), flagOF ||| flagIX⟩
    else ⟨signCode frac neg + code, fl⟩

/-- What an operation computes before rounding. -/
inductive Exact where
  | nan (invalid : Bool)
  | inf (neg : Bool)
  | fin (neg : Bool) (man : Nat) (exp : Int) (sticky : Bool)
deriving DecidableEq, Repr

/-- Rounding, saturation and flushing as one floating-point instruction has them. -/
structure FMode where
  frac : Nat
  rnd : BitVec 2
  sat : Bool
  ftz : Bool
deriving DecidableEq, Repr

/-- A result that is subnormal after rounding becomes zero with UF and IX when FTZ = 1 (R61). -/
def flushOut (ftz : Bool) (frac : Nat) (r : Rounded) : Rounded :=
  if ftz && isSubnormal frac r.code then ⟨r.code / 2 ^ (frac + 8) * 2 ^ (frac + 8), r.flags ||| flagUF ||| flagIX⟩ else r

/-- The largest finite value in place of an infinity that finite operands gave (R121, R70). -/
def saturate (sat : Bool) (frac : Nat) (neg : Bool) (r : Rounded) : Rounded :=
  if sat && r.code % 2 ^ (frac + 8) == infCode frac then ⟨signCode frac neg + infCode frac - 1, r.flags ||| flagSX⟩ else r

/-- The one rounding of an instruction's exact result (R59 to R61, R121). -/
def finish (m : FMode) : Exact → Rounded
  | .nan invalid => ⟨nanCode m.frac, if invalid then flagIV else 0⟩
  | .inf neg => ⟨signCode m.frac neg + infCode m.frac, 0⟩
  | .fin neg man exp sticky => flushOut m.ftz m.frac (saturate m.sat m.frac neg (roundBin m.frac m.rnd neg man exp sticky))

/-- The sign of an exact zero sum: the common sign, else + except under rdn (R59). -/
def zeroSign (rnd : BitVec 2) (a b : Bool) : Bool := if a == b then a else rnd == 2

/-- The exact sum of two finite values. -/
def addFin (rnd : BitVec 2) (n1 : Bool) (m1 : Nat) (e1 : Int) (n2 : Bool) (m2 : Nat) (e2 : Int) : Exact :=
  let q := min e1 e2
  let s := toScale n1 m1 e1 q + toScale n2 m2 e2 q
  if s == 0 then .fin (zeroSign rnd n1 n2) 0 0 false else .fin (s < 0) s.natAbs q false

def addVal (rnd : BitVec 2) : Val → Val → Exact
  | .nan, _ => .nan false
  | _, .nan => .nan false
  | .inf a, .inf b => if a == b then .inf a else .nan true
  | .inf a, .fin .. => .inf a
  | .fin .., .inf b => .inf b
  | .fin n1 m1 e1, .fin n2 m2 e2 => addFin rnd n1 m1 e1 n2 m2 e2

def negVal : Val → Val
  | .nan => .nan
  | .inf n => .inf !n
  | .fin n m e => .fin (!n) m e

/-- The exact product; none where an infinity meets a zero. -/
def mulVal : Val → Val → Option Val
  | .nan, _ => some .nan
  | _, .nan => some .nan
  | .inf a, .inf b => some (.inf (a != b))
  | .inf a, .fin b m _ => if m == 0 then none else some (.inf (a != b))
  | .fin a m _, .inf b => if m == 0 then none else some (.inf (a != b))
  | .fin a m1 e1, .fin b m2 e2 => some (.fin (a != b) (m1 * m2) (e1 + e2))

def exactOf : Val → Exact
  | .nan => .nan false
  | .inf n => .inf n
  | .fin n m e => .fin n m e false

def mulExact (a b : Val) : Exact :=
  match mulVal a b with
  | none => .nan true
  | some v => exactOf v

/-- a × b + c with one rounding (R59). An infinity times zero plus a NaN sets IV, which IEEE 754 and R60 leave open (DESIGN CHOICE, log 71). -/
def fmaExact (rnd : BitVec 2) (a b c : Val) : Exact :=
  match mulVal a b with
  | none => .nan true
  | some p => addVal rnd p c

/-- Division (R122). -/
def divExact : Val → Val → Exact
  | .nan, _ => .nan false
  | _, .nan => .nan false
  | .inf _, .inf _ => .nan true
  | .inf a, .fin b _ _ => .inf (a != b)
  | .fin a _ _, .inf b => .fin (a != b) 0 0 false
  | .fin a m1 e1, .fin b m2 e2 =>
    if m2 == 0 then (if m1 == 0 then .nan true else .inf (a != b))
    else if m1 == 0 then .fin (a != b) 0 0 false
    else
      let k := 64 + Nat.log2 m2
      let num := m1 * 2 ^ k
      .fin (a != b) (num / m2) (e1 - e2 - k) (num % m2 != 0)

/-- Integer square root, one bit of the root at a time from bit k down. -/
def isqrtFrom (n : Nat) : Nat → Nat → Nat
  | 0, r => r
  | k + 1, r =>
    let t := r + 2 ^ k
    isqrtFrom n k (if t * t ≤ n then t else r)

def isqrt (n : Nat) : Nat := isqrtFrom n (Nat.log2 n / 2 + 1) 0

/-- Square root (R122). -/
def sqrtExact : Val → Exact
  | .nan => .nan false
  | .inf n => if n then .nan true else .inf false
  | .fin n m e =>
    if m == 0 then .fin n 0 0 false
    else if n then .nan true
    else
      let k : Int := 64 + (if (e - 64) % 2 == 0 then 0 else 1)
      let m' := m * 2 ^ k.toNat
      let r := isqrt m'
      .fin false r ((e - k) / 2) (r * r != m')

/-- Rounding to an integral value in the same format (R120). -/
def frndVal (m : FMode) (code : Nat) : Rounded :=
  match binVal m.frac code with
  | .nan => ⟨nanCode m.frac, 0⟩
  | .inf n => ⟨signCode m.frac n + infCode m.frac, 0⟩
  | .fin n man e =>
    if man == 0 || 0 ≤ e then ⟨code, 0⟩
    else
      let (v, inexact) := roundTo m.rnd n man e false 0
      ⟨(roundBin m.frac 0 n v 0 false).code, if inexact then flagIX else 0⟩

/-- The order of two values that are not NaN; −0 and +0 are equal here. -/
def cmpVal : Val → Val → Ordering
  | .inf a, .inf b => if a == b then .eq else if a then .lt else .gt
  | .inf a, _ => if a then .lt else .gt
  | _, .inf b => if b then .gt else .lt
  | .fin n1 m1 e1, .fin n2 m2 e2 => let q := min e1 e2; compare (toScale n1 m1 e1 q) (toScale n2 m2 e2 q)
  | _, _ => .eq

def valNeg : Val → Bool
  | .nan => false
  | .inf n => n
  | .fin n _ _ => n

/-- FMIN and FMAX on codes already flushed (R119): −0 is below +0, one NaN gives the other operand. -/
def minMaxCode (isMax : Bool) (frac a b : Nat) : Nat :=
  match binVal frac a, binVal frac b with
  | .nan, .nan => nanCode frac
  | .nan, _ => b
  | _, .nan => a
  | x, y =>
    let aLess :=
      match cmpVal x y with
      | .lt => true
      | .gt => false
      | .eq => valNeg x
    if aLess == isMax then b else a

/-- FCMP's condition on codes already flushed (R119). -/
def fcmpCode (cond frac a b : Nat) : Bool :=
  match binVal frac a, binVal frac b with
  | .nan, _ => cond == 1 || cond == 6
  | _, .nan => cond == 1 || cond == 6
  | x, y =>
    let o := cmpVal x y
    match cond with
    | 0 => o == .eq
    | 1 => o != .eq
    | 2 => o == .lt
    | 3 => o != .gt
    | 4 => o == .gt
    | 5 => o != .lt
    | 6 => false
    | _ => true

/-- The class mask of FCLASS (R120). -/
def fclassCode (frac code : Nat) : Nat :=
  match binVal frac code with
  | .nan => 0x100
  | .inf n => if n then 0x001 else 0x080
  | .fin n m _ =>
    if m == 0 then (if n then 0x008 else 0x010)
    else if isSubnormal frac code then (if n then 0x004 else 0x020)
    else (if n then 0x002 else 0x040)

/-- How many bits equal to b stand from bit m − 1 of mag downward (R62). -/
def regimeRun (mag : Nat) (b : Nat) : Nat → Nat
  | 0 => 0
  | m + 1 => if mag / 2 ^ m % 2 == b then regimeRun mag b m + 1 else 0

/-- The magnitude of a tapered code (R62): significand and exponent. -/
def tapMag (m mag : Nat) : Nat × Int :=
  if mag == 0 then (0, 0)
  else
    let b := mag / 2 ^ (m - 1) % 2
    let n := regimeRun mag b m
    let k : Int := if b == 1 then (n : Int) - 1 else -n
    let rest := m - n - 1
    let e := if 1 ≤ rest then mag / 2 ^ (rest - 1) % 2 else 0
    let fw := rest - 1
    (2 ^ fw + mag % 2 ^ fw, 2 * k + e - fw)

/-- A T8 (m = 7) or T6 (m = 5) code as a value; magnitude 0 with sign 1 is NX. -/
def tapVal (m code : Nat) : Val :=
  let neg := code / 2 ^ m % 2 == 1
  let mag := code % 2 ^ m
  if mag == 0 then (if neg then .nan else .fin false 0 0)
  else .fin neg (tapMag m mag).1 (tapMag m mag).2

/-- The FP4 magnitudes in halves (R65). -/
def fp4Halves (mag : Nat) : Nat :=
  match mag with
  | 0 => 0
  | 1 => 1
  | 2 => 2
  | 3 => 3
  | 4 => 4
  | 5 => 6
  | 6 => 8
  | _ => 12

/-- An FP4 code under the extra value in force (R65, R66). -/
def fp4Val (xv : Half) (code : Nat) : Val :=
  if code == 8 then binVal 7 xv.toNat
  else .fin (code / 8 == 1) (fp4Halves (code % 8)) (-1)

/-- An E8M0 scale (R67). -/
def e8m0Val (code : Nat) : Val := if code == 255 then .nan else .fin false 1 ((code : Int) - 127)

/-- The narrow targets of R69: T8, T6 and FP4, by type code 6, 7 and 8: magnitude bits, sign place, value of a magnitude code in units of 2^−12. -/
def narrowBits (ty : Nat) : Nat := if ty == 6 then 7 else if ty == 7 then 5 else 3

def narrowUnits (ty mag : Nat) : Nat :=
  if ty == 8 then fp4Halves mag * 2048
  else let (s, e) := tapMag (narrowBits ty) mag; toScale false s e (-12) |>.natAbs

/-- Count the magnitude codes 1 to k whose value does not exceed the given one, compared by le. -/
def countLe (le : Nat → Bool) : Nat → Nat
  | 0 => 0
  | k + 1 => if le (k + 1) then k + 1 else countLe le k

/-- R69 for a finite value. -/
def narrowFin (ty : Nat) (rnd : BitVec 2) (neg : Bool) (man : Nat) (exp : Int) : Rounded :=
  let bits := narrowBits ty
  let sign := if neg then 2 ^ bits else 0
  let q := min exp (-12)
  let y := shl man (exp - q)
  let unit (mag : Nat) := narrowUnits ty mag * 2 ^ (-12 - q).toNat
  let top := 2 ^ bits - 1
  if unit top < y then ⟨sign + top, flagSX ||| flagIX⟩
  else
    let lo := countLe (fun c => unit c ≤ y) top
    if unit lo == y then ⟨if lo == 0 then 0 else sign + lo, 0⟩
    else
      let up :=
        match rnd.toNat with
        | 0 => unit lo + unit (lo + 1) < 2 * y || (unit lo + unit (lo + 1) == 2 * y && lo % 2 == 1)
        | 1 => false
        | 2 => neg
        | _ => !neg
      let c := if up then lo + 1 else lo
      if c == 0 then ⟨0, flagIX ||| flagUF⟩ else ⟨sign + c, flagIX⟩

/-- R69: conversion of any value to T8, T6 or FP4. -/
def toNarrow (ty : Nat) (rnd : BitVec 2) : Val → Rounded
  | .nan => if ty == 8 then ⟨0, flagIV⟩ else ⟨2 ^ narrowBits ty, 0⟩
  | .inf neg => ⟨(if neg then 2 ^ narrowBits ty else 0) + (2 ^ narrowBits ty - 1), flagSX ||| flagIX⟩
  | .fin neg man exp => narrowFin ty rnd neg man exp

/-- Bounds of an integer type (R58). -/
def intSigned (ty : Nat) : Bool := [0, 2, 9, 11].contains ty
def intMin (signed : Bool) (w : Nat) : Int := if signed then -(2 ^ (w - 1) : Nat) else 0
def intMax (signed : Bool) (w : Nat) : Int := if signed then (2 ^ (w - 1) : Nat) - 1 else (2 ^ w : Nat) - 1

/-- Conversion of a floating value to an integer type (R70). rne breaks a tie to the even integer; R56 names no rule (DESIGN CHOICE, log 71). -/
def toInteger (ty : Nat) (rnd : BitVec 2) (v : Val) : Rounded :=
  let w := intWidth ty
  let lo := intMin (intSigned ty) w
  let hi := intMax (intSigned ty) w
  let code (n : Int) : Nat := (n % (2 ^ w : Nat)).toNat
  match v with
  | .nan => ⟨0, flagIV ||| flagSX⟩
  | .inf neg => ⟨code (if neg then lo else hi), flagIV ||| flagSX⟩
  | .fin neg man exp =>
    let (m, inexact) := roundTo rnd neg man exp false 0
    let n : Int := if neg then -m else m
    if n < lo then ⟨code lo, flagIV ||| flagSX⟩
    else if hi < n then ⟨code hi, flagIV ||| flagSX⟩
    else ⟨code n, if inexact then flagIX else 0⟩

/-- Conversion of a value to binary32 or BF16 (R70). -/
def toBin (m : FMode) : Val → Rounded := fun v => finish m (exactOf v)

/-- An overflow of a conversion to BF16 sets SX under SAT in every rounding mode (R70). -/
def saturateOver (sat : Bool) (r : Rounded) : Rounded := if sat && r.flags &&& flagOF != 0 then { r with flags := r.flags ||| flagSX } else r

/-- The width of one element of a scalar or packed type (R54, R57). -/
def elemWidth (ty : Nat) : Nat :=
  match ty with
  | 0 | 1 | 4 => 32
  | 2 | 3 | 5 | 11 | 12 | 13 => 16
  | 7 => 6
  | 8 => 4
  | _ => 8

/-- Element j of a word (R57). -/
def elemOf (ty j : Nat) (w : Word) : Nat := w.toNat / 2 ^ (elemWidth ty * j) % 2 ^ elemWidth ty

/-- A scalar narrow result written as a word (R57). -/
def scalarWord (ty code : Nat) : Word :=
  if ty == 9 then (BitVec.ofNat 8 code).signExtend 32
  else if ty == 11 then (BitVec.ofNat 16 code).signExtend 32
  else BitVec.ofNat 32 code

/-- The integer an element of an integer type holds. -/
def elemInt (ty code : Nat) : Int :=
  let w := intWidth ty
  if intSigned ty && 2 ^ (w - 1) ≤ code then (code : Int) - (2 ^ w : Nat) else code

def valOfInt (n : Int) : Val := .fin (n < 0) n.natAbs 0

/-- The value of an element as CVT, QNT and DQNT read it (R66, R70); FTZ applies to f32 and BF16 inputs (R61). A subnormal XV that FP4 code
0b1000 stands for is an FP4 input and not flushed (DESIGN CHOICE, log 71). -/
def elemVal (ftz : Bool) (xv : Half) (ty code : Nat) : Val :=
  match ty with
  | 4 => binVal 23 (flushIn ftz 23 code)
  | 5 | 13 => binVal 7 (flushIn ftz 7 code)
  | 6 => tapVal 7 code
  | 7 => tapVal 5 code
  | 8 => fp4Val xv code
  | 14 => e8m0Val code
  | _ => valOfInt (elemInt ty code)

/-- Integer to integer conversion (R58, R70): low bits kept, or the nearer bound under SAT. To an equal-width or wider type of the other
signedness no row of R70 fits a value outside the type; the same is done there (DESIGN CHOICE, log 71). -/
def intToInt (dst : Nat) (sat : Bool) (n : Int) : Rounded :=
  let w := intWidth dst
  let lo := intMin (intSigned dst) w
  let hi := intMax (intSigned dst) w
  let code (k : Int) : Nat := (k % (2 ^ w : Nat)).toNat
  if sat && n < lo then ⟨code lo, flagSX⟩
  else if sat && hi < n then ⟨code hi, flagSX⟩
  else ⟨code n, 0⟩

/-- CVT's rule for one element (R70, R126). -/
def convert (src dst : Nat) (rnd : BitVec 2) (sat ftz : Bool) (xv : Half) (code : Nat) : Rounded :=
  let v := elemVal ftz xv src code
  if 0 < intWidth src && 0 < intWidth dst then intToInt dst sat (elemInt src code)
  else if 0 < intWidth dst then toInteger dst rnd v
  else if dst == 4 then toBin ⟨23, rnd, sat, ftz⟩ v
  else if dst == 13 then saturateOver sat (toBin ⟨7, rnd, sat, ftz⟩ v)
  else if src == dst then ⟨code, 0⟩
  else toNarrow dst rnd v

/-- A value times a power of two, exactly. -/
def scaleVal (k : Int) : Val → Val
  | .fin n m e => .fin n m (e + k)
  | v => v

/-- QNT (R71, R127): the scale divides, .xv takes code 0b1000 for an exact match. -/
def quantise (src dst : Nat) (rnd : BitVec 2) (xvFlag ftz : Bool) (xv : Half) (code scale : Nat) : Rounded :=
  let y := if scale == 255 then .nan else scaleVal (127 - scale) (elemVal ftz xv src code)
  let x := binVal 7 xv.toNat
  if xvFlag && y != .nan && x != .nan && cmpVal y x == .eq then ⟨8, 0⟩
  else if 0 < intWidth dst then toInteger dst rnd y
  else toNarrow dst rnd y

/-- DQNT (R71, R128). -/
def dequantise (src dst : Nat) (rnd : BitVec 2) (ftz : Bool) (xv : Half) (code scale : Nat) : Rounded :=
  let v := if scale == 255 then .nan else scaleVal ((scale : Int) - 127) (elemVal ftz xv src code)
  toBin ⟨if dst == 4 then 23 else 7, rnd, false, ftz⟩ v

/-- FP32 operations on words as the matrix array and the atomics use them: rne, no FTZ. -/
def f32Val (w : Word) : Val := binVal 23 w.toNat

def f32Round (e : Exact) : Res :=
  let r := finish ⟨23, 0, false, false⟩ e
  ⟨BitVec.ofNat 32 r.code, r.flags⟩

def f32Add (a b : Word) : Res := f32Round (addVal 0 (f32Val a) (f32Val b))

def f32NaN : Word := 0x7FC00000

/-- The products of a K-block; none marks an infinity times a zero (R74). -/
def products : List Val → List Val → List (Option Val)
  | a :: as, b :: bs => mulVal a b :: products as bs
  | _, _ => []

/-- What R74 makes of the products before any sum is formed: a NaN, an infinity, or nothing. -/
def specialP (ps : List (Option Val)) : Option Val :=
  let posInf := ps.any fun p => p == some (.inf false)
  let negInf := ps.any fun p => p == some (.inf true)
  if ps.any fun p => p == none || p == some .nan then some .nan
  else if posInf && negInf then some .nan
  else if posInf then some (.inf false)
  else if negInf then some (.inf true)
  else none

/-- The scale at which every product of two K-form values is an integer: 2^−300. -/
def kScale : Int := -300

def finInt : Option Val → Int
  | some (.fin n m e) => toScale n m e kScale
  | _ => 0

def roundInt (s : Int) (q : Int) (sticky : Bool) : Res := f32Round (.fin (s < 0) s.natAbs q sticky)

/-- R72: the exact sum rounded once. -/
def sumExact (ps : List (Option Val)) : Res :=
  let s := (ps.map finInt).foldl (· + ·) 0
  if s == 0 then ⟨0, 0⟩ else roundInt s kScale false

/-- A block sum against the exact sum of its products, a multiple of 2^kScale: IX when they differ (R212). -/
def markInexact (sum : Int) (r : Res) : Res :=
  match f32Val r.word with
  | .fin n m e => if toScale n m e kScale == sum then r else { r with flags := r.flags ||| flagIX }
  | _ => r

/-- R73: the truncating sum of a block with a BF16 operand. -/
def sumTrunc (ps : List (Option Val)) : Res :=
  let ns := ps.map finInt
  let top := (ns.map fun n => Nat.log2 n.natAbs).foldl max 0
  let cut := 2 ^ (top - 63)
  let trunc (n : Int) : Int := Int.tdiv n cut
  let s := (ns.map trunc).foldl (· + ·) 0
  let sticky := ns.any fun n => trunc n * cut != n
  let q := kScale + (top - 63 : Nat)
  markInexact (ns.foldl (· + ·) 0) <|
    if s == 0 then ⟨0, 0⟩
    else if sticky then roundInt (2 * s + (if s < 0 then -1 else 1)) (q - 1) false
    else roundInt s q false

/-- R72 to R74: the partial sum of one K-block of two operands. -/
def blockSum (bf16 : Bool) (as bs : List Val) : Res :=
  let ps := products as bs
  match specialP ps with
  | some v => f32Round (exactOf v)
  | none => if bf16 then sumTrunc ps else sumExact ps

/-- MSCA's update (R75). -/
def mscaAcc (acc p : Word) (sa sb : Nat) : Res :=
  if sa == 255 || sb == 255 then ⟨f32NaN, 0⟩
  else f32Round (addVal 0 (f32Val acc) (scaleVal ((sa : Int) + sb - 254) (f32Val p)))

/-- BF16 truncation of a value (R76); bits below 2^−133 are lost. -/
def bf16Rtz (v : Val) : Val :=
  match v with
  | .fin n m e => if m == 0 then .fin false 0 0 else binVal 7 (roundBin 7 1 n m e false).code
  | v => v

def subFin (a b : Val) : Val :=
  match a, b with
  | .fin n1 m1 e1, .fin n2 m2 e2 =>
    let q := min e1 e2
    let s := toScale n1 m1 e1 q - toScale n2 m2 e2 q
    .fin (s < 0) s.natAbs q
  | a, _ => a

/-- The three slices of an FP32 operand (R76). -/
def split3 (v : Val) : Val × Val × Val :=
  match v with
  | .fin .. =>
    let hi := bf16Rtz v
    let r := subFin v hi
    let mid := bf16Rtz r
    (hi, mid, bf16Rtz (subFin r mid))
  | _ => (v, .fin false 0 0, .fin false 0 0)

def isFin : Val → Bool
  | .fin .. => true
  | _ => false

/-- The slice pairs of .x6 and .x3 in order (R77): 0 hi, 1 mid, 2 lo. -/
def slicePairs (x3 : Bool) : List (Nat × Nat) :=
  if x3 then [(1, 0), (0, 1), (0, 0)] else [(2, 0), (0, 2), (1, 1), (1, 0), (0, 1), (0, 0)]

def pick3 (i : Nat) (t : Val × Val × Val) : Val := if i == 0 then t.1 else if i == 1 then t.2.1 else t.2.2

/-- One output element of an FP32 product over a K-block (R76, R77), from the accumulator or +0; flags raised. -/
def f32Dot (x3 : Bool) (start : Word) (as bs : List Val) : Res :=
  if as.all isFin && bs.all isFin then
    let sa := as.map split3
    let sb := bs.map split3
    (slicePairs x3).foldl (fun acc ij =>
      let p := blockSum true (sa.map (pick3 ij.1)) (sb.map (pick3 ij.2))
      let r := f32Add acc.word p.word
      ⟨r.word, acc.flags ||| p.flags ||| r.flags⟩) ⟨start, 0⟩
  else
    let p := blockSum true as bs
    let r := f32Add start p.word
    ⟨r.word, p.flags ||| r.flags⟩

/-- The i32 product over a K-block modulo 2^32 (R78). -/
def i32Dot (start : Word) (as bs : List Word) : Word :=
  (List.zipWith (· * ·) as bs).foldl (· + ·) start

end Sys2Proof.Machine
end

