-- ==== Sys2Proof/Machine/State.lean ====
section
/-! DEFINITION. Sys2Proof/Machine/State.lean: the state of the part as plain data, the faults and refusals, and the module just powered.
Sparse tables are lists in which the first entry of a key counts; what a list does not name holds its reset value. -/

namespace Sys2Proof.Machine

/-! ## Warps -/

/-- An LQ entry (R16, R17): the load that reserved it and its data once returned. -/
structure LqEntry where
  load : Nat
  data : Option Word
deriving DecidableEq, Repr

/-- The state of one lane (R21): queue, frame, x registers, status and its coupling queues, oldest entry first. -/
structure Lane where
  a : Vector Word 8
  f : Vector Word 32
  x : Vector Word 32
  status : Byte
  lq : List LqEntry
  sq : List Word
  iq : List Word
deriving DecidableEq, Repr

/-- One arm of a region: its layout tag, whether a REJOIN set it, and whether it ended with lanes (R142). -/
structure Arm where
  tag : Byte
  set : Bool
  held : Bool
deriving DecidableEq, Repr

/-- A reconvergence entry (R33, R141, R143). join: where the arms meet, the mask, the enclosing arm's tag and the not-taken arm once
ended; pending: the taken arm yet to run; loop: the BRD.loop and the lanes that wait for it. -/
inductive StackEntry where
  | join (rcv : Word) (mask : Nib) (outerTag : Byte) (outerSet : Bool) (notTaken : Option Arm)
  | pending (rcv : Word) (mask : Nib) (pc : Word)
  | loop (at_ : Word) (mask : Nib)
deriving DecidableEq, Repr

/-- A call level (R30, R31, R145): return PC, stack depth at the call, the four lanes' saved queues, lanes that have returned. -/
structure CallFrame where
  retPc : Word
  depth : Nat
  saved : List (Vector Word 8)
  returned : Nib
  count : Nat
deriving DecidableEq, Repr

/-- What holds a slice before it issues on (R146 to R148, R247, R248), or that it has issued RETT, .next or not (R357). -/
inductive Hold where
  | none
  | regang
  | bar
  | cbar
  | phase
  | rett (next : Bool)
deriving DecidableEq, Repr

/-- What an instruction asks of the coupling queues (R16, R17): lq, sq and iq entries to pop or peek, room LQ entries to reserve, pushSq and
pushIq whether it pushes. -/
structure Want where
  lq : Nat
  room : Nat
  sq : Nat
  iq : Nat
  pushSq : Bool
  pushIq : Bool
deriving DecidableEq, Repr

/-- A slice of one strand (R15, R33, R139). gang is the lowest slice of its gang; stall what its next instruction was found to wait for in
the coupling queues (R16, R19): whether it still waits is read off the queues. -/
structure Slice where
  pc : Word
  active : Nib
  live : Nib
  stack : List StackEntry
  calls : List CallFrame
  gang : Nat
  hold : Hold
  tag : Byte
  tagSet : Bool
  stall : Option Want
deriving DecidableEq, Repr

/-- A walk that ended without success for the instruction at a strand's PC (R302). -/
structure WalkFault where
  va : Nat
  result : Byte
deriving DecidableEq, Repr

/-- One strand: its slices and what keeps it from issuing (R82, R19, R258, R191, R248, R348, R352); midway: gang walkGang has issued an
instruction whose checks wait for walks (R349), walking: their addresses, and whether the page then had no home (R305); pops: gangs that wait in EPOP, the worklist, and whether a close has ended the wait (R237). -/
structure StrandSt where
  slices : List Slice
  parked : Bool
  sleepEnd : Option Nat
  stopped : Bool
  publish : Option Nat
  phaseId : Option Nat
  walking : List (Nat × Bool)
  walk : List WalkFault
  walkGang : Nat
  midway : Bool
  first : Bool
  pops : List (Nat × Nat × Bool)
deriving DecidableEq, Repr

/-- A location that a long result still owes (R82). -/
inductive Loc where
  | age (i : Nat)
  | frame (i : Nat)
  | xreg (i : Nat)
  | uni (i : Nat)
  | mask (i : Nat)
  | sq (i : Nat)
  | iq (i : Nat)
deriving DecidableEq, Repr

/-- A busy mark: the long result, the lane (0 for a y register) and the location. -/
structure Busy where
  id : Nat
  lane : Nat
  loc : Loc
deriving DecidableEq, Repr

/-- An outstanding long result (R81): its strand, the gang that issued it and its PC, and the flags set when it is written (R27). -/
structure LongOp where
  id : Nat
  strand : Strand
  gangSlice : Nat
  flags : List (Nat × Byte)
  access : Option Nat
  pc : Word
deriving DecidableEq, Repr

/-- The bad row that a matrix instruction's 0x01 answers (R217): among the warp's own operands, or in a B latch. -/
inductive MatCheck where
  | warp
  | latch (b : Bool)
deriving DecidableEq, Repr

/-- A cause raised and not yet taken (R351), with what its records need (R361). done: its instruction has completed. -/
structure Raised where
  code : Nat
  aux : Nat
  slice : Nat
  strand : Strand
  done : Bool
  walk : Nat
  access : Nat
  va : Nat
  pc : Word
  lane : Nat
  gang : List Nat
  check : Option MatCheck
deriving DecidableEq, Repr

/-- Access size, class and policy of a translated page (R301). -/
structure Page where
  pa : Nat
  size : Nat
  cc : Nat
  cl : Nat
  wp : Nat
  evp : Nat
  pp : Option Nat
  xtag : Nat
  r : Bool
  w : Bool
  fx : Bool
  qz : Bool
  leafAt : Nat
deriving DecidableEq, Repr

/-- Where one unit of an access falls: a physical address with its page, a scratch offset of a group, or an offset of the
handler's own code object (R355). -/
inductive Place where
  | mem (pa : Nat) (page : Page)
  | scratch (g : GroupKey) (off : Nat)
  | image (off : Nat)
deriving DecidableEq, Repr

/-- What an access does (R261); copy: what a copy has written and has still to perform. -/
inductive AccessKind where
  | load
  | store
  | atom
  | red
  | mred
  | copy
deriving DecidableEq, Repr

/-- How far a unit has been performed (R174, R260): issued; for the agents of its group, cluster or cohort; in its die; at the home and in
every live die. -/
inductive Level where
  | issued
  | grp
  | clu
  | coh
  | die
  | panel
deriving DecidableEq, Repr

/-- A single-copy atomic unit of one lane's access (R158, R263): its bytes within the lane's value, its data (to store, or as read), and the
address it was asked for at. -/
structure AUnit where
  lane : Nat
  off : Nat
  len : Nat
  place : Place
  data : List Byte
  level : Level
  poisoned : Bool
  packet : Option Nat
  va : Nat
deriving DecidableEq, Repr

/-- Where a load or ATOM puts its result. -/
inductive Dest where
  | none
  | xreg (i : Nat)
  | lq
deriving DecidableEq, Repr

/-- A memory access in flight (R161 to R173), by instruction, issued at pc; size is its SIZE code. Of what a copy wrote nt says that the copy has SUCC = 1. -/
structure Access where
  id : Nat
  kind : AccessKind
  size : Nat
  scope : Nat
  nt : Bool
  pol : Nat
  aop : Nat
  dest : Dest
  units : List AUnit
  drained : Bool
  slice : Nat
  pc : Word
deriving DecidableEq, Repr

/-- A latch (R193, R199): the type recorded, the XV captured, its rows as bytes, and rows of the pool with an uncorrectable error, each
with the unit number (R217). -/
structure Latch where
  ty : Option Nat
  xv : Half
  rows : List (List Byte)
  bad : List (Nat × Nat)
deriving DecidableEq, Repr

/-- Matrix state of an octet (R193): A latch, partial tile and accumulator tiles, 8 × 32 words each (what is not listed is 0), and bad rows
of the pool counted from the partial tile's first. -/
structure Octet where
  latch : Latch
  part : List (List Word)
  tiles : List (List (List Word))
  bad : List (Nat × Nat)
deriving DecidableEq, Repr

/-- A matrix instruction's meaning with its operands captured at issue (R197, R198), per acting octet where it acts per octet. -/
inductive MatKind where
  | loadA (ty : Nat) (rows : List (Nat × List (Option Nat)))
  | loadB (latch : Bool) (ty : Nat) (rows : List Nat)
  | mma (acc n ta tb : Nat) (latch part zero int : Bool) (octets : List (Nat × Byte))
  | mmax (acc n : Nat) (latch x3 zero int : Bool) (octets : List (Nat × Byte))
  | mz (acc : Nat) (part all : Bool) (octets : List (Nat × Byte))
  | mdr (acc n ty ctl : Nat) (octets : List (Nat × List (Option Nat)))
  | mdra (acc n ty ctl : Nat) (octets : List (Nat × Byte))
  | msca (acc n : Nat) (octets : List (Nat × Byte × List Nat × List Nat))
  | mcfg (xva xvb : Option Half)
deriving DecidableEq, Repr

/-- A matrix operation not yet completed (R198): the batch slot it is closed into, none while open (R213), the domain it is charged to, and the
scratch rows that it reads as they stood at issue, by offset (R215). -/
structure MatOp where
  id : Nat
  w : WarpKey
  kind : MatKind
  slot : Option Nat
  dom : Nat
  rows : List (Nat × List (List Byte))
deriving DecidableEq, Repr

/-- What a stopped warp keeps beside its context block: the opaque stack blocks with the call frames (R35), the cause register at entry,
the slices that issued the trapping instruction and its strand, whether RETT.next moves them on (R357), the kernel mode word, the causes
kept (R351), the number that names of later accesses start from, the cause's own record (none for 0x41 and for an eviction), and the phase
that each strand's PHASE named (R248). -/
structure Saved where
  c : List Slice
  a : List Slice
  cause : Word
  issued : List Nat
  issuedStrand : Strand
  advance : Bool
  mode : Word
  kept : List Raised
  since : Nat
  raised : Option Raised
  phaseC : Option Nat
  phaseA : Option Nat
deriving DecidableEq, Repr

/-- What a warp's locations held at an issue (R82). -/
structure Snap where
  lanes : List Lane
  y : Vector Word 16
  m : Vector Mask 8
deriving DecidableEq, Repr

/-- A warp on a core (R21). past: what its locations have held, latest first (R82); cfgBad: the unit of an uncorrectable error in its
configuration row (R217). -/
structure Warp where
  key : WarpKey
  width : Nat
  lanes : List Lane
  m : Vector Mask 8
  g : Vector Mask 8
  y : Vector Word 16
  cause : Word
  mode : Word
  clkHi : Word
  perfHi : Word
  c : StrandSt
  a : StrandSt
  past : List Snap
  busy : List Busy
  longs : List LongOp
  accs : List Access
  xva : Half
  xvb : Half
  mstatus : Word
  octets : List Octet
  machineCheck : Option Nat
  latchCheck : List (Bool × Nat)
  cfgBad : Option Nat
  pending : List Raised
  asyncs : List Nat
  handler : Bool
  saved : Option Saved
  record : Option Nat
  held : Bool
  parkedFor : Bool
  evictNamed : Bool
  evicted : Bool
  ended : Bool
  ctx : Nat
  callBase : Nat
  stuckSince : Option Nat
deriving DecidableEq, Repr

/-! ## Groups, cores, dies -/

/-- A stage counter (R187, R190): the byte count and status bits 3:1. -/
structure Stage where
  count : Word
  abortBit : Bool
  strideBit : Bool
  indexBit : Bool
  poisonAbort : Bool
deriving DecidableEq, Repr

/-- A placed group (R36 to R47, R337, R365). rowMap: the pool row behind each of its register-file, scratch and accumulator rows, none while
that row is evicted (R285); firstLoad: the home of the page its first load of the phase reads (R328); aborted: a copy that it issued in the
phase was aborted, so the phase never ends (R189, R279). -/
structure Group where
  key : GroupKey
  dom : Nat
  die : Nat
  core : Nat
  slot : Nat
  cohort : List Nat
  cohortNo : Nat
  phase : Nat
  prio : Nat
  effPrio : Nat
  resident : Bool
  width : Nat
  scRows : Nat
  accRows : Nat
  rfRows : Nat
  rowMap : List (Option Nat)
  scratch : List Host.Cell
  b0 : Latch
  b1 : Latch
  stages : List Stage
  active : Bool
  entered : Nat
  waitSwaps : Nat
  placedAt : Nat
  rowsOut : Bool
  area : Nat
  recAt : Nat
  warps : List Warp
  firstLoad : Option Nat
  aborted : Bool
deriving DecidableEq, Repr

/-- One slot of a routing window row (R225, R231). -/
structure RSlot where
  valid : Bool
  weight : Word
  port : Nat
  resolved : Bool
  ret : Option (List Word)
deriving DecidableEq, Repr

/-- A row of a routing window (R231): its slots, whether it has resolved, and the input row's bytes that a passthrough then read. -/
structure RRow where
  slots : List RSlot
  done : Bool
  pass : Option (List Byte)
deriving DecidableEq, Repr

/-- An entry of a core's reassembly table (R225, R235, R345). -/
structure RWindow where
  gen : Nat
  open_ : Bool
  byTimeout : Bool
  byClose : Bool
  owner : GroupKey
  table : Nat
  succ : Bool
  input : Nat
  inStride : Nat
  output : Nat
  outStride : Nat
  rowBytes : Nat
  elems : Nat
  rows : List RRow
  fallb : List (Nat × Bool)
  deadline : Option Nat
deriving DecidableEq, Repr

/-- A profile-table entry (R48): phase id, launch tag, groups counted and the six busy and idle pairs. -/
structure Profile where
  phase : Nat
  tag : Nat
  groups : Nat
  counts : List (Nat × Nat)
  used : Nat
deriving DecidableEq, Repr

/-- An event counter (R399, R400): the select word and the count. -/
structure Counter where
  sel : Word
  count : Word64
deriving DecidableEq, Repr

/-- A core (R225, R235, R337, R48, R399): feUntil, aUntil until when its C-strand and A-strand front ends are occupied, feDom whom the first
serves, lastC, lastA the warps that they issued last (R338). -/
structure CoreSt where
  die : Nat
  core : Nat
  windows : List RWindow
  late : Word
  dropped : Word
  active : List GroupKey
  pending : List GroupKey
  profile : List Profile
  counters : List Counter
  swaps : Nat
  feUntil : Nat
  feDom : Nat
  aUntil : Nat
  lastC : Option WarpKey
  lastA : Option WarpKey
  tlb : List ((Nat × Nat) × Page)
deriving DecidableEq, Repr

/-- How a K-die stands (R379, R383, R411). -/
inductive DieStatus where
  | live
  | reset
  | retired
  | testFailed
  | disabled
deriving DecidableEq, Repr

/-- A withdrawal in progress (R384): DRESET or RETIRE, and the request's tag. -/
structure Withdrawal where
  retire : Bool
  tag : Word
  started : Nat
deriving DecidableEq, Repr

/-- A cached line of a die (R290 to R295): L2 or remote-line cache, dirty bytes, data and poison of an SC or CP line (sc). -/
structure CacheLine where
  rlc : Bool
  line : Nat
  prio : Nat
  stamp : Nat
  sc : Bool
  toRlc : Bool
  dirty : BitVec 128
  data : List Byte
  poison : BitVec 128
  dom : Nat
deriving DecidableEq, Repr

/-- A task of a worklist (R238); spilled: it lies in the die's spill part. -/
structure ETask where
  payload : Word64
  prio : Word
  aux : Word
  spilled : Bool
deriving DecidableEq, Repr

/-- A die's Escapement unit for one worklist (R237 to R246): its tasks in the order it took them, its G, pushes minus EDONEs, the last SUM it
received, and the count it last reported (R244). -/
structure EUnit where
  wl : Nat
  open_ : Bool
  terminated : Bool
  tasks : List ETask
  g : Nat
  net : Word
  lastSum : Word
  shift : Nat
  lead : Nat
  balancing : Bool
  spillBase : Nat
  spillPart : Nat
  reported : Nat
  tickedAt : Nat
deriving DecidableEq, Repr

/-- A K-die: status and mask bit (R379), withdrawal, packets sent (R296: a die's vector follows from the packets it has applied), caches, units, counters, flip replica (R310), page reserves (R305), and when it last answered an Arbor operation (R379). -/
structure DieSt where
  num : Nat
  status : DieStatus
  masked : Bool
  withdrawal : Option Withdrawal
  sent : Nat
  lines : List CacheLine
  units : List EUnit
  counters : List Counter
  flips : List (Nat × Bool)
  closed : List Nat
  reserve : List (Nat × Nat)
  tlb : List ((Nat × Nat) × Page)
  withheldUntil : Nat
  unresponsive : Bool
  leftReset : Nat
  answeredAt : Nat
deriving DecidableEq, Repr

/-! ## Memory -/

/-- The dies that hold copies of a line (R294): up to four pointers, or the coarse vector, whose bit i covers dies 16i to 16i + 15. -/
inductive Holders where
  | few (dies : List Nat)
  | coarse (v : BitVec 32)
deriving DecidableEq, Repr

/-- The state of an HC line in its home's directory (R294). -/
inductive DirState where
  | i
  | s (h : Holders)
  | o (die : Nat)
deriving DecidableEq, Repr

structure DirEntry where
  line : Nat
  state : DirState
deriving DecidableEq, Repr

/-- A write packet (R265, R268, R296): sender, its sequence number, the bytes, whether the write they are of covers every sector they touch
(R385), the sender's vector, what the home held before once it has applied it, and the other dies that have (all: every die). only: the home of
an SC or CP line, which alone applies them; own: the sender becomes the line's owner (R292, R294); dom: the domain it is charged to; told: the
dies its invalidation went to. -/
structure Packet where
  id : Nat
  src : Nat
  seq : Nat
  pa : Nat
  bytes : List Byte
  full : Bool
  deps : List (Nat × Nat)
  old : Option (List Byte)
  applied : List Nat
  all : Bool
  only : Option Nat
  own : Bool
  dom : Nat
  told : List Nat
deriving DecidableEq, Repr

/-- Device memory, the directories of its base dies and what travels to it. mem lists bytes by physical address in rising order, none of them
0; an HC line that dir does not name is in state I. For a line in state O mem holds what its owner has written: the home's order is the
owner's (R294). -/
structure Memory where
  mem : List Host.Cell
  poison : List Nat
  sent : List Packet
  log : List Packet
  dir : List DirEntry
  spares : List (Nat × Nat)
deriving DecidableEq, Repr

/-! ## Crown, Regulator, copies, routes, Arbor -/

/-- A completion ring (R323). -/
structure Ring where
  addr : Word64
  key : Word
  qp : Word
deriving DecidableEq, Repr

/-- How a parsed record stands (R320, R323, R326). -/
structure RecState where
  k : Nat
  status : Option Nat
  seq : Nat
deriving DecidableEq, Repr

/-- A launch window (R313 to R315, R323). -/
structure Window where
  num : Nat
  dom : Option Nat
  qp : Nat
  bytes : List (Nat × List Byte)
  next : Nat
  written : Nat
  ring : Option Ring
  recs : List RecState
deriving DecidableEq, Repr

/-- A carry set (R44, R45). -/
structure Carry where
  f : Word
  x : Word
  runs : List (Nat × Nat)
deriving DecidableEq, Repr

/-- A phase-table entry (R104). -/
structure Phase where
  id : Nat
  mode : Word
  c : Nat
  a : Nat
  carry : Carry
deriving DecidableEq, Repr

/-- A code object (R104): base, width, resident flag, segments as address and size, phases. -/
structure CodeObject where
  base : Nat
  width : Nat
  resident : Bool
  cSeg : Nat × Nat
  aSeg : Nat × Nat
  tSeg : Nat × Nat
  dSeg : Nat × Nat
  phases : List Phase
deriving DecidableEq, Repr

/-- An access that its group left in flight when it retired, or writes of a copy, with the die, core, domain and cohort it belongs to (R282). -/
structure Orphan where
  w : WarpKey
  die : Nat
  core : Nat
  dom : Nat
  cohort : List Nat
  acc : Access
deriving DecidableEq, Repr

/-- A launch accepted and not forgotten (R317, R327). parked groups and phases stand elsewhere; here: what remains to place and report; owed: it
has ended, and what follows its writes is still to come (R282, R324); cancelBy: the index of the CANCEL that ended it (R326). -/
structure Launch where
  seq : Nat
  win : Nat
  k : Nat
  order : Nat
  dom : Nat
  prio : Nat
  cookie : Word
  code : CodeObject
  firstPhase : Nat
  warps : Nat
  rows : Word
  groups : Nat
  perCohort : Nat
  param : Word64
  dies : List Nat
  hint0 : Option (Nat × Nat)
  hint1 : Option (Nat × Nat)
  deps : List (Nat × Nat)
  succAddr : Nat
  succVal : Word64
  started : Bool
  placed : Nat
  retired : Nat
  lastDie : Option Nat
  status : Option Nat
  detail : Nat
  reported : Bool
  ended : Bool
  owed : Bool
  cancelBy : Option Nat
  orphans : List Orphan
deriving DecidableEq, Repr

/-- A successor task of the Regulator (R42, R333, R334): the group, its phase record and the workspace area of the phase, count, holds, id once bound; whether its phase has
ended, the cohort it goes with and the home of the first load of that phase (R328). -/
structure Task where
  g : GroupKey
  recAt : Nat
  area : Nat
  count : Nat
  holds : Nat
  next : Option Nat
  phaseOver : Bool
  cohort : List Nat
  cohortNo : Nat
  home : Option Nat
deriving DecidableEq, Repr

/-- Copy kinds with their fields (R180 to R185). -/
inductive CopyKind where
  | plain (src dst len : Nat)
  | gather (scat : Bool) (src dst list count row sstride dstride limit : Nat)
  | tile (srcRec dstRec : Nat × Nat × Nat × Nat) (esize : Nat) (scol srow dcol drow : Int) (tw th edge : Nat)
deriving DecidableEq, Repr

inductive CopyRun where
  | running
  | suspended (rec : Option Nat) (poison : Bool)
  | evictHold
deriving DecidableEq, Repr

/-- A copy that has neither completed nor been aborted (R179 to R190). srcS and dstS: the group whose scratch is the endpoint; writes: the
accesses that its writes stand in flight as; done: bytes written of chunks at or beyond the cursor; total: bytes of its stream; index: the
entries of its index list read so far, in list order (R183); old: source bytes that it has overwritten, by stream byte, with what they held
before (R182). -/
structure Copy where
  id : Nat
  g : GroupKey
  warp : Nat
  dom : Nat
  die : Nat
  core : Nat
  desc : Nat
  kind : CopyKind
  srcS : Option GroupKey
  dstS : Option GroupKey
  stage : Option Nat
  scope : Nat
  succ : Bool
  rel : Bool
  relWait : List Nat
  writes : List Nat
  done : List (Nat × Nat)
  cursor : Nat
  total : Nat
  run : CopyRun
  resumePending : Bool
  pc : Word
  lane : Nat
  index : List Nat
  old : List (Nat × Byte)
deriving DecidableEq, Repr

/-- A bound route table (R221, R343). -/
structure Table where
  dom : Nat
  num : Nat
  addr : Nat
  staging : Nat
  stagingSize : Nat
deriving DecidableEq, Repr

/-- A claim in flight or waiting for an inbox slot (R225 to R227): where it comes from, the scratch address of its input row with the bytes as
they stood at issue, and the slot of the staging ring that holds the row (R344). -/
structure Claim where
  id : Nat
  dom : Nat
  table : Nat
  port : Nat
  die : Nat
  core : Nat
  win : Nat
  gen : Nat
  row : Nat
  slot : Nat
  owner : GroupKey
  input : Nat
  data : List Byte
  staged : Option Nat
deriving DecidableEq, Repr

/-- An inbox slot (R227, R228): the claim whose row it holds, whether taken, and its place in the order of entry. -/
structure Inbox where
  idx : Nat
  claim : Claim
  taken : Bool
deriving DecidableEq, Repr

/-- The state of one port (R226, R227, R343, R344): claim counts by window, inbox, accepted rows waiting, and the next slot of its staging
ring. -/
structure Port where
  dom : Nat
  table : Nat
  port : Nat
  counts : List (Nat × Nat)
  inbox : List Inbox
  waiting : List Claim
  next : Nat
deriving DecidableEq, Repr

/-- A return or drop notice on its way (R229, R230); counted: a drop that RSTAT.drop counts (R235). -/
structure Return where
  id : Nat
  claim : Claim
  row : Option (List Word)
  counted : Bool
deriving DecidableEq, Repr

/-- An EOPEN travelling (R237). -/
structure EOp where
  id : Nat
  wl : Nat
  close : Bool
  shift : Nat
  lead : Nat
  balancing : Bool
  spillBase : Nat
  spillSize : Nat
  due : List Nat
  issued : Nat
deriving DecidableEq, Repr

/-- A sample of a worklist (R242): MIN and SUM, whether it found the worklist terminated (R245), the dies it has still to reach, and when it was
taken. -/
structure Sample where
  min : Nat
  sum : Word
  term : Bool
  due : List Nat
  at_ : Nat
deriving DecidableEq, Repr

/-- The Arbor's view of a worklist (R236, R242, R245): samples on their way, oldest first, and consecutive zero SUMs. -/
structure Worklist where
  num : Nat
  dom : Option Nat
  samples : List Sample
  zeros : Nat
  terminated : Bool
  sampledAt : Nat
deriving DecidableEq, Repr

/-- Tasks moved by balancing (R244). -/
structure Transfer where
  id : Nat
  wl : Nat
  from_ : Nat
  dest : Nat
  tasks : List ETask
deriving DecidableEq, Repr

/-- One Arbor channel of a launch (R250 to R252): generation, participants, arrivals with their operation and value, the last released
generation as each die has it, and the last generation each die joined. -/
structure Channel where
  seq : Nat
  num : Nat
  gen : Nat
  members : List Nat
  arrivals : List (Nat × Nat × Word)
  values : List (Nat × Word)
  seen : List (Nat × Nat)
  joined : List (Nat × Nat)
deriving DecidableEq, Repr

/-- A flip in progress (R311): the entry, the publisher, each die's stage, and when its stage began (R379). -/
structure Flip where
  id : Nat
  entry : Nat
  w : WarpKey
  gang : Nat
  stage : Nat
  closed : List Nat
  taken : List Nat
  started : Nat
deriving DecidableEq, Repr

/-- A fault record held by the part (R361): index, state, kind and whom it holds; resume: the DISP of a RESUME that waits for an evicted
warp or region to be restored (R367). -/
structure FaultRec where
  dom : Nat
  idx : Nat
  state : Nat
  kind : Nat
  code : Nat
  w : Option WarpKey
  copy : Option Nat
  seq : Nat
  raised : Option Raised
  resume : Option Nat
deriving DecidableEq, Repr

/-- What the host gives a domain: root, workspace, count of fault records, grant (R299, R336, R361, R399). -/
structure Domain where
  num : Nat
  root : Option Nat
  work : Option (Nat × Nat)
  faults : Nat
  grant : Word64
deriving DecidableEq, Repr

/-! ## Module -/

/-- One of the 65 accounting sets (R396), counters in the order of the table. -/
structure Account where
  dom : Nat
  counts : Vector Word64 8
deriving DecidableEq, Repr

/-- An error log entry (R401). -/
structure LogEntry where
  time : Nat
  die : Nat
  unit : Nat
  kind : Nat
  addr : Nat
deriving DecidableEq, Repr

/-- What has left the module: RDMA writes, responses and NAKs, management responses with the bytes on TCP that carry them, SPDM messages as they
travel there, host reports. -/
inductive Out where
  | rdmaWrite (qp : Word) (key : Word) (addr : Word64) (bytes : List Byte)
  | rdmaRead (port qp : Nat) (bytes : List Byte)
  | rdmaAck (port qp : Nat)
  | nak (port qp code : Nat)
  | mgmt (response : List Byte) (bytes : List Byte)
  | spdm (bytes : List Byte)
  | report (kind arg : Nat)
deriving DecidableEq, Repr

inductive BootState where
  | off
  | recovery
  | running
deriving DecidableEq, Repr

/-- One direction of a session: its secret, from which keys derive, and how many messages have passed under it (R391). -/
structure Traffic where
  secret : List Byte
  count : Nat
deriving DecidableEq, Repr

/-- The keys of a session: its 4-byte name, the secret of its handshake, the requester's direction and the part's. -/
structure Keys where
  id : List Byte
  handshake : List Byte
  req : Traffic
  rsp : Traffic
deriving DecidableEq, Repr

/-- A management session (R393). -/
inductive Session where
  | none
  | opening (k : Keys)
  | open_ (k : Keys)
deriving DecidableEq, Repr

/-- The SPDM messages that later signatures cover (R391 to R393): of the connection, of the certificates, of the measurements, and of the
session's opening. -/
structure Transcript where
  a : List Byte
  b : List Byte
  l : List Byte
  k : List Byte
deriving DecidableEq, Repr

/-- The module controller (R389 to R402). fuses: as the first power-on found them (R2); fused: security versions raised since, by image kind;
soft: error counts by die and unit; staged: staged images, one of a kind; tofsAt: when TOFS was last measured (R377); retries: of each link the
flit it last retried and how often in a row (R373); boundary: the accounts as they stood at the last 1 ms boundary (R398); energyAt: ns at that
boundary; paused: until when a port's class is paused; connected: the queue pairs of each port (R381). -/
structure Module where
  boot : BootState
  meas : List (List Byte)
  fuses : Option Fuses
  fused : List (Word × Word)
  rootDigest : List Byte
  handlers : List (Nat × List Byte)
  session : Session
  transcript : Transcript
  accounts : List Account
  readouts : Nat
  log : List LogEntry
  logged : Nat
  soft : List ((Nat × Nat) × Nat)
  staging : List Byte
  staged : List (List Byte)
  tofs : List (Nat × Int)
  tofsAt : Nat
  poweredAt : Nat
  energyAt : Nat
  boundary : List Account
  edErrors : List (Nat × Nat)
  discarded : List (Nat × Nat)
  connected : List (Nat × Nat)
  retries : List (Nat × Nat × Nat)
  linksDown : List Nat
  paused : List ((Nat × Nat) × Nat)
deriving DecidableEq, Repr

/-- The gang that issues: its warp, strand and slices. -/
structure Issuer where
  w : WarpKey
  strand : Strand
  gang : Nat
deriving DecidableEq, Repr

/-- Stops by name. -/
inductive Fault where
  /-- A meaning of an instruction row was asked for while no gang issues. Only a call of exec outside step raises it; no step does. Safe. -/
  | noIssuer
deriving DecidableEq, Repr

/-- Refusals by name. -/
inductive Refusal where
  /-- The dispatcher's answer for an instruction without a meaning; no arm gives it. Safe. -/
  | notModelled (mnemonic : String)
deriving DecidableEq, Repr

/-- What an RDMA request asks (R381, R382). -/
inductive RdmaOp where
  | write (data : List Byte)
  | read (len : Nat)
  | send (data : List Byte)
  | atomic
deriving DecidableEq, Repr

/-- An RDMA request that has arrived. -/
structure RdmaJob where
  req : RdmaReq
  op : RdmaOp
deriving DecidableEq, Repr

/-- The state of the part. rdmaWaits: RDMA requests that wait, in the order posted (R382). -/
structure State where
  groups : List Group
  cores : List CoreSt
  dies : List DieSt
  memory : Memory
  domains : List Domain
  rings : List ((Nat × Nat) × Nat)
  flipOwner : List (Nat × Nat)
  windows : List Window
  launches : List Launch
  nextSeq : Nat
  parseCount : Nat
  tasks : List Task
  ready : List GroupKey
  areas : List (Nat × Nat × Nat)
  sliceUnits : Nat
  copies : List Copy
  matOps : List MatOp
  tables : List Table
  ports : List Port
  claims : List Claim
  returns : List Return
  worklists : List Worklist
  eops : List EOp
  transfers : List Transfer
  channels : List Channel
  flips : List Flip
  faultRecs : List FaultRec
  rdmaWaits : List RdmaJob
  module : Module
  now : Nat
  out : List Out
  nextId : Nat
  free : Nat
  steps : Nat
  agenda : List Entry
  cur : Option Issuer
deriving DecidableEq, Repr

/-! ## The module just powered -/

def Window.fresh (n : Nat) : Window := ⟨n, none, 0, [], 1, 0, none, []⟩

def DieSt.fresh (n : Nat) : DieSt := ⟨n, .live, false, none, 0, [], [], [], [], [], [], [], 0, false, 0, 0⟩

def Module.fresh : Module :=
  { boot := .off, meas := List.replicate 8 (List.replicate 48 0), fuses := none, fused := [], rootDigest := [], handlers := [],
    session := .none, transcript := ⟨[], [], [], []⟩, accounts := [], readouts := 0, log := [], logged := 0, soft := [], staging := [],
    staged := [], tofs := [], tofsAt := 0, poweredAt := 0, energyAt := 0, boundary := [], edErrors := [], discarded := [], connected := [],
    retries := [], linksDown := [], paused := [] }

/-- The module powered and not yet booted (R317, R339, R389, R396): nothing launched, memory with nothing listed. -/
def State.reset : State :=
  { groups := [], cores := [], dies := [], memory := ⟨[], [], [], [], [], []⟩, domains := [], rings := [], flipOwner := [],
    windows := [], launches := [], nextSeq := 1, parseCount := 0, tasks := [], ready := [], areas := [], sliceUnits := 64,
    copies := [], matOps := [], tables := [], ports := [], claims := [], returns := [], worklists := [], eops := [],
    transfers := [], channels := [], flips := [], faultRecs := [], rdmaWaits := [], module := Module.fresh, now := 0, out := [], nextId := 1,
    free := 0, steps := 0, agenda := [], cur := none }

end Sys2Proof.Machine
end

