-- ==== Sys2Proof/Machine/Base.lean ====
section
/-! DEFINITION. Sys2Proof/Machine/Base.lean: sparse tables, byte stores in canonical form, and access to the parts of the state. -/

namespace Sys2Proof.Machine

/-! ## Lists as tables -/

/-- Change the first element that p selects. -/
def updFirst {α : Type} (p : α → Bool) (f : α → α) : List α → List α
  | [] => []
  | x :: xs => if p x then f x :: xs else x :: updFirst p f xs

/-- Replace the first element that p selects, or add one at the end. -/
def putFirst {α : Type} (p : α → Bool) (v : α) : List α → List α
  | [] => [v]
  | x :: xs => if p x then v :: xs else x :: putFirst p v xs

def tableGet {κ α : Type} [DecidableEq κ] (k : κ) : List (κ × α) → Option α
  | [] => none
  | (k', v) :: xs => if k' = k then some v else tableGet k xs

def tableSet {κ α : Type} [DecidableEq κ] (k : κ) (v : α) (l : List (κ × α)) : List (κ × α) := putFirst (fun e => e.1 = k) (k, v) l

/-- Change element i of a list. -/
def updAt {α : Type} (i : Nat) (f : α → α) (l : List α) : List α := l.modify i f

def mapIdxList {α β : Type} (f : Nat → α → β) (l : List α) : List β := l.mapIdx f

/-! ## Byte stores: strictly rising addresses, no listed zero -/

def cellRead : List Host.Cell → Nat → Byte
  | [], _ => 0
  | (k, v) :: xs, a => if k = a then v else if a < k then 0 else cellRead xs a

def cellWrite : List Host.Cell → Nat → Byte → List Host.Cell
  | [], a, b => if b = 0 then [] else [(a, b)]
  | (k, v) :: xs, a, b =>
    if a < k then (if b = 0 then (k, v) :: xs else (a, b) :: (k, v) :: xs)
    else if k = a then (if b = 0 then xs else (a, b) :: xs)
    else (k, v) :: cellWrite xs a b

/-- Addresses above lo, strictly rising, no entry equal to what an unlisted address reads as (0). -/
def cellsAbove : Option Nat → List Host.Cell → Bool
  | _, [] => true
  | lo, (k, v) :: xs =>
    (match lo with
     | none => true
     | some l => l < k) && v != 0 && cellsAbove (some k) xs

/-- The canonical form of a byte store. -/
def cellsWf (c : List Host.Cell) : Bool := cellsAbove none c

def cellReads (c : List Host.Cell) (a : Nat) : Nat → List Byte
  | 0 => []
  | n + 1 => cellRead c a :: cellReads c (a + 1) n

def cellWrites (c : List Host.Cell) (a : Nat) : List Byte → List Host.Cell
  | [] => c
  | b :: bs => cellWrites (cellWrite c a b) (a + 1) bs

/-- Device memory is in canonical form. -/
def Memory.wf (m : Memory) : Bool := cellsWf m.mem

/-! ## Groups and warps -/

def State.group? (s : State) (k : GroupKey) : Option Group := s.groups.find? (·.key == k)

/-- Rows of the pool that a group holds (R285). -/
def Group.held (g : Group) : Nat := g.rowMap.countP (·.isSome)

def State.modGroup (s : State) (k : GroupKey) (f : Group → Group) : State :=
  { s with groups := updFirst (·.key == k) f s.groups }

def Group.warp? (g : Group) (k : WarpKey) : Option Warp := g.warps.find? (·.key == k)

def State.warp? (s : State) (k : WarpKey) : Option Warp := (s.group? k.group).bind (·.warp? k)

def State.modWarp (s : State) (k : WarpKey) (f : Warp → Warp) : State :=
  s.modGroup k.group fun g => { g with warps := updFirst (·.key == k) f g.warps }

def Warp.strand (w : Warp) : Strand → StrandSt
  | .c => w.c
  | .a => w.a

def Warp.setStrand (w : Warp) (st : Strand) (v : StrandSt) : Warp :=
  match st with
  | .c => { w with c := v }
  | .a => { w with a := v }

def Warp.modStrand (w : Warp) (st : Strand) (f : StrandSt → StrandSt) : Warp := w.setStrand st (f (w.strand st))

def other : Strand → Strand
  | .c => .a
  | .a => .c

/-- Every slice of the strand has stopped for want of live lanes (R147). -/
def StrandSt.exited (t : StrandSt) : Bool := t.slices.all fun sl => sl.live == 0

/-- The strand has issued PHASE in every slice with a live lane (R248). -/
def StrandSt.atPhase (t : StrandSt) : Bool := !t.exited && t.slices.all fun sl => sl.live == 0 || sl.hold == .phase

def Warp.bothExited (w : Warp) : Bool := w.c.exited && w.a.exited

def Warp.bothPhase (w : Warp) : Bool := w.c.atPhase && w.a.atPhase

/-! ## Cores, dies, domains -/

def emptyWindow : RWindow := ⟨0, false, false, false, ⟨0, 0⟩, 0, false, 0, 0, 0, 0, 0, 0, [], [], none⟩

def CoreSt.fresh (d c : Nat) : CoreSt := ⟨d, c, List.replicate 16 emptyWindow, 0, 0, [], [], [], List.replicate 4 ⟨0, 0⟩, 0, 0, 64, 0, none, none, []⟩

def State.core (s : State) (d c : Nat) : CoreSt := (s.cores.find? fun k => k.die == d && k.core == c).getD (.fresh d c)

def State.setCore (s : State) (k : CoreSt) : State :=
  { s with cores := putFirst (fun j => j.die == k.die && j.core == k.core) k s.cores }

def State.modCore (s : State) (d c : Nat) (f : CoreSt → CoreSt) : State := s.setCore (f (s.core d c))

def State.die (s : State) (n : Nat) : DieSt := (s.dies.find? (·.num == n)).getD (.fresh n)

def State.setDie (s : State) (d : DieSt) : State := { s with dies := putFirst (·.num == d.num) d s.dies }

def State.modDie (s : State) (n : Nat) (f : DieSt → DieSt) : State := s.setDie (f (s.die n))

/-- A die is live: not masked and neither reset, retired nor disabled (R2, R379). -/
def State.isLive (s : State) (n : Nat) : Bool := n < Config.dies && (s.die n).status == .live && !(s.die n).masked

def State.liveDies (s : State) : List Nat := (List.range Config.dies).filter s.isLive

def Domain.fresh (n : Nat) : Domain := ⟨n, none, none, 0, 0⟩

def State.domain (s : State) (n : Nat) : Domain := (s.domains.find? (·.num == n)).getD (.fresh n)

def State.modDomain (s : State) (n : Nat) (f : Domain → Domain) : State :=
  { s with domains := putFirst (·.num == n) (f (s.domain n)) s.domains }

def State.window (s : State) (n : Nat) : Window := (s.windows.find? (·.num == n)).getD (.fresh n)

def State.modWindow (s : State) (n : Nat) (f : Window → Window) : State :=
  { s with windows := putFirst (·.num == n) (f (s.window n)) s.windows }

def State.launch? (s : State) (seq : Nat) : Option Launch := s.launches.find? (·.seq == seq)

def State.modLaunch (s : State) (seq : Nat) (f : Launch → Launch) : State :=
  { s with launches := updFirst (·.seq == seq) f s.launches }

def State.task? (s : State) (g : GroupKey) : Option Task := s.tasks.find? (·.g == g)

def State.modTask (s : State) (g : GroupKey) (f : Task → Task) : State := { s with tasks := updFirst (·.g == g) f s.tasks }

def State.send (s : State) (o : Out) : State := { s with out := s.out ++ [o] }

/-- A die answers an Arbor operation (R379). -/
def State.answered (s : State) (die : Nat) : State := s.modDie die fun d => { d with answeredAt := s.now }

def State.bumpId (s : State) : State := { s with nextId := s.nextId + 1 }

/-- Bytes filled up with zeros to n of them. -/
def padTo (n : Nat) (bs : List Byte) : List Byte := bs ++ List.replicate (n - bs.length) 0

/-! ## Geometry (R369 to R372, R376) -/

/-- Site of K-die d. -/
def siteOf (d : Nat) : Nat × Nat := (d / 16, 2 * (d % 16) + (d / 16) % 2)

def regionOf (d : Nat) : Nat := 2 * ((siteOf d).1 / 16) + (siteOf d).2 / 16

def absDiff (a b : Nat) : Nat := (a - b) + (b - a)

/-- Hop distance (R371). -/
def hops (d e : Nat) : Nat := absDiff (siteOf d).1 (siteOf e).1 + absDiff (siteOf d).2 (siteOf e).2

/-- Latency band of a pair (R376). -/
def bandOf (d e : Nat) : Nat :=
  let h := hops d e
  if h == 0 then 0 else if h ≤ 4 then 1 else if h ≤ 12 then 2 else if h ≤ 24 then 3 else if h ≤ 40 then 4 else 5

def bandBound (b : Nat) : Nat :=
  match b with
  | 0 => 40
  | 1 => 120
  | 2 => 250
  | 3 => 450
  | 4 => 700
  | _ => 1000

/-- Site of stack s: the M-die east of K-die s in even rows, west in odd rows (R369). -/
def stackSite (st : Nat) : Nat × Nat :=
  let (r, c) := siteOf st
  if r % 2 == 0 then (r, c + 1) else (r, c - 1)

/-- The K-die at a K-site. -/
def dieAt (r c : Nat) : Option Nat := if r < 32 && c < 32 && (r + c) % 2 == 0 then some (r * 16 + c / 2) else none

/-- K-die site neighbours of a stack in the order N, E, S, W (R385, R371). -/
def stackNeighbours (st : Nat) : List Nat :=
  let (r, c) := stackSite st
  ([if r == 0 then none else dieAt (r - 1) c, dieAt r (c + 1), dieAt (r + 1) c,
    if c == 0 then none else dieAt r (c - 1)]).filterMap id

/-- The first element with the least measure. -/
def argMin {α : Type} (m : α → Nat) : List α → Option α
  | [] => none
  | x :: xs =>
    match argMin m xs with
    | none => some x
    | some y => if m x ≤ m y then some x else some y

/-- The die with the home role of a stack (R293, R385): its owner, or its first live site neighbour, or the nearest live die. -/
def State.homeOf (s : State) (st : Nat) : Nat :=
  if !(s.die st).masked then st
  else
    match (stackNeighbours st).find? s.isLive with
    | some d => d
    | none => (argMin (hops st) s.liveDies).getD st

/-! ## Time and accounting (R377, R396) -/

/-- Nanoseconds since power-on: 1.8 ck each. -/
def nsOf (ck : Nat) : Nat := ck * 5 / 9

/-- A die's time counter (R377; free offsets, log 8). -/
def State.dieTime (s : State) (d : Nat) : Word64 :=
  Config.clockStart + BitVec.ofNat 64 (nsOf s.now) + BitVec.ofInt 64 (Config.regionOffset (regionOf d)) +
    BitVec.ofNat 64 (Config.dieSkew d).val

/-- The region-0 counter that stamps completion records and the log. -/
def State.time0 (s : State) : Word64 := Config.clockStart + BitVec.ofNat 64 (nsOf s.now)

/-- The sets of R396 by number; 64 is the unattributed set. Counters: 0 ck, 1 MAC, 2 read, 3 written, 4 received, 5 sent, 6 mJ, 7 launches. -/
def Module.account (m : Module) (dom : Nat) : Account := (m.accounts.find? (·.dom == dom)).getD ⟨dom, Vector.replicate 8 0⟩

def State.charge (s : State) (dom ctr amount : Nat) : State :=
  let d := if dom < 64 then dom else 64
  let a := s.module.account d
  let a' : Account := { a with counts := Vector.ofFn fun i => if i.val = ctr then a.counts[i] + BitVec.ofNat 64 amount else a.counts[i] }
  { s with module := { s.module with accounts := putFirst (·.dom == d) a' s.module.accounts } }

/-- The accounting domain of a queue pair: of the window it is bound to (R313, R382); 64 for none. -/
def State.qpDomain (s : State) (qp : Nat) : Nat :=
  ((s.windows.find? fun w => w.num != 0 && w.qp == qp && w.dom.isSome).bind (·.dom)).getD 64

/-- Packets that carry n bytes of a queue pair at its path MTU (R381). -/
def packets (qp n : Nat) : Nat := max 1 ((n + 1024 * 2 ^ (Config.pathMtu qp).val - 1) / (1024 * 2 ^ (Config.pathMtu qp).val))

/-- Frames that carry n bytes, with headers and FCS, in counter 4 or 5 of a domain (R396); how many bytes the headers take is free. -/
def State.frames (s : State) (dom ctr n count : Nat) : State := (s.charge dom ctr (n + count * (Config.freeCount s.nextId).toNat)).bumpId

/-- Frames received from or sent to a queue pair, charged to its domain. -/
def State.received (s : State) (qp n : Nat) : State := s.frames (s.qpDomain qp) 4 n (packets qp n)
def State.sends (s : State) (qp n : Nat) : State := s.frames (s.qpDomain qp) 5 n (packets qp n)

/-- The part posts an RDMA WRITE to the host (R323, R332). -/
def State.post (s : State) (qp key : Word) (addr : Word64) (bytes : List Byte) : State :=
  (s.sends qp.toNat bytes.length).send (.rdmaWrite qp key addr bytes)

/-! ## Event counters (R399, R400) -/

def selEnabled (sel : Word) (evt dom : Nat) : Bool :=
  sel.getLsbD 16 && sel.toNat % 256 == evt && (sel.toNat / 256 % 256 == 255 || sel.toNat / 256 % 256 == dom)

def bump (evt dom amount : Nat) (l : List Counter) : List Counter :=
  l.map fun c => if selEnabled c.sel evt dom then { c with count := c.count + BitVec.ofNat 64 amount } else c

/-- Some counter counts an event. -/
def countsEvent (evt : Nat) (cs : List Counter) : Bool := cs.any fun c => c.sel.getLsbD 16 && c.sel.toNat % 256 == evt

def State.coreEvent (s : State) (d c evt dom amount : Nat) : State :=
  if (s.core d c).counters.any (fun k => selEnabled k.sel evt dom) then
    s.modCore d c fun k => { k with counters := bump evt dom amount k.counters }
  else s

def State.dieEvent (s : State) (d evt dom amount : Nat) : State :=
  if (s.die d).counters.any (fun k => selEnabled k.sel evt dom) then
    s.modDie d fun k => { k with counters := bump evt dom amount k.counters }
  else s

/-- How much an event amounts to only timing decides (log 20). -/
def State.coreSome (s : State) (d c evt dom : Nat) : State := (s.coreEvent d c evt dom (Config.freeCount s.nextId).toNat).bumpId

/-- Bank passes of a copy or of the array, and how many are replays (R287). -/
def State.somePasses (s : State) (d c dom : Nat) : State := (s.coreSome d c 4 dom).coreSome d c 5 dom

def State.dieSome (s : State) (d evt dom : Nat) : State := (s.dieEvent d evt dom (Config.freeCount s.nextId).toNat).bumpId

/-- Flits leave a die on the virtual channels 0 to 5. -/
def State.flits (s : State) (d dom : Nat) : State :=
  if (s.die d).counters.isEmpty then s else (List.range 6).foldl (fun s i => s.dieSome d (7 + i) dom) s

/-! ## Bytes and words -/

def wordsOf (bs : List Byte) : List Word :=
  (List.range (bs.length / 4)).map fun i => BitVec.ofNat 32 (leAt bs (4 * i) 4)

def bytesOfWord (w : Word) : List Byte := leBytes 4 w.toNat

def bytesOfWords (ws : List Word) : List Byte := ws.flatMap bytesOfWord

/-- All of a list, or none. -/
def allSome {α : Type} : List (Option α) → Option (List α)
  | [] => some []
  | none :: _ => none
  | some x :: xs =>
    match allSome xs with
    | some ys => some (x :: ys)
    | none => none

end Sys2Proof.Machine
end

