-- ==== Sys2Proof/Machine/Memory.lean ====
section
/-! DEFINITION. Sys2Proof/Machine/Memory.lean: device memory at its homes with poison (R385), the directories (R294), what each die sees of HC
lines and the packets that carry writes (R265, R268, R296). -/

namespace Sys2Proof.Machine

/-! ## Physical addresses (R298) -/

def stackOf (pa : Nat) : Nat := pa / 2 ^ 36
def offsetOf (pa : Nat) : Nat := pa % 2 ^ 36

/-- Device memory exists there. -/
def paExists (pa : Nat) : Bool := pa < 2 ^ 45 && offsetOf pa < Config.stackBytes / 2097152 * 2097152

/-- n bytes there may be mapped. -/
def paMappable (pa n : Nat) : Bool := pa < 2 ^ 45 && offsetOf pa + n ≤ Config.stackMappable

def lineOf (pa : Nat) : Nat := pa / 128
def sectorOf (pa : Nat) : Nat := pa / 16

/-! ## The home -/

def Memory.byte (m : Memory) (pa : Nat) : Byte := cellRead m.mem pa
def Memory.bytes (m : Memory) (pa n : Nat) : List Byte := cellReads m.mem pa n
def Memory.nat (m : Memory) (pa n : Nat) : Nat := leNat (m.bytes pa n)

def covers (pa n a : Nat) : Bool := pa ≤ a && a < pa + n

def overlaps (pa n pb k : Nat) : Bool := pa < pb + k && pb < pa + n

/-- Sectors that n bytes at pa fill whole lose their poison (R385). Poison lists the bytes of a sector that no covering write has
replaced yet: a write may arrive in several pieces (R158), and the sector is poisoned until the last of them. -/
def clearPoison (p : List Nat) (pa n : Nat) : List Nat := p.filter fun b => !(pa ≤ 16 * sectorOf b && 16 * sectorOf b + 16 ≤ pa + n)

/-- A piece of a write that covers every sector it touches replaces n bytes at pa (R385). -/
def Memory.heal (m : Memory) (full : Bool) (pa n : Nat) : Memory :=
  if full then { m with poison := m.poison.filter fun b => !(covers pa n b) } else m

/-- The sector of a byte becomes poisoned. -/
def Memory.poisonSector (m : Memory) (sec : Nat) : Memory :=
  { m with poison := m.poison.filter (fun b => sectorOf b != sec) ++ (List.range 16).map (16 * sec + ·) }

/-- The home takes bytes. -/
def Memory.store (m : Memory) (pa : Nat) (bs : List Byte) : Memory :=
  { m with mem := cellWrites m.mem pa bs, poison := clearPoison m.poison pa bs.length }

def Memory.poisoned (m : Memory) (pa n : Nat) : Bool := m.poison.any fun b => overlaps (16 * sectorOf b) 16 pa n

/-- The number under which writes of agents outside the dies stand in the log. -/
def hostSource : Nat := 4096

/-- Drop the oldest logged writes that every die has applied. -/
def gcLog : List Packet → List Packet
  | [] => []
  | p :: ps =>
    match gcLog ps with
    | [] => if p.all then [] else [p]
    | q => p :: q

def Memory.gc (m : Memory) : Memory := { m with log := gcLog m.log }

/-! ## Directories (R294) -/

/-- The state of an HC line. -/
def Memory.dirAt (m : Memory) (line : Nat) : DirState := ((m.dir.find? (·.line == line)).map (·.state)).getD .i

/-- Change it; the entry used last stands first. -/
def Memory.setDir (m : Memory) (line : Nat) (st : DirState) : Memory :=
  let rest := m.dir.filter (·.line != line)
  { m with dir := match st with
      | .i => rest
      | _ => ⟨line, st⟩ :: rest }

/-- The holders name a die, or their coarse bits cover it. -/
def Holders.has (h : Holders) (d : Nat) : Bool :=
  match h with
  | .few ds => ds.contains d
  | .coarse v => v.getLsbD (d / 16)

def coarseBit (d : Nat) : BitVec 32 := 1 <<< (d / 16)

/-- One more holder: four pointers at most, then the coarse vector. -/
def Holders.add (h : Holders) (d : Nat) : Holders :=
  match h with
  | .few ds =>
    if ds.contains d then .few ds
    else if ds.length < 4 then .few (ds ++ [d])
    else .coarse (ds.foldl (fun v e => v ||| coarseBit e) (coarseBit d))
  | .coarse v => .coarse (v ||| coarseBit d)

/-- A holder less; a coarse bit stands for sixteen dies and stays. -/
def Holders.drop (h : Holders) (d : Nat) : Holders :=
  match h with
  | .few ds => .few (ds.filter (· != d))
  | .coarse v => .coarse v

/-- The state with these holders. -/
def Holders.state (h : Holders) : DirState :=
  match h with
  | .few [] => .i
  | _ => .s h

/-- The dies that an invalidation of a line goes to. -/
def DirState.names (st : DirState) (d : Nat) : Bool :=
  match st with
  | .i => false
  | .s h => h.has d
  | .o k => k == d

/-- A die joins the holders of a line that nobody owns, or leaves them. -/
def Memory.join (m : Memory) (line d : Nat) : Memory :=
  match m.dirAt line with
  | .s h => m.setDir line (h.add d).state
  | _ => m.setDir line (.s (.few [d]))

def Memory.leave (m : Memory) (line d : Nat) : Memory :=
  match m.dirAt line with
  | .s h => m.setDir line (h.drop d).state
  | .o k => if k == d then m.setDir line .i else m
  | .i => m

/-! ## What a die sees of an HC location -/

/-- Die d has applied a write, or the write is not for it. -/
def Packet.seenBy (p : Packet) (d : Nat) : Bool := p.src == d || p.all || p.applied.contains d || p.only.any (· != d)

/-- A write made at the home and seen by every die at once: the part's own writes, and those of the host (R282, R382). -/
def Memory.sysStore (m : Memory) (pa : Nat) (bs : List Byte) : Memory :=
  let p : Packet := ⟨0, hostSource, 0, pa, bs, false, [], some (m.bytes pa bs.length), [], true, none, false, 64, []⟩
  ({ m.store pa bs with log := p :: m.log }).gc

/-- Step back over the home's writes, newest first, that the die has not applied. -/
def stepBack (d pa : Nat) : List Packet → Byte → Byte
  | [], cur => cur
  | p :: ps, cur =>
    if covers p.pa p.bytes.length pa then
      (if p.seenBy d then cur else stepBack d pa ps ((p.old.getD []).getD (pa - p.pa) 0))
    else stepBack d pa ps cur

/-- The die's own newest write to a byte that is still on its way. -/
def Memory.ownSent (m : Memory) (d pa : Nat) : Option Byte :=
  ((m.sent.reverse).find? (fun p => p.src == d && covers p.pa p.bytes.length pa)).map fun p => p.bytes.getD (pa - p.pa) 0

/-- The byte that an agent of die d reads of an HC line: its own write still on its way, else the newest write the die has applied (R264,
R265). -/
def Memory.view (m : Memory) (d pa : Nat) : Byte := (m.ownSent d pa).getD (stepBack d pa m.log (m.byte pa))

def Memory.views (m : Memory) (d pa : Nat) : Nat → List Byte
  | 0 => []
  | n + 1 => m.view d pa :: m.views d (pa + 1) n

/-- The byte that the home of an SC line gives die d, whose own writes go before (R264). -/
def Memory.viewSC (m : Memory) (d pa : Nat) : Byte := (m.ownSent d pa).getD (m.byte pa)

def Memory.viewsSC (m : Memory) (d pa : Nat) : Nat → List Byte
  | 0 => []
  | n + 1 => m.viewSC d pa :: m.viewsSC d (pa + 1) n

/-! ## Packets (R265, R268, R296) -/

/-- The writes of src that die d has applied: all below the first it has not. -/
def Memory.vecOf (m : Memory) (d src last : Nat) : Nat :=
  ((m.sent ++ m.log).filter (fun p => p.src == src && !(p.seenBy d))).foldl (fun n p => min n (p.seq - 1)) last

/-- The part of a sender's vector that a packet carries (R296): senders with writes still on their way. Nobody waits for a masked die
(R384). -/
def State.depsOf (s : State) (d : Nat) : List (Nat × Nat) :=
  (((s.memory.sent ++ s.memory.log).map (·.src)).eraseDups.filter (fun k => k != d && k < Config.dies && !(s.die k).masked)).map fun k =>
    (k, s.memory.vecOf d k (s.die k).sent)

/-- q must be applied before p wherever p is (R296). -/
def before (q p : Packet) : Bool :=
  (q.src == p.src && q.seq < p.seq) || p.deps.any fun kc => kc.1 == q.src && q.seq ≤ kc.2

def Packet.same (p q : Packet) : Bool := p.src == q.src && p.seq == q.seq && p.id == q.id

/-- Die d may apply p now. -/
def Memory.applicable (m : Memory) (d : Nat) (p : Packet) : Bool :=
  (m.sent ++ m.log).all fun q => q.same p || q.seenBy d || !(before q p)

/-- A packet takes its place in the home order, at the home or at the owner to whom the order is delegated (R294): die applied. told: the dies
that its invalidation goes to. -/
def Memory.applyHome (m : Memory) (die : Nat) (told : List Nat) (p : Packet) : Memory :=
  let p' := { p with old := some (m.bytes p.pa p.bytes.length), applied := die :: p.applied, told := told }
  { (m.store p.pa p.bytes).heal p.full p.pa p.bytes.length with sent := m.sent.filter (fun q => !(q.same p)), log := p' :: m.log }

/-- The home of an SC or CP line applies a packet (R292). -/
def Memory.applyOnly (m : Memory) (p : Packet) : Memory :=
  { (m.store p.pa p.bytes).heal p.full p.pa p.bytes.length with sent := m.sent.filter (fun q => !(q.same p)) }

/-- Die d has applied p. -/
def Memory.markApplied (m : Memory) (d : Nat) (p : Packet) : Memory :=
  ({ m with log := m.log.map fun q => if q.same p then { q with applied := d :: q.applied } else q } : Memory)

/-- Every die has. -/
def Memory.markAll (m : Memory) (id : Nat) : Memory :=
  ({ m with log := m.log.map fun q => if q.id == id then { q with all := true } else q } : Memory).gc

/-- A new packet of die d, its place in the sender's sequence taken. -/
def State.packet (s : State) (d pa : Nat) (bs : List Byte) (full : Bool) (dom : Nat) : Packet :=
  ⟨s.nextId, d, (s.die d).sent + 1, pa, bs, full, s.depsOf d, none, [], false, none, false, dom, []⟩

/-- The packet has left its sender, charged to a domain. -/
def State.sentOne (s : State) (d dom : Nat) : State := ((s.modDie d fun k => { k with sent := k.sent + 1 }).flits d dom).bumpId

end Sys2Proof.Machine
end

