-- ==== Sys2Proof/Machine/Cache.lean ====
section
/-! DEFINITION. Sys2Proof/Machine/Cache.lean: the die caches (R164, R165, R290 to R295), ownership of HC lines (R292, R294), and one unit of an
access at a die (R171, R173, R264 to R268, R276, R296, R385, R386). -/

namespace Sys2Proof.Machine

/-! ## Lines (R290 to R292) -/

/-- L2 slice and set of a physical address (R290). -/
def l2Slice (pa : Nat) : Nat :=
  let x := (pa / 2 ^ 7 % 2 ^ 16) ^^^ (pa / 2 ^ 23 % 2 ^ 16) ^^^ (pa / 2 ^ 39 % 2 ^ 9)
  x * 96 / 2 ^ 16

def l2Set (pa : Nat) : Nat := (pa / 2 ^ 7 % 2 ^ 10) ^^^ (pa / 2 ^ 17 % 2 ^ 10)

def sameSet (rlc : Bool) (l1 l2 : Nat) : Bool :=
  if rlc then Config.rlcSet l1 == Config.rlcSet l2
  else l2Slice (128 * l1) == l2Slice (128 * l2) && l2Set (128 * l1) == l2Set (128 * l2)

def DieSt.line? (d : DieSt) (rlc : Bool) (line : Nat) : Option CacheLine := d.lines.find? fun l => l.rlc == rlc && l.line == line

/-- L2 first, then the remote-line cache. -/
def DieSt.cached? (d : DieSt) (line : Nat) : Option CacheLine := (d.line? false line).or (d.line? true line)

def State.cached? (s : State) (d line : Nat) : Option CacheLine := (s.die d).cached? line

def dropLine (rlc : Bool) (line : Nat) (ls : List CacheLine) : List CacheLine :=
  ls.filter fun l => !(l.rlc == rlc && l.line == line)

/-- Drop a line from both caches of a die. -/
def State.dropCopies (s : State) (d line : Nat) : State := s.modDie d fun k => { k with lines := k.lines.filter (·.line != line) }

def putLine (l : CacheLine) (ls : List CacheLine) : List CacheLine :=
  ls.map fun q => if q.rlc == l.rlc && q.line == l.line then l else q

/-- The dirty bytes of a line as runs (offset, bytes), in ascending order. -/
def dirtyRuns (dirty : BitVec 128) (data : List Byte) : List (Nat × List Byte) :=
  (List.range 128).foldr (fun i acc =>
    if dirty.getLsbD i then
      match acc with
      | (o, bs) :: rest => if o == i + 1 then (i, data.getD i 0 :: bs) :: rest else (i, [data.getD i 0]) :: acc
      | [] => [(i, [data.getD i 0])]
    else acc) []

def dirtyCount (dirty : BitVec 128) : Nat := (List.range 128).countP dirty.getLsbD

/-- Bytes overwritten from an offset. -/
def overlay (data : List Byte) (off : Nat) (bs : List Byte) : List Byte := data.take off ++ bs ++ data.drop (off + bs.length)

def dirtyMask (off n : Nat) : BitVec 128 := ((1 <<< n) - 1) <<< off

/-- Bytes written into a cached line, dirty or not. -/
def CacheLine.write (l : CacheLine) (off : Nat) (bs : List Byte) (full dirty : Bool) (dom : Nat) : CacheLine :=
  let msk := dirtyMask off bs.length
  let sectors := (List.range 8).foldl (fun v i =>
    if off ≤ 16 * i && 16 * i + 16 ≤ off + bs.length then v ||| dirtyMask (16 * i) 16 else v) 0
  let pois := l.poison &&& ~~~(if full then msk else sectors)
  { l with data := overlay l.data off bs, dirty := if dirty then l.dirty ||| msk else l.dirty &&& ~~~msk, dom := dom, poison := pois }

/-- A unit's bytes never cross a line: it is aligned, or one byte. -/
def inLine (pa : Nat) : Nat := pa % 128

def linePoisoned (l : CacheLine) (off n : Nat) : Bool :=
  (List.range 8).any fun i => (l.poison &&& dirtyMask (16 * i) 16) != 0 && overlaps (16 * i) 16 off n

/-! ## To the home and back (R292, R294) -/

/-- Die d sends bytes of an SC or CP line to their home, which is at hand or takes them from a packet (R292, R296). -/
def State.toHome (s : State) (d dom pa : Nat) (bs : List Byte) (full : Bool) : State :=
  let home := s.homeOf (stackOf pa)
  if home == d then { s with memory := (s.memory.store pa bs).heal full pa bs.length }.charge dom 3 bs.length
  else
    let p := { s.packet d pa bs full dom with only := some home }
    let s1 := s.sentOne d dom
    { s1 with memory := { s1.memory with sent := s1.memory.sent ++ [p] } }

/-- Dirty bytes of a line reach its home (R292), which charges the domain that wrote them (R396). Those of an HC line stand in the home order
already. -/
def State.writeBack (s : State) (d : Nat) (l : CacheLine) : State :=
  if l.sc then (dirtyRuns l.dirty l.data).foldl (fun s r => s.toHome d l.dom (128 * l.line + r.1) r.2 false) s
  else if l.dirty == 0 then s
  else s.charge l.dom 3 (dirtyCount l.dirty)

/-- A directory entry changes, which set 64 is charged with (R294, R396; log 66). -/
def State.withDir (s : State) (m : Memory) : State := { s with memory := m }.charge 64 3 Config.dirBytes

/-- Ownership of an HC line returns to the home, dirty bytes with it; the owner keeps a clean copy. -/
def State.returnOwner (s : State) (line : Nat) : State :=
  match s.memory.dirAt line with
  | .o d =>
    let mine (l : CacheLine) : Bool := !l.sc && l.line == line
    let s1 := ((s.die d).lines.filter mine).foldl (fun s l => s.writeBack d l) s
    let s2 := s1.modDie d fun k => { k with lines := k.lines.map fun l => if mine l then { l with dirty := 0 } else l }
    s2.withDir (s2.memory.setDir line (.s (.few [d])))
  | _ => s

/-- The HC copies of a line on a die are invalidated (die event 4). -/
def DieSt.invalidate (line : Nat) (k : DieSt) : DieSt :=
  { k with lines := k.lines.filter (fun l => l.sc || l.line != line), counters := bump 4 64 1 k.counters }

/-- Every copy that a directory entry tracks is recalled (R294). -/
def State.recall (s : State) (line : Nat) : State :=
  match s.memory.dirAt line with
  | .i => s
  | _ =>
    let s1 := s.returnOwner line
    let st := s1.memory.dirAt line
    { s1 with dies := s1.dies.map fun (k : DieSt) => if st.names k.num then k.invalidate line else k }.withDir (s1.memory.setDir line .i)

/-- The lines that n bytes at pa touch. -/
def linesOf (pa n : Nat) : List Nat := (List.range (lineOf (pa + n + 127) - lineOf pa)).map (lineOf pa + ·)

/-- The part's own writes, and those of the host: made at the home, seen by every die at once (R282, R382). -/
def State.sysStore (s : State) (pa : Nat) (bs : List Byte) : State :=
  let s1 := (linesOf pa bs.length).foldl State.recall s
  { s1 with memory := s1.memory.sysStore pa bs }

/-- A die joins the holders of an HC line. A directory has 2 097 152 entries; when it is full the one used longest ago is recalled (R294). -/
def State.joinDir (s : State) (d line : Nat) : State :=
  let mine := s.memory.dir.filter fun e => stackOf (128 * e.line) == stackOf (128 * line)
  let s1 := if s.memory.dirAt line != .i || mine.length < Config.dirEntries then s else
    match mine.getLast? with
    | some e => s.recall e.line
    | none => s
  s1.withDir (s1.memory.join line d)

/-- The directory forgets a die that holds an HC line no more. -/
def State.leaveDir (s : State) (d line : Nat) : State :=
  if (s.cached? d line).isSome || !(s.memory.dirAt line).names d then s else s.withDir (s.memory.leave line d)

/-- What a line's leaving a cache asks first: dirty bytes, or ownership, return. -/
def State.settleCopy (s : State) (d : Nat) (l : CacheLine) : State :=
  if l.sc then s.writeBack d l
  else if s.memory.dirAt l.line == .o d then s.returnOwner l.line
  else s

/-- A die gives up its copies of a line: dirty bytes and ownership first. -/
def State.giveUp (s : State) (d line : Nat) : State :=
  match s.cached? d line with
  | none => s
  | some l => ((s.settleCopy d l).dropCopies d line).leaveDir d line

/-! ## Allocation (R165, R291, R295) -/

/-- The line in a full set that leaves first: least recently used among the lowest priority (R291). -/
def victim (ls : List CacheLine) : Option CacheLine := argMin (fun l => l.prio * 2 ^ 64 + l.stamp) ls

/-- Other lines in the set of a line. -/
def DieSt.peers (k : DieSt) (rlc : Bool) (line : Nat) : List CacheLine :=
  k.lines.filter fun q => q.rlc == rlc && q.line != line && sameSet rlc q.line line

/-- A line leaves the remote-line cache. -/
def State.evictRlc (s : State) (d : Nat) (l : CacheLine) : State :=
  ((s.settleCopy d l).modDie d fun k => { k with lines := dropLine true l.line k.lines }).leaveDir d l.line

/-- Place a line in the remote-line cache, 8 ways (R295): the stack takes the line and its tag. -/
def State.placeRlc (s : State) (d : Nat) (l : CacheLine) : State :=
  let peers := (s.die d).peers true l.line
  let s := if peers.length < 8 then s else
    match argMin (·.stamp) peers with
    | some v => s.evictRlc d v
    | none => s
  (s.modDie d fun k => { k with lines := { l with rlc := true } :: dropLine false l.line (dropLine true l.line k.lines) }).charge l.dom 3
    (128 + Config.tagBytes)

/-- A line leaves L2: dirty bytes go home; a remote line whose page has CL = 2 moves to the remote-line cache (R292, R295). -/
def State.evictL2 (s : State) (d : Nat) (l : CacheLine) : State :=
  let s := (s.settleCopy d l).modDie d fun k => { k with lines := dropLine false l.line k.lines }
  (if l.toRlc && s.homeOf (stackOf (128 * l.line)) != d then s.placeRlc d { l with dirty := 0 } else s).leaveDir d l.line

/-- Priority 3 in at most 12 ways of a set (R291). -/
def DieSt.capPrio (k : DieSt) (line prio : Nat) : Nat :=
  if prio == 3 && 12 ≤ ((k.peers false line).filter (·.prio == 3)).length then 2 else prio

/-- Place a line in L2, 16 ways (R290, R291). -/
def State.placeL2 (s : State) (d : Nat) (l : CacheLine) : State :=
  let peers := (s.die d).peers false l.line
  let l := { l with prio := (s.die d).capPrio l.line l.prio }
  let s := if peers.length < 16 then s else
    match victim peers with
    | some v => s.evictL2 d v
    | none => s
  s.modDie d fun k => { k with lines := { l with rlc := false } :: dropLine false l.line k.lines }

/-- How one access allocates (R165, R301): nothing, L2 with a priority, or the remote-line cache. -/
inductive Alloc where
  | no
  | l2 (prio : Nat) (toRlc : Bool)
  | rlc
deriving DecidableEq, Repr

/-- On a page with CL = 1 a POL of .evf or .evl, and .rlc on a line of the die's own stack, still allocates in L2 (log 83). -/
def allocOf (remote : Bool) (page : Page) (pol : Nat) (nt : Bool) : Alloc :=
  if nt then .l2 0 false
  else
    match pol with
    | 0 => if page.cl == 1 then .no else .l2 page.evp (page.cl == 2)
    | 1 => .l2 page.evp (page.cl == 2)
    | 2 => .no
    | 3 => if remote then .rlc else .l2 page.evp false
    | 4 => .l2 0 (page.cl == 2)
    | _ => .l2 3 (page.cl == 2)

/-- Poison of the bytes of a line at its home. -/
def Memory.linePoison (m : Memory) (line : Nat) : BitVec 128 :=
  m.poison.foldl (fun v b => if lineOf b == line then v ||| ((1 : BitVec 128) <<< (b % 128)) else v) 0

/-- The line as its home gives it to a die; an HC line keeps no data of its own. -/
def State.fetchLine (s : State) (d : Nat) (sc : Bool) (line dom : Nat) : CacheLine :=
  ⟨false, line, 0, s.nextId, sc, false, 0, if sc then s.memory.viewsSC d (128 * line) 128 else [],
   if sc then s.memory.linePoison line else 0, dom⟩

/-- A hit renews the line, and an explicit POL gives it the access's priority (R291); .rlc moves a remote line to the remote-line cache
(R295). -/
def State.hit (s : State) (d dom : Nat) (page : Page) (pol : Nat) (nt : Bool) (l : CacheLine) : State × CacheLine × Bool :=
  let remote := s.homeOf (stackOf (128 * l.line)) != d
  let want := if pol == 0 then l.prio else if pol == 4 then 0 else if pol == 5 then 3 else page.evp
  let l' := { l with
    stamp := s.nextId
    prio := if l.prio == 3 then want else (s.die d).capPrio l.line want
    toRlc := l.toRlc || (!nt && page.cl == 2) }
  let s1 := if l.rlc then ((s.dieEvent d 1 dom 1).dieEvent d 2 dom 1).charge dom 2 (128 + Config.tagBytes) else s.dieEvent d 0 dom 1
  let s2 := s1.modDie d fun k => { k with lines := putLine l' k.lines }
  if pol == 3 && remote && !l.rlc then ((s2.placeRlc d l').bumpId, { l' with rlc := true }, true) else (s2.bumpId, l', true)

/-- A miss reads the home, to whom an owner returns an HC line first, and allocates (R164, R165, R294). -/
def State.miss (s : State) (d dom : Nat) (page : Page) (pol : Nat) (nt : Bool) (line : Nat) : State × CacheLine × Bool :=
  let remote := s.homeOf (stackOf (128 * line)) != d
  let s := if page.cc == 0 then s.returnOwner line else s
  let l := s.fetchLine d (page.cc != 0) line dom
  let s := (s.dieEvent d 1 dom 1).charge dom 2 128
  let s := (if remote then ((s.charge dom 2 Config.tagBytes).dieEvent d 3 dom 1 |>.flits d dom).flits (s.homeOf (stackOf (128 * line))) dom else s).bumpId
  let join (s : State) : State := if page.cc == 0 then s.joinDir d line else s
  match allocOf remote page pol nt with
  | .no => (s, l, false)
  | .l2 p t => let l' := { l with prio := p, toRlc := t }; (join (s.placeL2 d l'), l', true)
  | .rlc => let l' := { l with rlc := true }; (join (s.placeRlc d l'), l', true)

/-- The line as the die has it after an access that may allocate, and whether it is held. -/
def State.touch (s : State) (d dom : Nat) (page : Page) (pol : Nat) (nt : Bool) (pa : Nat) : State × CacheLine × Bool :=
  match s.cached? d (lineOf pa) with
  | some l => s.hit d dom page pol nt l
  | none => s.miss d dom page pol nt (lineOf pa)

/-- A write to a line of the remote-line cache is a write of the stack that holds it (R295, R396). -/
def State.rlcWrite (s : State) (l : CacheLine) (dom n : Nat) : State := if l.rlc then s.charge dom 3 n else s

/-! ## The home order (R265, R294, R296) -/

/-- A packet is applied in the home order, by its home or by the owner to whom the order is delegated: another owner returns the line first;
the sender becomes the owner of a line that it may write back later, and otherwise holds it at most; invalidations go to the others. -/
def State.homeApply (s : State) (die : Nat) (p : Packet) : State :=
  if p.only.isSome then { s with memory := s.memory.applyOnly p }.charge p.dom 3 p.bytes.length
  else
    let line := lineOf p.pa
    let s1 := if s.memory.dirAt line == .o p.src then s else s.returnOwner line
    let told := (s1.dies.map (·.num)).filter fun d => d != p.src && (s1.memory.dirAt line).names d
    let s2 := { s1 with memory := s1.memory.applyHome die told p }
    match s2.cached? p.src line with
    | some l =>
      if p.own then
        let l' := { l with dirty := l.dirty ||| dirtyMask (inLine p.pa) p.bytes.length, dom := p.dom }
        let s3 := s2.modDie p.src fun k => { k with lines := putLine l' k.lines }
        (s3.rlcWrite l p.dom p.bytes.length).withDir (s3.memory.setDir line (.o p.src))
      else
        let s3 := (s2.returnOwner line).charge p.dom 3 p.bytes.length
        s3.withDir (s3.memory.setDir line (.s (.few [p.src])))
    | none => (if s2.memory.dirAt line == .i then s2 else s2.withDir (s2.memory.setDir line .i)).charge p.dom 3 p.bytes.length

/-- A die applies a packet of the home order: its copy of the line goes, unless the order has made it the owner since. -/
def State.dieApply (s : State) (d : Nat) (p : Packet) : State :=
  let line := lineOf p.pa
  let s1 := { s with memory := s.memory.markApplied d p }
  let held := (s.die d).lines.any fun l => !l.sc && l.line == line
  if s.memory.dirAt line == .o d || !(held || p.told.contains d) then s1
  else (s1.modDie d (DieSt.invalidate line)).withDir (s1.memory.leave line d)

/-- Send a write to an HC line: the home at hand, or the owner, has it in the home order at once (R265, R294). -/
def State.sendHC (s : State) (p : Packet) : State × Option Nat :=
  let line := lineOf p.pa
  let s1 := s.sentOne p.src p.dom
  let owner := s.memory.dirAt line == .o p.src && !(s.memory.sent.any fun q => q.src == p.src && lineOf q.pa == line)
  if s.homeOf (stackOf p.pa) == p.src || owner then (s1.homeApply p.src p, some p.id)
  else ({ s1 with memory := { s1.memory with sent := s1.memory.sent ++ [p] } }, some p.id)

/-- Every die obtains the write p or a later one: it is performed at .pnl (R174). Needs what precedes it to have got there. -/
def State.performPanel (s : State) (home id : Nat) : Option State :=
  let all := s.memory.sent ++ s.memory.log
  match all.find? (·.id == id) with
  | none => some s
  | some p =>
    if all.all (fun (q : Packet) => q.id == id || q.all || !(before q p)) then
      let s1 := if p.old.isNone then s.homeApply home p else s
      let late := (s1.memory.log.find? (·.id == id)).toList.flatMap fun q => ((s1.dies.map (·.num)).filter fun d => !(q.seenBy d)).map fun d => (d, q)
      let s2 := late.foldl (fun s x => s.dieApply x.1 x.2) s1
      some { s2 with memory := s2.memory.markAll id }
    else none

/-- Die d applies, with all that precedes them, the writes of the home order to n bytes at pa; none while it cannot (R268, R296). -/
def State.catchUp (s : State) (d pa n : Nat) : Option State :=
  (s.memory.log.reverse.filter fun q => overlaps q.pa q.bytes.length pa n && !(q.seenBy d)).foldl
    (fun o q => o.bind fun s => if s.memory.applicable d q then some (s.dieApply d q) else none) (some s)

/-! ## One unit of an access at a die (R164, R165, R171, R385) -/

/-- The copy of a publish-pair page that ordinary accesses reach (R310). -/
def State.visible (s : State) (d : Nat) (page : Page) (pa : Nat) : Nat :=
  match page.pp with
  | some e => if (tableGet e (s.die d).flips).getD false then pa + page.size else pa
  | none => pa

/-- The die is between the close and the flip of the page's buffer; the E-dies, which no close reaches, between the AND and the last flip
(R311). -/
def State.flipClosed (s : State) (d : Nat) (page : Page) : Bool :=
  match page.pp with
  | some e => (s.die d).closed.contains e || (Config.dies ≤ d && s.flips.any fun f => f.entry == e && f.stage == 2)
  | none => false

/-- Another die that is being withdrawn holds the line dirty, or is writing it back: the access waits at the home (R386). -/
def State.leaving (s : State) (d pa : Nat) : Bool :=
  s.dies.any fun k => k.num != d && k.withdrawal.isSome &&
    ((k.lines.any fun l => l.line == lineOf pa && l.dirty != 0) ||
     s.memory.sent.any fun p => p.src == k.num && p.only.isSome && lineOf p.pa == lineOf pa)

/-- The scope that decides where an access is served (R164): on HC and CP pages it has no say. -/
def servedAt (page : Page) (scope : Nat) : Nat := if page.cc == 1 then scope else 0

/-- Before a die reads a range of an SC line at the home, its own copy must not stand for another value there (R264; log 65). -/
def State.refresh (s : State) (d pa n : Nat) : State :=
  match s.cached? d (lineOf pa) with
  | none => s
  | some l =>
    if (l.dirty &&& dirtyMask (inLine pa) n) != 0 || bytesAt l.data (inLine pa) n != s.memory.viewsSC d pa n then s.giveUp d (lineOf pa) else s

/-- Read n bytes at a die: the bytes, whether a sector of them is poisoned, and the caches afterwards; none while it waits at the home. -/
def State.readAt (s : State) (d dom : Nat) (page : Page) (scope pol : Nat) (nt : Bool) (pa n : Nat) : Option (List Byte × Bool × State) :=
  let far := 4 ≤ servedAt page scope
  if (far || (s.cached? d (lineOf pa)).isNone) && s.leaving d pa then none
  else if far then
    let s1 := s.refresh d pa n
    some (s1.memory.viewsSC d pa n, s1.memory.poisoned pa n, s1.charge dom 2 n)
  else
    let r := s.touch d dom page pol nt pa
    if page.cc == 0 then some (r.1.memory.views d pa n, r.1.memory.poisoned pa n, r.1)
    else some (bytesAt r.2.1.data (inLine pa) n, linePoisoned r.2.1 (inLine pa) n, r.1)

/-- A store to an SC or CP line at a die (R164, R165, R292). -/
def State.writeSC (s : State) (d dom : Nat) (page : Page) (scope pol : Nat) (nt : Bool) (pa : Nat) (bs : List Byte) (full : Bool) : State :=
  if nt || page.wp == 2 then (s.giveUp d (lineOf pa)).toHome d dom pa bs full
  else
    let r := s.touch d dom page pol nt pa
    let through := 4 ≤ servedAt page scope || page.wp == 1
    if r.2.2 then
      let s1 := (r.1.rlcWrite r.2.1 dom bs.length).modDie d fun k =>
        { k with lines := putLine (r.2.1.write (inLine pa) bs full (!through) dom) k.lines }
      if through then s1.toHome d dom pa bs full else s1
    else r.1.toHome d dom pa bs full

/-- A store to an HC line at a die, with the packet that carries it (R265, R292). -/
def State.writeHC (s : State) (d dom : Nat) (page : Page) (pol : Nat) (nt : Bool) (pa : Nat) (bs : List Byte) (full : Bool) : State × Option Nat :=
  if nt || page.wp == 2 then
    let s1 := s.giveUp d (lineOf pa)
    s1.sendHC (s1.packet d pa bs full dom)
  else
    let r := s.touch d dom page pol nt pa
    r.1.sendHC { r.1.packet d pa bs full dom with own := page.wp == 0 && r.2.2 }

/-- Perform a store at the die; for an HC line also the packet that carries it. -/
def State.writeAt (s : State) (d dom : Nat) (page : Page) (scope pol : Nat) (nt : Bool) (pa : Nat) (bs : List Byte) (full : Bool) :
    State × Option Nat :=
  if page.cc == 0 then s.writeHC d dom page pol nt pa bs full else (s.writeSC d dom page scope pol nt pa bs full, none)

/-- What the die has sent towards a line is still on its way. -/
def Memory.ownOnWay (m : Memory) (d line : Nat) : Bool := m.sent.any fun q => q.src == d && lineOf q.pa == line

/-- A read-modify-write at the home of a line (R171, R173, R276): the die's own copy goes, what it sent before is there (R296), and of an HC
line it has applied what the home has (R268). Answers the old bytes, none for a poisoned sector, with the packet of an HC line; nothing while it
waits. -/
def State.atHome (s : State) (d dom : Nat) (hc : Bool) (pa n : Nat) (f : List Byte → List Byte) :
    Option (Option (List Byte) × State × Option Nat) :=
  let home := s.homeOf (stackOf pa)
  match if hc then s.catchUp d pa n else some s with
  | none => none
  | some s0 =>
    let ask := { s0.packet d pa [] false dom with only := if hc then none else some home }
    if s0.leaving d pa || s0.memory.ownOnWay d (lineOf pa) || (home != d && !(s0.memory.applicable home ask)) then none
    else if s0.memory.poisoned pa n then some (none, s0, none)
    else
      let old := s0.memory.bytes pa n
      let p := { ask with bytes := f old }
      let s1 := ((if hc || home != d then s0.sentOne d dom else s0).homeApply home p).charge dom 2 n
      some (some old, s1, if hc then some p.id else none)

/-- An atomic in the die's caches (R171): whatever the page's WP, of which R292 speaks for stores alone, the new bytes stay dirty in a line held
(log 84). -/
def State.atCaches (s : State) (d dom : Nat) (page : Page) (pol pa n : Nat) (f : List Byte → List Byte) :
    Option (Option (List Byte) × State × Option Nat) :=
  if (s.cached? d (lineOf pa)).isNone && s.leaving d pa then none
  else
    let r := s.touch d dom page pol false pa
    if linePoisoned r.2.1 (inLine pa) n then some (none, r.1, none)
    else
      let old := bytesAt r.2.1.data (inLine pa) n
      if r.2.2 then
        some (some old, (r.1.rlcWrite r.2.1 dom n).modDie d (fun k => { k with lines := putLine (r.2.1.write (inLine pa) (f old) false true dom) k.lines }), none)
      else some (some old, r.1.toHome d dom pa (f old) false, none)

/-- An atomic is made at the line's home, or in the die's caches (R171). -/
def State.atomicAt (s : State) (d dom : Nat) (page : Page) (scope pol pa n : Nat) (f : List Byte → List Byte) :
    Option (Option (List Byte) × State × Option Nat) :=
  if page.cc == 0 || 4 ≤ servedAt page scope then s.atHome d dom (page.cc == 0) pa n f else s.atCaches d dom page pol pa n f

end Sys2Proof.Machine
end

