-- ==== Sys2Proof/Machine/Translate.lean ====
section
/-! DEFINITION. Sys2Proof/Machine/Translate.lean: translation and first touch (R297 to R306), the part's own reads and writes at virtual
addresses, and scratch (R156, R286). -/

namespace Sys2Proof.Machine

/-! ## Translation -/

/-- A canonical virtual address (R297). -/
def canonical (va : Nat) : Bool := va / 2 ^ 56 == 0 || va / 2 ^ 56 == 255

def levelShift (l : Nat) : Nat := if l == 4 then 16 else 48 - 9 * l

/-- Index of a level (R299): bits 56:48, 47:39, 38:30, 29:21, 20:16. -/
def levelIndex (l va : Nat) : Nat := if l == 4 then va / 2 ^ 16 % 32 else va / 2 ^ levelShift l % 512

def pageSize (l : Nat) : Nat := if l == 2 then 2 ^ 30 else if l == 3 then 2 ^ 21 else 2 ^ 16

/-- Bits hi to lo of an entry. -/
def field (e hi lo : Nat) : Nat := e / 2 ^ lo % 2 ^ (hi + 1 - lo)

/-- The leaf is DP = 1 and HOMED = 0. -/
def unhomed (e : Nat) : Bool := field e 13 13 == 1 && field e 14 14 == 0

/-- Walk results 0 to 3 of R302 with the entries read, or the leaf with its level and address; its entry is legal but its page may have no
home yet. -/
inductive Walk where
  | fault (result : Nat) (read : Nat)
  | leaf (level at_ entry : Nat)
deriving DecidableEq, Repr

/-- The checks of R301 and R302 on a leaf. -/
def State.leafOk (s : State) (dom l e : Nat) : Bool :=
  let pp := field e 15 15 == 1
  let cc := field e 6 5
  let xtag := field e 63 52
  let size := pageSize l * (if pp then 2 else 1)
  let pa := field e 47 16 * 2 ^ 16
  field e 10 9 != 3 && field e 8 7 != 3 && cc != 3 && !(pp && cc == 2) &&
  (if cc == 2 then xtag ≤ 2207 || xtag == 0xFFF
   else if pp then tableGet xtag s.flipOwner == some dom
   else xtag == 0) &&
  (unhomed e || (pa % size == 0 && paMappable pa size))

/-- The walk from a table (R299 to R302). -/
def State.walkFrom (s : State) (dom va : Nat) : Nat → Nat → Nat → Walk
  | 0, l, _ => .fault 2 l
  | fuel + 1, l, table =>
    let at_ := table + 8 * levelIndex l va
    let e := s.memory.nat at_ 8
    if e % 2 == 0 then .fault 0 (l + 1)
    else if field e 1 1 == 1 then (if l < 2 || !(s.leafOk dom l e) then .fault 2 (l + 1) else .leaf l at_ e)
    else if l == 4 || field e 63 48 != 0 || field e 7 2 != 0 then .fault 2 (l + 1)
    else
      let next := field e 47 8 * 256
      if (l != 3 && field e 11 8 != 0) || !(paExists next) then .fault 2 (l + 1) else s.walkFrom dom va fuel (l + 1) next

def State.walk (s : State) (dom va : Nat) : Walk :=
  if !(canonical va) then .fault 1 0
  else
    match (s.domain dom).root with
    | none => .fault 0 0
    | some r => s.walkFrom dom (va % 2 ^ 57) 5 0 r

/-- Page-table entries that a walk reads. -/
def Walk.entries : Walk → Nat
  | .fault _ n => n
  | .leaf l _ _ => l + 1

/-- A walk's reads are charged to the domain it is made for (R396), 8 B an entry (log 66). -/
def State.chargeWalk (s : State) (dom va : Nat) : State := s.charge dom 2 (8 * (s.walk dom va).entries)


def pageOfLeaf (l at_ e : Nat) : Page :=
  { pa := field e 47 16 * 2 ^ 16, size := pageSize l, cc := field e 6 5, cl := field e 8 7, wp := field e 10 9, evp := field e 51 50,
    pp := if field e 15 15 == 1 then some (field e 63 52) else none, xtag := field e 63 52, r := field e 2 2 == 1, w := field e 3 3 == 1,
    fx := field e 4 4 == 1, qz := field e 48 48 == 1, leafAt := at_ }

/-- Page size code of a ring (R325): 0 64 KiB, 1 2 MiB, 2 1 GiB. -/
def sizeCode (l : Nat) : Nat := 4 - l

/-- Take a page from a ring that is not empty (R305): 8 bytes read, and the head written. -/
def State.takeFrom (s : State) (dom ring : Nat) : Option (Nat × State) :=
  let cap := s.memory.nat ring 4
  let head := s.memory.nat (ring + 4) 4
  let tail := s.memory.nat (ring + 8) 4
  if head == tail || cap == 0 then none
  else some (s.memory.nat (ring + 0x40 + 8 * (head % cap)) 8, ((s.charge dom 2 8).charge dom 3 4).sysStore (ring + 4) (leBytes 4 (head + 1)))

/-- Hops between two sites (R371). -/
def siteHops (a b : Nat × Nat) : Nat := absDiff a.1 b.1 + absDiff a.2 b.2

/-- The order in which a die asks the stacks' rings: its own, then by site hops and number (R305). -/
def ringRank (d stack : Nat) : Nat := if stack == d then 0 else 1024 * (1 + siteHops (siteOf d) (stackSite stack)) + stack

/-- A free page of a size for a touching die: its reserve, or the first that a ring in order gives (R305), 12 bytes being read of each ring that
it asks (R396; log 66). -/
def State.freePage (s : State) (d dom code : Nat) : State × Option Nat :=
  match tableGet code (s.die d).reserve with
  | some p => (s.modDie d fun k => { k with reserve := k.reserve.filter (·.1 != code) }, some p)
  | none =>
    let rings := s.rings.filter fun r => r.1.2 == code
    match argMin (fun r => ringRank d r.1.1) (rings.filter fun r => (s.takeFrom dom r.2).isSome) with
    | none => (s.charge dom 2 (12 * rings.length), none)
    | some r =>
      let asked := rings.filter fun q => ringRank d q.1.1 ≤ ringRank d r.1.1
      match (s.charge dom 2 (12 * asked.length)).takeFrom dom r.2 with
      | some (p, s') => (s', some p)
      | none => (s, none)

/-- The walker keeps a page it lost the race for as the die's reserve (R305). -/
def State.keepReserve (s : State) (d dom code : Nat) : State :=
  if (tableGet code (s.die d).reserve).isSome then s
  else
    match s.freePage d dom code with
    | (s', some p) => s'.modDie d fun k => { k with reserve := tableSet code p k.reserve }
    | (s', none) => s'

/-- The leaf that first touch writes (R305): the page, HOMED, and for an unclaimed CP page its owner. -/
def homedLeaf (core p e : Nat) : Nat :=
  let keep := e - field e 47 16 * 2 ^ 16
  let e1 := keep + p / 2 ^ 16 * 2 ^ 16 % 2 ^ 48 + 2 ^ 14
  if field e 6 5 == 2 && field e 63 52 == 0xFFF then e1 % 2 ^ 52 + core * 2 ^ 52 else e1

/-- First touch (R305): bind a page; false when every ring is empty. -/
def State.homePage (s : State) (d core dom l at_ e : Nat) : State × Bool :=
  match s.freePage d dom (sizeCode l) with
  | (s', none) => (s', false)
  | (s', some p) => ((s'.sysStore at_ (leBytes 8 (homedLeaf core p e))).charge dom 3 8, true)

/-- A walk with first touch by a core of a die (R302, R305): the page, or the result it failed with. -/
def State.resolve (s : State) (d core dom va : Nat) : State × Except Nat Page :=
  match s.walk dom va with
  | .fault r _ => (s, .error r)
  | .leaf l at_ e =>
    if unhomed e then
      match s.homePage d core dom l at_ e with
      | (s', false) => (s', .error 3)
      | (s', true) => (s', .ok (pageOfLeaf l at_ (s'.memory.nat at_ 8)))
    else (s, .ok (pageOfLeaf l at_ e))

/-- An access of a die to an address stalls: its page is in transition (R307), or between the close and the flip (R311). -/
def State.held (s : State) (d dom va : Nat) : Bool :=
  match s.walk dom va with
  | .leaf l at_ e => field e 48 48 == 1 || s.flipClosed d (pageOfLeaf l at_ e)
  | .fault _ _ => false

/-- The physical address of a byte on a page (copy 0 of a publish pair). -/
def Page.at_ (p : Page) (va : Nat) : Nat := p.pa + va % p.size

/-- Set A, and D for a write, in the leaf with an atomic OR at its home (R304). -/
def State.markLeaf (s : State) (dom : Nat) (p : Page) (write : Bool) : State :=
  let e := s.memory.nat p.leafAt 8
  let e' := e ||| (if write then 0x1800 else 0x800)
  if e == e' then s else ((s.sysStore p.leafAt (leBytes 8 e')).charge dom 2 8).charge dom 3 8

/-- The replica of the flip table that the E-dies, and the part itself, use stands under this number (R310). -/
def edieReplica : Nat := 512

/-- Where an access of the part itself reaches a byte on a page: of a publish pair, the visible copy. -/
def State.partPa (s : State) (p : Page) (va : Nat) : Nat := s.visible edieReplica p (p.at_ va)

/-- The part's own translation of an address in a domain, with no first touch and no permission asked. -/
def State.paOf (s : State) (dom va : Nat) : Option Nat :=
  match s.walk dom va with
  | .leaf l at_ e => if unhomed e then none else some (s.partPa (pageOfLeaf l at_ e) va)
  | .fault _ _ => none

/-- The part of die and core at_ reaches a byte on its own account: first touch (R49, R305), A and D (R304), and no copy of an SC or CP line
stands before the home. -/
def State.vTouch (s : State) (at_ : Nat × Nat) (dom va : Nat) (write : Bool) : State :=
  match s.resolve at_.1 at_.2 dom va with
  | (_, .error _) => s
  | (s1, .ok p) =>
    let s2 := s1.markLeaf dom p write
    if p.cc == 0 then s2 else s2.giveUp at_.1 (lineOf (s2.partPa p va))

/-- The addresses at which n bytes at va enter a 128 B line. -/
def lineStarts (va n : Nat) : List Nat := (linesOf va n).map fun l => max va (128 * l)

def State.vReach (s : State) (at_ : Nat × Nat) (dom va n : Nat) (write : Bool) : State :=
  (lineStarts va n).foldl (fun s v => s.vTouch at_ dom v write) s

/-- The part writes bytes at virtual addresses of a domain; what is not mapped is not written (log 36). -/
def State.vStore (s : State) (at_ : Nat × Nat) (dom va : Nat) (bs : List Byte) : State :=
  ((lineStarts va bs.length).foldl (fun (acc : State × List Byte) v =>
    let n := min acc.2.length (128 - v % 128)
    let s1 := acc.1.vTouch at_ dom v true
    let s2 := match s1.paOf dom v with
      | some pa => (s1.sysStore pa (acc.2.take n)).charge dom 3 n
      | none => s1
    (s2, acc.2.drop n)) (s, bs)).1

/-- An address on each page, in steps of 64 KiB, that n bytes at va touch. -/
def pageStarts (va n : Nat) : List Nat :=
  if n == 0 then []
  else (List.range ((va + n - 1) / 65536 - va / 65536 + 1)).map fun i => if i == 0 then va else (va / 65536 + i) * 65536

/-- The part is about to read n bytes on its own account at a place: first touch (R305), A (R304), and the charge of R396; none while a page
of them is in transition (R307) or a flip of it under way (R311). What cannot be reached is left as it is. -/
def State.touchRead (s : State) (at_ : Nat × Nat) (dom va n : Nat) : Option State :=
  ((pageStarts va n).foldl (fun (o : Option State) v => o.bind fun s =>
    match s.resolve at_.1 at_.2 dom v with
    | (_, .error _) => some s
    | (s1, .ok p) =>
      if p.qz || s1.flipClosed at_.1 p then none
      else if p.r then some ((s1.chargeWalk dom v).markLeaf dom p false) else some s1) (some s)).map fun s => s.charge dom 2 n

/-- Bytes at virtual addresses of a domain as the home holds them; an unmapped byte reads as none. -/
def State.vByte (s : State) (dom va : Nat) : Option Byte := (s.paOf dom va).map s.memory.byte

def State.vBytes (s : State) (dom va : Nat) : Nat → List Byte
  | 0 => []
  | n + 1 => (s.vByte dom va).getD 0 :: s.vBytes dom (va + 1) n

def State.vNat (s : State) (dom va n : Nat) : Nat := leNat (s.vBytes dom va n)

/-- n bytes lie on pages that the domain may read. -/
def State.readable (s : State) (dom va n : Nat) : Bool :=
  (List.range ((va + n - 1) / 65536 - va / 65536 + 1)).all fun i =>
    match s.walk dom (if i == 0 then va else (va / 65536 + i) * 65536) with
    | .leaf l at_ e => (pageOfLeaf l at_ e).r
    | .fault _ _ => false

/-! ## Translation caches (R306) -/

/-- Entry of a translation cache: domain and base address. -/
def tlbHit (dom va : Nat) (e : (Nat × Nat) × Page) : Bool := e.1.1 == dom && covers e.1.2 e.2.size va

/-- An entry comes to the front; the one used longest ago leaves a full cache. -/
def tlbPut (cap dom va : Nat) (p : Page) (l : List ((Nat × Nat) × Page)) : List ((Nat × Nat) × Page) :=
  (((dom, va / p.size * p.size), p) :: l.filter fun e => !(tlbHit dom va e)).take cap

/-- The cached translation of an address, in the core's cache or its die's. -/
def State.cachedPage (s : State) (d core dom va : Nat) : Option Page :=
  (((s.core d core).tlb.find? (tlbHit dom va)).or ((s.die d).tlb.find? (tlbHit dom va))).map (·.2)

/-- A walk's page is cached on the die and at a core. -/
def State.cachePage (s : State) (d core dom va : Nat) (p : Page) : State :=
  (s.modDie d fun k => { k with tlb := tlbPut Config.dieTlb dom va p k.tlb }).modCore d core fun k =>
    { k with tlb := tlbPut Config.coreTlb dom va p k.tlb }

/-- An access uses a translation: a miss of the core's cache is counted (core event 9), and A or D is set. -/
def State.reach (s : State) (d core dom : Nat) (write : Bool) (x : Nat × Page) : State :=
  let miss := !((s.core d core).tlb.any (tlbHit dom x.1))
  let s1 := if miss then s.coreEvent d core 9 dom 1 else s
  ((s1.modCore d core fun k => { k with tlb := tlbPut Config.coreTlb dom x.1 x.2 k.tlb }).modDie d fun k =>
    { k with tlb := if miss && k.tlb.any (tlbHit dom x.1) then tlbPut Config.dieTlb dom x.1 x.2 k.tlb else k.tlb }).markLeaf dom x.2 write

/-! ## Scratch (R156, R286) -/

def Group.scBytes (g : Group) : Nat := g.scRows * 148

def State.scratchRead (s : State) (k : GroupKey) (off n : Nat) : List Byte :=
  match s.group? k with
  | some g => cellReads g.scratch off n
  | none => List.replicate n 0

/-- Keep, of the rows that an operation is to read, what they hold after some bytes were written (R215; log 22). -/
def MatOp.note (m : MatOp) (read : Nat → Nat → List Byte) (off n : Nat) : MatOp :=
  { m with rows := m.rows.map fun r =>
      let len := (r.2.headD []).length
      if overlaps r.1 len off n then (r.1, r.2 ++ [read r.1 len]) else r }

def State.scratchWrite (s : State) (k : GroupKey) (off : Nat) (bs : List Byte) : State :=
  let t := s.modGroup k fun g => { g with scratch := cellWrites g.scratch off bs }
  { t with matOps := t.matOps.map fun m => if m.w.group == k then m.note (t.scratchRead k) off bs.length else m }

end Sys2Proof.Machine
end

