-- ==== Sys2Proof/Machine/Records.lean ====
section
/-! DEFINITION. Sys2Proof/Machine/Records.lean: the records the part leaves and what ends with a launch: completion records (R323), fault
records (R361), successor tasks (R42, R333), routing windows' completion (R231, R232), and the end of a launch (R324, R326). -/

namespace Sys2Proof.Machine

/-! ## Completion records -/

/-- Record k of a window is done with a status; its completion record goes to the window's ring, when it has one (R323). -/
def State.completeRecord (s : State) (win k status seq detail : Nat) (cookie : Word) : State :=
  let w := s.window win
  let s1 := s.modWindow win fun w =>
    { w with recs := putFirst (·.k == k) ⟨k, some status, seq⟩ w.recs }
  match w.ring with
  | none => s1
  | some r =>
    let body := bytesOfWord cookie ++ leBytes 4 seq ++ leBytes 2 status ++ leBytes 2 win ++ leBytes 4 k ++
      leBytes 8 s.time0.toNat ++ leBytes 4 detail ++ [0, 0, 0] ++ leBytes 1 ((k - 1) / 64 % 255 + 1)
    s1.post r.qp r.key (r.addr + BitVec.ofNat 64 (32 * ((k - 1) % 64))) body

/-- The status of a record, once it has one (R320). -/
def State.recStatus (s : State) (win k : Nat) : Option Nat := ((s.window win).recs.find? (·.k == k)).bind (·.status)

/-! ## Fault records -/

/-- What the Regulator and the Crown write for a group that stands nowhere, or for the host, touches first as die 0 does (log 36). -/
def panelSite : Nat × Nat := (0, 0)

/-- Where record i of a domain lies. -/
def State.faultAddr (s : State) (dom i : Nat) : Option Nat := (s.domain dom).work.map fun w => w.1 + Config.faultBase + 64 * i

def State.faultRec? (s : State) (dom idx : Nat) : Option FaultRec :=
  s.faultRecs.find? fun r => r.dom == dom && r.idx == idx && r.state != 0

/-- The record at the next index is free: unused, or a final record whose STATE the host has cleared (R361). -/
def State.faultFree (s : State) (dom idx : Nat) : Bool :=
  match s.faultRec? dom idx with
  | none => true
  | some r => r.state == 2 && ((s.faultAddr dom idx).bind (s.vByte dom)) == some 0

/-- What a fault record holds beside its key (R361). -/
structure FaultInfo where
  kind : Nat
  state : Nat
  code : Nat
  seq : Nat
  grp : Nat
  warp : Nat
  strand : Strand
  slice : Nat
  walk : Nat
  access : Nat
  va : Nat
  pc : Nat
  lane : Nat
  ctx : Nat
  cursor : Nat
  die : Nat
  core : Nat
deriving DecidableEq, Repr

def faultBytes (f : FaultInfo) : List Byte :=
  leBytes 1 f.state ++ leBytes 1 f.kind ++ leBytes 1 f.code ++ [0] ++ leBytes 4 f.seq ++ leBytes 4 f.grp ++ leBytes 1 f.warp ++
  leBytes 1 ((if f.strand == .a then 1 else 0) + 2 * f.slice) ++ leBytes 1 f.walk ++ leBytes 1 f.access ++ leBytes 8 f.va ++
  leBytes 4 f.pc ++ leBytes 4 f.lane ++ leBytes 8 f.ctx ++ leBytes 4 f.cursor ++ leBytes 4 (f.die + 512 * f.core) ++
  List.replicate 16 0

/-- Index the next record of a domain takes (R361). -/
def State.nextFault (s : State) (dom : Nat) : Nat := (s.domain dom).faults % Config.faultRecords

/-- Write the next fault record of a domain; none while that record is not free. -/
def State.newFault (s : State) (dom : Nat) (f : FaultInfo) (w : Option WarpKey) (copy : Option Nat) (raised : Option Raised) :
    Option (Nat × State) :=
  let idx := s.nextFault dom
  if !(s.faultFree dom idx) then none
  else
    let r : FaultRec := ⟨dom, idx, f.state, f.kind, f.code, w, copy, f.seq, raised, none⟩
    let s1 := { s with faultRecs := putFirst (fun q => q.dom == dom && q.idx == idx) r s.faultRecs }
    let n := (s.domain dom).faults + 1
    let s2 := s1.modDomain dom fun d => { d with faults := n }
    let s3 := match (s.domain dom).work with
      | some wk => (s2.vStore (f.die, f.core) dom (wk.1 + Config.faultBase + 64 * idx) (faultBytes f)).vStore (f.die, f.core) dom wk.1 (leBytes 4 n)
      | none => s2
    some (idx, s3)

/-- Change a record's state, in the part and in memory. -/
def State.setFault (s : State) (dom idx st : Nat) : State :=
  let s1 := { s with faultRecs := updFirst (fun r => r.dom == dom && r.idx == idx) (fun r => { r with state := st }) s.faultRecs }
  match s.faultAddr dom idx with
  | some a => s1.vStore panelSite dom a (leBytes 1 st)
  | none => s1

/-- The host's disposition byte of a record (R361, R363). -/
def State.disp (s : State) (dom idx : Nat) : Nat :=
  match s.faultAddr dom idx with
  | some a => s.vNat dom (a + 3) 1
  | none => 0

/-- Set bits of a record's byte 0x30: held by eviction, resume pending (R361, R367). -/
def State.faultHeld (s : State) (dom idx bits : Nat) : State :=
  match s.faultAddr dom idx with
  | some a => s.vStore panelSite dom (a + 0x30) (leBytes 1 bits)
  | none => s

/-! ## Successor tasks (R42, R333, R334) -/

/-- The count in the phase record follows the Regulator's (R44). -/
def State.writeCount (s : State) (t : Task) : State :=
  match s.launch? t.g.seq with
  | some l => s.vStore panelSite l.dom (t.recAt + 8) (leBytes 4 t.count)
  | none => s

/-- Add one operation to a group's successor count; none when the count stands at 65 535 (R42). -/
def State.taskAdd (s : State) (k : GroupKey) (hold : Bool) : Option State :=
  match s.task? k with
  | none => some s
  | some t =>
    if 65535 ≤ t.count then none
    else
      let t' := { t with count := t.count + 1, holds := if hold then t.holds + 1 else t.holds }
      some ((s.modTask k fun _ => t').writeCount t')

/-- Take one away; a count that reaches 0 hands the phase to the ready queue (R42, R334). -/
def State.taskSub (s : State) (k : GroupKey) (hold : Bool) : State :=
  match s.task? k with
  | none => s
  | some t =>
    if t.count == 0 || (hold && t.holds == 0) then s
    else
      let t' := { t with count := t.count - 1, holds := if hold then t.holds - 1 else t.holds }
      let s1 := (s.modTask k fun _ => t').writeCount t'
      if t'.count == 0 then { s1 with ready := s1.ready ++ [k] } else s1

/-! ## Routing windows (R231, R232) -/

def RSlot.gone (r : RSlot) : Bool := !r.valid || r.resolved

/-- Returned elements as FP32 words: weight times element added in slot order, one rounding each (R231). -/
def combine (elems : Nat) (slots : List RSlot) : List Word :=
  (List.range elems).map fun e =>
    slots.foldl (fun acc sl =>
      match sl.ret with
      | some ws => (f32Round (fmaExact 0 (f32Val sl.weight) (f32Val (ws.getD e 0)) (f32Val acc))).word
      | none => acc) 0

/-- The input row's bytes for a row that resolves with no returned slot, when its port passes them through (R231). -/
def State.passRow (s : State) (w : RWindow) (i : Nat) (r : RRow) : Option (List Byte) :=
  let port := (r.slots.find? (·.valid)).map (·.port)
  if r.slots.any (·.ret.isSome) || (port.bind fun p => tableGet p w.fallb) != some true then none
  else some (s.scratchRead w.owner (w.input + i * w.inStride * 4) (min w.rowBytes (4 * w.elems)))

/-- A row resolves once its slots have (R231): a passthrough then reads its input row. -/
def State.settleRow (s : State) (w : RWindow) (i : Nat) (r : RRow) : RRow :=
  if r.done || !(r.slots.all RSlot.gone) then r else { r with done := true, pass := s.passRow w i r }

/-- The output row of a resolved row (R231). -/
def RWindow.rowOutput (w : RWindow) (r : RRow) : List Byte :=
  if r.slots.any (·.ret.isSome) then bytesOfWords (combine w.elems r.slots) else padTo (4 * w.elems) (r.pass.getD [])

def State.setWindow (s : State) (die core win : Nat) (w : RWindow) : State :=
  s.modCore die core fun k => { k with windows := updAt win (fun _ => w) k.windows }

/-- How a window completes (R232, R235). -/
inductive Completion where
  | resolved
  | timeout
  | closed
  | cancelled
deriving DecidableEq, Repr

/-- Write the output rows of a window (R231, R232). -/
def State.writeRows (s : State) (w : RWindow) : State :=
  (List.range w.rows.length).foldl (fun (s : State) i =>
    match w.rows[i]? with
    | some r => s.scratchWrite w.owner (w.output + i * w.outStride * 4) (w.rowOutput r)
    | none => s) s

/-- Complete a window: what is outstanding counts as dropped, the output rows are written, the successor count falls, the entry is
freed (R232). -/
def State.completeWindow (s : State) (die core win : Nat) (w : RWindow) (how : Completion) : State :=
  let out (r : RRow) : RRow := { r with slots := r.slots.map fun sl => { sl with resolved := true } }
  let w1 := { w with
    rows := mapIdxList (fun i r => s.settleRow w i (out r)) w.rows
    open_ := false
    byTimeout := how == .timeout
    byClose := how == .closed
    deadline := none }
  let s1 := (s.writeRows w1).setWindow die core win w1
  if w.succ && how != .cancelled then s1.taskSub w.owner false else s1

/-- Complete a window once all its rows have resolved. -/
def State.settleWindow (s : State) (die core win : Nat) (w : RWindow) : State :=
  let w1 := { w with rows := mapIdxList (s.settleRow w) w.rows }
  if w1.rows.all (·.done) then s.completeWindow die core win w1 .resolved else s.setWindow die core win w1

/-! ## What scratch shows -/

/-- A byte of an output row of an open window (R232). -/
def RWindow.hides (w : RWindow) (k : GroupKey) (off : Nat) : Bool :=
  w.open_ && w.owner == k && (List.range w.rows.length).any fun i => covers (w.output + i * w.outStride * 4) (4 * w.elems) off

/-- What an access reads of scratch: until a window completes, its output rows hold unpredictable values (R232), here free ones. -/
def State.scratchSee (s : State) (k : GroupKey) (off n : Nat) : List Byte :=
  let raw := s.scratchRead k off n
  match s.group? k with
  | none => raw
  | some g =>
    let ws := (s.core g.die g.core).windows.filter fun w => w.open_ && w.owner == k
    if ws.isEmpty then raw
    else mapIdxList (fun i b =>
      if ws.any (·.hides k (off + i)) then (Config.freeWord (2 ^ 64 * (s.nextId + 1) + off + i)).setWidth 8 else b) raw

/-! ## Leaving a core; the end of a launch -/

/-- Complete, as cancelled, every open window of a group. -/
def State.closeWindows (s : State) (g : Group) : State :=
  (List.range 16).foldl (fun s i =>
    match (s.core g.die g.core).windows[i]? with
    | some w => if w.open_ && w.owner == g.key then s.completeWindow g.die g.core i w .cancelled else s
    | none => s) s

/-- What of a group's accesses is still to be performed when it leaves: everything but loads (R167, R282). -/
def Group.leftOver (g : Group) : List Orphan :=
  g.warps.flatMap fun w => (w.accs.filter (·.kind != .load)).map fun a => ⟨w.key, g.die, g.core, g.dom, g.cohort, a⟩

/-- Give back a group's rows, and forget it (R40). Its task, with the workspace they hold (R336), goes with it unless kept; matrix operations that
it has issued complete (R326). At the end of a phase every row returns once the record is written, those that the carry set does not hold no
sooner than the others (R40, R41; log 80). -/
def State.removeGroup (s : State) (k : GroupKey) (keepTask : Bool) : State :=
  match s.group? k with
  | none => s
  | some g =>
    let s1 := s.modCore g.die g.core fun c =>
      { c with active := c.active.filter (· != k), pending := c.pending.filter (· != k) }
    let s2 := if g.leftOver.isEmpty then s1 else s1.modLaunch k.seq fun l => { l with orphans := l.orphans ++ g.leftOver }
    { s2 with
        groups := s1.groups.filter (·.key != k)
        areas := if keepTask then s1.areas else s1.areas.filter fun a => !(a.1 == g.dom && (a.2.1 == g.area || a.2.1 == g.recAt))
        tasks := if keepTask then s1.tasks else s1.tasks.filter (·.g != k) }

/-- Free the pending records of a launch, or make them final (R363, R326). -/
def State.freeRecords (s : State) (seq : Nat) : State :=
  (s.faultRecs.filter fun r => r.seq == seq && r.state == 1).foldl (fun s r => s.setFault r.dom r.idx 0) s

end Sys2Proof.Machine
end

