-- ==== Sys2Proof/Machine/Operands.lean ====
section
/-! DEFINITION. Sys2Proof/Machine/Operands.lean: what an issue sees: its gang and lanes, guards (R23, R79), sources (R85, R86, R106, R107),
x registers (R29), and the coupling-queue conditions it waits on (R16 to R20). -/

namespace Sys2Proof.Machine

def Lane.zero : Lane := ⟨Vector.replicate 8 0, Vector.replicate 32 0, Vector.replicate 32 0, 0, [], [], []⟩

def Warp.lane (w : Warp) (l : Nat) : Lane := w.lanes.getD l Lane.zero

def Warp.modLane (w : Warp) (l : Nat) (f : Lane → Lane) : Warp := { w with lanes := updAt l f w.lanes }

/-- Change every lane of a mask. -/
def Warp.modLanes (w : Warp) (on : Mask) (f : Nat → Lane → Lane) : Warp :=
  { w with lanes := mapIdxList (fun l k => if on.getLsbD l then f l k else k) w.lanes }

/-- Bits 0 to width − 1: what m0 and g0 read (R25). -/
def widthMask (width : Nat) : Mask := ((1 : Mask) <<< width) - 1

/-- The four lanes of a slice as mask bits. -/
def nibMask (sl : Nat) (n : Nib) : Mask := n.setWidth 64 <<< (4 * sl)

def Slice.zero : Slice := ⟨0, 0, 0, [], [], 0, .none, 0, false, none⟩

def StrandSt.slice (t : StrandSt) (i : Nat) : Slice := t.slices.getD i Slice.zero

/-- The slices that issue together: of one gang, with a live lane, held by nothing (R139, R146). -/
def gangSlices (t : StrandSt) (gang : Nat) : List Nat :=
  (List.range t.slices.length).filter fun i =>
    let sl := t.slice i
    sl.gang == gang && sl.live != 0 && sl.hold == .none

/-- Every value a busy location may read as has an index of its own within one issue. -/
def Loc.slot : Loc → Nat
  | .age i => i
  | .frame i => 8 + i
  | .uni i => 40 + i
  | .xreg i => 64 + i
  | .mask i => 96 + i
  | .sq i => 104 + i
  | .iq i => 112 + i

/-- Free values one issue may use. -/
def freeStep : Nat := 8192

/-- What a location of lane l held in a snapshot. -/
def Snap.at_ (p : Snap) (l : Nat) (loc : Loc) : Word :=
  let k := p.lanes.getD l Lane.zero
  match loc with
  | .age i => k.a.getD i 0
  | .frame i => k.f.getD i 0
  | .xreg i => k.x.getD i 0
  | .uni i => p.y.getD i 0
  | .mask i => Word.ofBool ((p.m.getD i 0).getLsbD l)
  | .sq i => k.sq.getD i 0
  | .iq i => k.iq.getD i 0

/-- What a read of a location with an outstanding long result may give: what stands there (the pending result, or for a load what was there
before), or anything the location has held in the warp's life (R82). -/
def Warp.mayRead (w : Warp) (l : Nat) (loc : Loc) (v : Word) : List Word := v :: w.past.map fun p => p.at_ l loc

/-- What a location reads as: its value, or, while a long result is outstanding, a free choice of what R82 allows. A y mark stands under
lane 0. -/
def Warp.rd (w : Warp) (free l : Nat) (loc : Loc) (v : Word) : Word :=
  let owner := match loc with
    | .uni _ => 0
    | _ => l
  if w.busy.any fun b => b.lane == owner && b.loc == loc then
    let vs := w.mayRead l loc v
    vs.getD ((Config.freeWord (free + 128 * l + loc.slot)).toNat % vs.length) v
  else v

/-- The issue in hand: its warp, strand, slices in ascending order, active lanes and the first of its free values. -/
structure Ctx where
  iss : Issuer
  grp : Group
  warp : Warp
  slices : List Nat
  active : Mask
  free : Nat
deriving DecidableEq, Repr

def State.ctx? (s : State) : Option Ctx :=
  match s.cur with
  | none => none
  | some i =>
    match s.group? i.w.group with
    | none => none
    | some g =>
      match g.warp? i.w with
      | none => none
      | some w =>
        let t := w.strand i.strand
        let sls := gangSlices t i.gang
        some ⟨i, g, w, sls, sls.foldl (fun m k => m ||| nibMask k (t.slice k).active) 0, s.free⟩

/-- Run a meaning under the gang that issues. -/
def withCtx (s : State) (f : Ctx → Host.Outcome State Fault Refusal) : Host.Outcome State Fault Refusal :=
  match s.ctx? with
  | none => .fault .noIssuer
  | some c => f c

def Ctx.st (c : Ctx) : StrandSt := c.warp.strand c.iss.strand

/-- The lanes of the issuing slices, frozen ones too (R106). -/
def Ctx.gangMask (c : Ctx) : Mask := c.slices.foldl (fun m k => m ||| nibMask k 15) 0

def lanesOfMask (width : Nat) (m : Mask) : List Nat := (List.range width).filter fun l => m.getLsbD l

def Ctx.gangLanes (c : Ctx) : List Nat := lanesOfMask c.warp.width c.gangMask

/-- The PC of the issuing gang. -/
def Ctx.pc (c : Ctx) : Word := (c.st.slice (c.slices.headD 0)).pc

/-- A mask register of the issuing strand (R25); of a C-strand mask with an outstanding ballot each bit reads as R82 allows. -/
def Ctx.maskReg (c : Ctx) (i : Nat) : Mask :=
  if i == 0 then widthMask c.warp.width
  else
    match c.iss.strand with
    | .a => c.warp.g.getD i 0
    | .c =>
      let v := c.warp.m.getD i 0
      (c.warp.busy.filter fun b => b.loc == .mask i).foldl (fun m b =>
        if c.warp.rd c.free b.lane (.mask i) (Word.ofBool (v.getLsbD b.lane)) != 0 then m ||| (1 <<< b.lane)
        else m &&& ~~~((1 : Mask) <<< b.lane)) v

/-- The lanes that the guard, taken with its polarity, selects (R79). -/
def Ctx.guard (c : Ctx) (h : Hdr) : Mask :=
  let m := c.maskReg h.gm.toNat
  (if h.gp then ~~~m else m) &&& widthMask c.warp.width

/-- The executing lanes (R23). -/
def Ctx.exec (c : Ctx) (h : Hdr) : Mask := c.active &&& c.guard h

def Ctx.execLanes (c : Ctx) (h : Hdr) : List Nat := lanesOfMask c.warp.width (c.exec h)

/-- The lowest-numbered executing lane. -/
def Ctx.firstLane? (c : Ctx) (h : Hdr) : Option Nat := (c.execLanes h).head?

def firstOf (width : Nat) (m : Mask) : Nat := ((lanesOfMask width m).head?).getD 0

/-! ## Sources -/

/-- The word that one reads in a type (R107). -/
def oneOf (ty : Nat) : Word :=
  match ty with
  | 2 | 3 => 0x00010001
  | 4 => 0x3F800000
  | 5 => 0x3F803F80
  | 13 => 0x00003F80
  | 6 => 0x40
  | 7 => 0x10
  | 8 => 2
  | 14 => 0x7F
  | _ => 1

/-- One source of one lane (R85); pops says how many LQ entries the specifiers before it have popped. -/
def Ctx.source (c : Ctx) (one : Word) (l pops code : Nat) : Word :=
  let ln := c.warp.lane l
  if code < 8 then c.warp.rd c.free l (.age code) (ln.a.getD code 0)
  else if code < 40 then c.warp.rd c.free l (.frame (code - 8)) (ln.f.getD (code - 8) 0)
  else if code < 56 then c.warp.rd c.free l (.uni (code - 40)) (c.warp.y.getD (code - 40) 0)
  else if code < 58 then ((ln.lq[pops]?).bind (·.data)).getD 0
  else if code == 58 then 0
  else if code == 59 then BitVec.ofNat 32 l
  else one

/-- The sources of a lane in the order SA, SB, SC (R86). -/
def Ctx.sources (c : Ctx) (one : Word) (l : Nat) : Nat → List (BitVec 7) → List Word
  | _, [] => []
  | pops, code :: rest => c.source one l pops code.toNat :: c.sources one l (if code == 56 then pops + 1 else pops) rest

def Ctx.reads (c : Ctx) (one : Word) (codes : List (BitVec 7)) (l : Nat) : List Word := c.sources one l 0 codes

/-- Source k of what a lane read. -/
def src (rs : List Word) (k : Nat) : Word := rs.getD k 0

/-- LQ entries popped, and entries that must be present for pops and peeks (R86). -/
def lqPops (codes : List (BitVec 7)) : Nat := codes.countP (· == 56)

def lqNeed (codes : List (BitVec 7)) : Nat :=
  (codes.foldl (fun (p : Nat × Nat) code =>
    if code == 56 then (p.1 + 1, max p.2 (p.1 + 1)) else if code == 57 then (p.1, max p.2 (p.1 + 1)) else p) (0, 0)).2

/-! ## Conditions before issue (R16, R17, R20) -/

def Want.none : Want := ⟨0, 0, 0, 0, false, false⟩

/-- The queues an instruction asks of: bits LQ, SQ, IQ (R19). -/
def Want.bits (q : Want) : BitVec 3 :=
  (if q.lq != 0 || q.room != 0 then 1 else 0) ||| (if q.sq != 0 || q.pushSq then 2 else 0) ||| (if q.iq != 0 || q.pushIq then 4 else 0)

/-- The needs of two parts of one instruction. -/
def Want.join (a b : Want) : Want :=
  ⟨max a.lq b.lq, max a.room b.room, max a.sq b.sq, max a.iq b.iq, a.pushSq || b.pushSq, a.pushIq || b.pushIq⟩

/-- n LQ entries with their data are there in every lane of a list. -/
def Warp.lqHas (w : Warp) (ls : List Nat) (n : Nat) : Bool :=
  ls.all fun l => n ≤ (w.lane l).lq.length && ((w.lane l).lq.take n).all fun e => e.data.isSome

/-- n entries of SQ or IQ are there in every lane of a list. -/
def Warp.popHas (w : Warp) (ls : List Nat) (isSq : Bool) (n : Nat) : Bool :=
  ls.all fun l => n ≤ (if isSq then (w.lane l).sq.length else (w.lane l).iq.length)

/-- None of the first n entries of SQ or IQ is still owed by a long result. -/
def Warp.popPaid (w : Warp) (ls : List Nat) (isSq : Bool) (n : Nat) : Bool :=
  !(ls.any fun l => (List.range n).any fun i => w.busy.any fun b => b.lane == l && b.loc == (if isSq then .sq i else .iq i))

/-- Every lane of a list has room for one more entry of SQ or IQ. -/
def Warp.pushRoom (w : Warp) (ls : List Nat) (isSq : Bool) : Bool :=
  ls.all fun l => if isSq then (w.lane l).sq.length < Config.sqDepth else (w.lane l).iq.length < Config.iqDepth

/-- Every lane of a list has room for n more LQ entries. -/
def Warp.lqFits (w : Warp) (ls : List Nat) (n : Nat) : Bool := ls.all fun l => (w.lane l).lq.length + n ≤ Config.lqDepth

/-- The queues still do not give what an instruction over some lanes asks. -/
def Want.blocks (q : Want) (w : Warp) (ls : List Nat) : Bool :=
  (q.lq != 0 && !(w.lqHas ls q.lq)) || (q.room != 0 && !w.c.exited && !(w.lqFits ls q.room)) ||
  (q.sq != 0 && !(w.popHas ls true q.sq && w.popPaid ls true q.sq)) || (q.iq != 0 && !(w.popHas ls false q.iq && w.popPaid ls false q.iq)) ||
  (q.pushSq && !w.a.exited && !(w.pushRoom ls true)) || (q.pushIq && !w.a.exited && !(w.pushRoom ls false))

/-- What the coupling queues say to an issue: go on, stall for what it asks, or a pop that can never be served (bits LQ, SQ, IQ). -/
inductive Gate where
  | go
  | stall (q : Want)
  | dead (qs : BitVec 3)
deriving DecidableEq, Repr

def Gate.and : Gate → Gate → Gate
  | .dead a, .dead b => .dead (a ||| b)
  | .dead a, _ => .dead a
  | _, .dead b => .dead b
  | .stall a, .stall b => .stall (a.join b)
  | .stall a, .go => .stall a
  | .go, g => g

/-- n LQ entries with their data are there in every lane of the issuing slices. R20 speaks of a pop alone: that a peek of an empty LQ whose
A-strand has exited traps 0x24 too is the model's choice (log 61). -/
def Ctx.lqGate (c : Ctx) (n : Nat) : Gate :=
  if n == 0 then .go
  else if (c.gangLanes.any fun l => (c.warp.lane l).lq.length < n) && c.warp.a.exited then .dead 1
  else if c.warp.lqHas c.gangLanes n then .go
  else .stall { Want.none with lq := n }

/-- n entries of SQ or IQ are there in every lane, and no long result is still owed to them. -/
def Ctx.popGate (c : Ctx) (isSq : Bool) (n : Nat) : Gate :=
  if n == 0 then .go
  else
    let q : Want := if isSq then { Want.none with sq := n } else { Want.none with iq := n }
    if !(c.warp.popHas c.gangLanes isSq n) then (if c.warp.c.exited then .dead (if isSq then 2 else 4) else .stall q)
    else if !(c.warp.popPaid c.gangLanes isSq n) then .stall q
    else .go

/-- Room for one more entry of SQ (kind 3) or IQ (kind 4); a consumer that has exited takes anything (R20). -/
def Ctx.pushGate (c : Ctx) (dk : Nat) : Gate :=
  if c.warp.a.exited then .go
  else if dk == 3 then (if c.warp.pushRoom c.gangLanes true then .go else .stall { Want.none with pushSq := true })
  else if dk == 4 then (if c.warp.pushRoom c.gangLanes false then .go else .stall { Want.none with pushIq := true })
  else .go

/-- Room to reserve n LQ entries in every lane of the issuing slices (R17). -/
def Ctx.lqRoom (c : Ctx) (n : Nat) : Gate :=
  if c.warp.c.exited then .go
  else if c.warp.lqFits c.gangLanes n then .go
  else .stall { Want.none with room := n }

/-! ## x registers (R29) -/

def Ctx.x (c : Ctx) (l i : Nat) : Word := c.warp.rd c.free l (.xreg i) ((c.warp.lane l).x.getD i 0)

/-- A pair Xn. -/
def Ctx.xx (c : Ctx) (l i : Nat) : Word64 := c.x l (i + 1) ++ c.x l i

def Lane.setX (k : Lane) (i : Nat) (v : Word) : Lane := { k with x := k.x.set! i v }

def Lane.setXX (k : Lane) (i : Nat) (v : Word64) : Lane := (k.setX i (v.setWidth 32)).setX (i + 1) (v.extractLsb' 32 32)

end Sys2Proof.Machine
end

