-- ==== Sys2Proof/Machine/Flags.lean ====
section
/-! DEFINITION. Sys2Proof/Machine/Flags.lean: lane status flags and the arithmetic causes they raise (R27, R28). -/

namespace Sys2Proof.Machine

/-- Mode-word bits (R28). -/
def modeFTZ (m : Word) : Bool := m.getLsbD 0

/-- The flags a lane raised, lane by lane. -/
abbrev LaneFlags := List (Nat × Byte)

/-- Sticky flags are set and stay set (R27). -/
def Warp.setFlags (w : Warp) (fl : LaneFlags) : Warp :=
  fl.foldl (fun w p => if p.2 == 0 then w else w.modLane p.1 fun k => { k with status := k.status ||| p.2 }) w

/-- The lowest enabled arithmetic cause of a flag byte: DZ 0x30, IV 0x31, OF 0x32 (R27, R351). -/
def arithCode (mode : Word) (f : Byte) : Option Nat :=
  if f.getLsbD 0 && mode.getLsbD 1 then some 0x30
  else if f.getLsbD 1 && mode.getLsbD 2 then some 0x31
  else if f.getLsbD 2 && mode.getLsbD 3 then some 0x32
  else none

/-- The arithmetic cause of an instruction and the lowest lane that raised it. -/
def arithCause (mode : Word) (fl : LaneFlags) : Option (Nat × Nat) :=
  let hits := fl.filterMap fun p => (arithCode mode p.2).map fun code => (code, p.1)
  (hits.map fun x => x.1 * 64 + x.2).min?.map fun v => (v / 64, v % 64)

end Sys2Proof.Machine
end

