-- ==== Sys2Proof/Machine/Sched.lean ====
section
/-! DEFINITION. Sys2Proof/Machine/Sched.lean: the active and pending sets of a core (R337, R339) and the deadlock count (R19). -/

namespace Sys2Proof.Machine

/-! ## Strand deadlock (R19) -/

/-- What slice i of a strand was found to wait for in the coupling queues, while its gang still waits for it. -/
def Warp.waitsFor (w : Warp) (t : StrandSt) (i : Nat) : Option Want :=
  let gang := (gangSlices t (t.slice i).gang).foldl (fun m k => m ||| nibMask k 15) 0
  (t.slice i).stall.filter fun q => q.blocks w (lanesOfMask w.width gang)

/-- A strand stalls on coupling queues: every slice with a live lane does, or waits at REGANG, and one does. That a slice at REGANG counts and
one at a barrier does not is the model's choice (log 79). -/
def Warp.stalled (w : Warp) (t : StrandSt) : Bool :=
  let is := (List.range t.slices.length).filter fun i => (t.slice i).live != 0
  is.all (fun i => (w.waitsFor t i).isSome || (t.slice i).hold == .regang) && is.any fun i => (w.waitsFor t i).isSome

/-- A load that targets the warp's LQ is outstanding. -/
def Warp.lqOutstanding (w : Warp) : Bool := w.lanes.any fun k => k.lq.any fun e => e.data.isNone

def Warp.deadlocked (w : Warp) : Bool := w.stalled w.c && w.stalled w.a && !w.lqOutstanding

/-- The ck at which the conditions began to hold, while they hold. -/
def Warp.recount (w : Warp) (now : Nat) : Warp :=
  { w with stuckSince := if w.deadlocked then some (w.stuckSince.getD now) else none }

/-! ## Swaps (R337, R339) -/

/-- The head of a pending set: the highest effective priority, the earliest among equals. -/
def State.pendingHead (s : State) (k : CoreSt) : Option GroupKey :=
  argMin (fun g => 7 - ((s.group? g).map (·.effPrio)).getD 0) k.pending

/-- A group enters the active set, to issue from a time on; ck spent outside it, since when it was swapped out, do not count for R19: what began
to hold there counts from now on. -/
def Group.enter (g : Group) (now : Nat) : Group :=
  { g with
      active := true
      entered := now
      effPrio := g.prio
      waitSwaps := 0
      warps := g.warps.map fun w => { w with stuckSince := w.stuckSince.map fun t => now - (g.entered - t) } }

/-- Group k enters the active set of a core, and issues after a delay. -/
def State.enterActive (s : State) (die core delay : Nat) (k : GroupKey) : State :=
  (s.modGroup k fun g => g.enter (s.now + delay)).modCore die core fun c =>
    { c with active := c.active ++ [k], pending := c.pending.filter (· != k) }

/-- While the active set has room, the head of the pending set enters at once (R337). -/
def State.letInN (s : State) (die core : Nat) : Nat → State
  | 0 => s
  | n + 1 =>
    if 8 ≤ (s.core die core).active.length then s
    else
      match s.pendingHead (s.core die core) with
      | some k => (s.enterActive die core 0 k).letInN die core n
      | none => s

def State.letIn (s : State) (die core : Nat) : State := s.letInN die core 8

/-- A waiting group rises one class after every 64 swaps on its core (R337). -/
def Group.waited (g : Group) : Group :=
  { g with waitSwaps := g.waitSwaps + 1, effPrio := min 7 (g.prio + (g.waitSwaps + 1) / 64) }

/-- Swap group k out and the head of the pending set in, which takes 4 ck (R339); nothing while the pending set is empty. -/
def State.swapOut (s : State) (k : GroupKey) : State :=
  match s.group? k with
  | none => s
  | some g =>
    let c := s.core g.die g.core
    match s.pendingHead c with
    | none => s
    | some n =>
      let rest := c.pending.filter (· != n)
      let s := s.modCore g.die g.core fun c =>
        { c with active := c.active.filter (· != k), pending := rest ++ [k, n], swaps := c.swaps + 1 }
      let s := rest.foldl (fun s j => s.modGroup j Group.waited) s
      let s := s.modGroup k fun g => { g with active := false, entered := s.now, effPrio := g.prio, waitSwaps := 0 }
      (s.enterActive g.die g.core 4 n).coreEvent g.die g.core 8 g.dom 1

/-! ## The end of a launch (R324, R326) -/

/-- End a launch as CANCEL does (R326): its groups, phases, copies and windows go, and others enter in their place (R337). Its completion record,
or the successor store of a resident launch that has reported, is owed until its writes are performed (R282, R324). -/
def State.endLaunch (s : State) (seq status detail : Nat) : State :=
  match s.launch? seq with
  | none => s
  | some l =>
    if l.ended then s
    else
      let gs := s.groups.filter (·.key.seq == seq)
      let s1 := gs.foldl (fun s g => (s.closeWindows g).removeGroup g.key false) s
      let s2 := { s1 with
        copies := s1.copies.filter (·.g.seq != seq)
        tasks := s1.tasks.filter (·.g.seq != seq)
        ready := s1.ready.filter (·.seq != seq)
        areas := s1.areas.filter fun a => !(a.1 == l.dom && s1.tasks.any fun t => t.g.seq == seq && (t.recAt == a.2.1 || t.area == a.2.1))
        channels := s1.channels.filter (·.seq != seq) }
      let s3 := (s2.freeRecords seq).modLaunch seq fun l => { l with ended := true, owed := true, status := some status, detail := detail }
      gs.foldl (fun s g => s.letIn g.die g.core) s3

/-- Nothing more is owed for a launch: its record completes, unless a resident launch has already reported (R324). -/
def State.posted (s : State) (seq : Nat) : State :=
  match s.launch? seq with
  | none => s
  | some l =>
    let s1 := if l.reported then s else s.completeRecord l.win l.k (l.status.getD 0) l.seq l.detail l.cookie
    s1.modLaunch seq fun l => { l with owed := false }

end Sys2Proof.Machine
end

