-- ==== Sys2Proof/Machine/Context.lean ====
section
/-! DEFINITION. Sys2Proof/Machine/Context.lean: the context block of a warp: what the part writes there and reads back (R359, R360). -/

namespace Sys2Proof.Machine

def ctxBytes (width : Nat) : Nat := 0x200 + 768 * width

/-- Call stack region of a warp (R30). -/
def callBytes (width : Nat) : Nat := 1152 * (width / 4)

def activeMaskOf (sls : List Slice) : Nat := (mapIdxList (fun i (k : Slice) => k.active.toNat * 16 ^ i) sls).sum

def laneBytes (k : Lane) : List Byte :=
  padTo 512 (padTo 0x130 (bytesOfWords k.a.toList ++ bytesOfWords k.f.toList ++ bytesOfWords k.x.toList ++ [k.status]) ++
    padTo 0x40 (bytesOfWords (k.lq.map fun e => e.data.getD 0)) ++ padTo 0x20 (bytesOfWords k.sq) ++ bytesOfWords k.iq)

/-! ### The opaque stack blocks (R35, R359; their layout is the model's, log 37) -/

def flagByte (l : List Bool) : Byte := BitVec.ofNat 8 (mapIdxList (fun i (b : Bool) => if b then 2 ^ i else 0) l).sum

/-- A reconvergence entry in 12 bytes. -/
def StackEntry.bytes : StackEntry → List Byte
  | .join rcv mask tag set nt =>
    let k : Arm := nt.getD ⟨0, false, false⟩
    [1, mask.setWidth 8, tag, flagByte [set, nt.isSome, k.set, k.held]] ++ bytesOfWord rcv ++ [k.tag, 0, 0, 0]
  | .pending rcv mask pc => [2, mask.setWidth 8, 0, 0] ++ bytesOfWord rcv ++ bytesOfWord pc
  | .loop at_ mask => [3, mask.setWidth 8, 0, 0] ++ bytesOfWord at_ ++ [0, 0, 0, 0]

def stackEntryOf (b : List Byte) : Option StackEntry :=
  let by_ (i : Nat) : Byte := b.getD i 0
  let wd (i : Nat) : Word := BitVec.ofNat 32 (leAt b i 4)
  let mask : Nib := (by_ 1).setWidth 4
  match (by_ 0).toNat with
  | 1 => some (.join (wd 4) mask (by_ 2) ((by_ 3).getLsbD 0)
      (if (by_ 3).getLsbD 1 then some ⟨by_ 8, (by_ 3).getLsbD 2, (by_ 3).getLsbD 3⟩ else none))
  | 2 => some (.pending (wd 4) mask (wd 8))
  | 3 => some (.loop (wd 4) mask)
  | _ => none

/-- A call level's control in 8 bytes; its queues lie in the call stack region (R30). -/
def CallFrame.bytes (f : CallFrame) : List Byte :=
  bytesOfWord f.retPc ++ [BitVec.ofNat 8 f.depth, f.returned.setWidth 8, BitVec.ofNat 8 f.count, 0]

def callFrameOf (b : List Byte) (saved : List (Vector Word 8)) : CallFrame :=
  ⟨BitVec.ofNat 32 (leAt b 0 4), leAt b 4 1, saved, (b.getD 5 0).setWidth 4, leAt b 6 1⟩

/-- One strand's half of a slice's block: 512 bytes. -/
def Slice.image (sl : Slice) : List Byte :=
  padTo 512 ([BitVec.ofNat 8 sl.stack.length, sl.live.setWidth 8, sl.tag, flagByte [sl.tagSet, sl.hold == .phase], BitVec.ofNat 8 sl.gang,
    BitVec.ofNat 8 sl.calls.length, 0, 0] ++ padTo 64 (sl.calls.flatMap CallFrame.bytes) ++ sl.stack.flatMap StackEntry.bytes)

/-- A slice from its half of the block, its PC and its active lanes; was gives the queues of the call levels. -/
def sliceOf (b : List Byte) (pc : Word) (active : Nib) (was : Slice) : Slice :=
  let live : Nib := (b.getD 1 0).setWidth 4
  { pc := pc
    active := active &&& live
    live := live
    stack := (List.range (min Config.stackDepth (leAt b 0 1))).filterMap fun i => stackEntryOf (bytesAt b (72 + 12 * i) 12)
    calls := (List.range (min Config.callDepth (leAt b 5 1))).map fun i =>
      callFrameOf (bytesAt b (8 + 8 * i) 8) ((was.calls[i]?.map (·.saved)).getD [])
    gang := leAt b 4 1
    hold := if (b.getD 3 0).getLsbD 1 then .phase else .none
    tag := b.getD 2 0
    tagSet := (b.getD 3 0).getLsbD 0
    stall := none }

/-- The block (R359); flags: in handler mode, held on a record, evicted; record: its index or all ones. -/
def Warp.block (w : Warp) (flags record : Nat) : List Byte :=
  let pcs (t : StrandSt) : List Byte := padTo 64 (bytesOfWords (t.slices.map (·.pc)))
  let depth (i : Nat) : Byte := BitVec.ofNat 8 ((w.c.slice i).calls.length + 16 * (w.a.slice i).calls.length)
  bytesOfWord w.cause ++ leBytes 1 w.width ++ leBytes 1 flags ++ [0, 0] ++ leBytes 4 record ++ [0, 0, 0, 0] ++ pcs w.c ++ pcs w.a ++
  padTo 16 ((List.range (w.width / 4)).map depth) ++ leBytes 8 (activeMaskOf w.c.slices) ++ leBytes 8 (activeMaskOf w.a.slices) ++
  List.replicate 80 0 ++ (widthMask w.width :: w.m.toList.tail).flatMap (fun m => leBytes 8 m.toNat) ++
  (widthMask w.width :: w.g.toList.tail).flatMap (fun m => leBytes 8 m.toNat) ++ bytesOfWords w.y.toList ++
  padTo 64 ((List.range (w.width / 4)).flatMap fun i =>
    let k := w.lane (4 * i)
    leBytes 1 k.lq.length ++ leBytes 1 k.sq.length ++ leBytes 1 k.iq.length ++ [0]) ++
  w.lanes.flatMap laneBytes ++
  (List.range (w.width / 4)).flatMap fun i => (w.c.slice i).image ++ (w.a.slice i).image

def noRecord : Nat := 0xFFFFFFFF

/-- Write a warp's context block. -/
def State.saveContext (s : State) (g : Group) (w : Warp) (flags record : Nat) : State :=
  s.vStore (g.die, g.core) g.dom w.ctx (w.block flags record)

/-- A stopped slice: a wait at REGANG or a barrier is withdrawn (R148, R247). -/
def Slice.stop (sl : Slice) : Slice := { sl with hold := if sl.hold == .phase then .phase else .none, stall := none }

/-- What a warp keeps of itself beside its block. -/
def Warp.keep (w : Warp) (cause : Word) (r : Option Raised) (kept : List Raised) (since : Nat) : Saved :=
  ⟨w.c.slices.map Slice.stop, w.a.slices.map Slice.stop, cause, (r.map (·.gang)).getD [], (r.map (·.strand)).getD .c,
   (r.map fun r => !r.done).getD false, w.mode, kept, since, r, w.c.phaseId, w.a.phaseId⟩

def StrandSt.of (sls : List Slice) : StrandSt := ⟨sls, false, none, false, none, none, [], [], 0, false, false, []⟩

/-- A warp reloaded from its context block, with the changes made there, at the saved PCs (R357, R360). move: RETT.next. RETT clears the cause
register, and so does a parked warp's return as by RETT (R363); what else reloads a warp leaves it (R50). -/
def State.reload (s : State) (dom : Nat) (w : Warp) (move : Bool) : Warp :=
  match w.saved with
  | none => w
  | some v =>
    let b := s.vBytes dom w.ctx (ctxBytes w.width)
    let wd (off : Nat) : Word := BitVec.ofNat 32 (leAt b off 4)
    let bump (st : Strand) (i : Nat) (pc : Word) : Word :=
      if move && v.advance && v.issuedStrand == st && v.issued.contains i then pc + 1 else pc
    let slices (pcs act half : Nat) (st : Strand) (sls : List Slice) : List Slice := mapIdxList (fun i (sl : Slice) =>
      sliceOf (bytesAt b (0x200 + 512 * w.width + 1024 * i + half) 512) (bump st i (wd (pcs + 4 * i)))
        (BitVec.ofNat 4 (leAt b act 8 / 16 ^ i)) sl) sls
    let mask (base i : Nat) : Mask := if i == 0 then 0 else BitVec.ofNat 64 (leAt b (base + 8 * i) 8) &&& widthMask w.width
    let lane (l : Nat) : Lane :=
      let o := 0x200 + 512 * l
      let cnt (k depth : Nat) : Nat := min depth (leAt b (0x1C0 + 4 * (l / 4) + k) 1)
      { a := Vector.ofFn fun i => wd (o + 4 * i.val), f := Vector.ofFn fun i => wd (o + 0x20 + 4 * i.val),
        x := Vector.ofFn fun i => wd (o + 0xA0 + 4 * i.val), status := (BitVec.ofNat 8 (leAt b (o + 0x120) 1)) &&& 0x3F,
        lq := (List.range (cnt 0 Config.lqDepth)).map fun i => ⟨0, some (wd (o + 0x130 + 4 * i))⟩,
        sq := (List.range (cnt 1 Config.sqDepth)).map fun i => wd (o + 0x170 + 4 * i),
        iq := (List.range (cnt 2 Config.iqDepth)).map fun i => wd (o + 0x190 + 4 * i) }
    let stop (st : Strand) (t : StrandSt) : StrandSt := { t with stopped := v.kept.any (·.strand == st) }
    { w with
        lanes := (List.range w.width).map lane
        m := Vector.ofFn fun i => mask 0x100 i.val
        g := Vector.ofFn fun i => mask 0x140 i.val
        y := Vector.ofFn fun i => wd (0x180 + 4 * i.val)
        cause := if w.handler || w.parkedFor then 0 else w.cause
        mode := v.mode
        c := stop .c { StrandSt.of (slices 0x10 0xA0 0 .c v.c) with phaseId := v.phaseC, publish := w.c.publish }
        a := stop .a { StrandSt.of (slices 0x50 0xA8 512 .a v.a) with phaseId := v.phaseA, publish := w.a.publish }
        busy := []
        longs := []
        accs := w.accs.filter (·.kind != .load)
        pending := v.kept
        handler := false
        saved := none
        record := none
        held := false
        parkedFor := false
        evictNamed := false
        evicted := false
        stuckSince := none }

end Sys2Proof.Machine
end

