-- ==== Sys2Proof/Machine/Ops.lean ====
section
/-! DEFINITION. Sys2Proof/Machine/Ops.lean: the operations the meanings share: how an issue ends (R139, R142, R145), causes and taking one
(R348 to R358), the return from one (R357), destination writes (R108) and long results (R81). -/

namespace Sys2Proof.Machine

/-! ## Reconvergence (R142, R143, R145) -/

/-- A slice with the queues of its four lanes, and the tags that clashed at a join. -/
structure Settled where
  sl : Slice
  qs : List (Vector Word 8)
  clash : Option (Byte × Byte)
deriving DecidableEq, Repr

/-- Stack entries below the current call level. -/
def Slice.base (sl : Slice) : Nat :=
  match sl.calls with
  | f :: _ => f.depth
  | [] => 0

/-- The callee's j youngest entries on top of the restored queue (R32). -/
def returnQueue (saved callee : Vector Word 8) (j : Nat) : Vector Word 8 :=
  Vector.ofFn fun i => if i.val < j then callee.getD i.val 0 else saved.getD (i.val - j) 0

/-- The end of a join: the slice resumes at rcv with the arms' tags compared (R142). -/
def joinArms (x : Settled) (rest : List StackEntry) (rcv : Word) (mask : Nib) (outerTag : Byte) (outerSet : Bool) (nt : Arm)
    (free : Byte) : Settled :=
  let sl := x.sl
  let taken : Arm := ⟨sl.tag, sl.tagSet, sl.active != 0⟩
  let held := [nt, taken].filter (·.held)
  let clash := nt.held && taken.held && nt.tag != taken.tag
  let outer : Byte × Bool := match held.find? (·.set) with
    | some k => (if clash then free else k.tag, true)
    | none => (outerTag, outerSet)
  let lo := if nt.tag.toNat ≤ taken.tag.toNat then nt.tag else taken.tag
  let hi := if nt.tag.toNat ≤ taken.tag.toNat then taken.tag else nt.tag
  { x with
      sl := { sl with pc := rcv, active := mask &&& sl.live, stack := rest, tag := outer.1, tagSet := outer.2 }
      clash := if clash then some (lo, hi) else x.clash }

/-- The innermost thing that ends for a slice: an arm, a loop emptied by EXIT or RET, or a call level; none when nothing does. -/
def settleStep (isC : Bool) (free : Byte) (x : Settled) : Option Settled :=
  let sl := x.sl
  if sl.base < sl.stack.length then
    match sl.stack with
    | .pending rcv mask pc :: .join r m ot os _ :: rest =>
      if sl.active == 0 || sl.pc == rcv then
        let nt : Arm := ⟨sl.tag, sl.tagSet, sl.active != 0⟩
        some { x with sl := { sl with pc := pc, active := mask &&& sl.live, stack := .join r m ot os (some nt) :: rest,
                                      tag := 0, tagSet := false } }
      else none
    | .join rcv mask ot os nt :: rest =>
      if sl.active == 0 || sl.pc == rcv then some (joinArms x rest rcv mask ot os (nt.getD ⟨0, false, false⟩) free) else none
    | .loop at_ mask :: rest =>
      if sl.active == 0 then some { x with sl := { sl with pc := at_ + 1, active := mask &&& sl.live, stack := rest } } else none
    | _ => none
  else if sl.active == 0 then
    match sl.calls with
    | f :: rest =>
      let back := f.returned &&& sl.live
      let qs := if isC then mapIdxList (fun j q =>
          let saved := f.saved.getD j q
          if back.getLsbD j then returnQueue saved q f.count else saved) x.qs
        else x.qs
      some { x with sl := { sl with pc := f.retPc, active := back, calls := rest }, qs := qs }
    | [] => none
  else none

/-- Let things end until nothing does, or until a join's tags clash: the slice then stands at the reconvergence point (R142). -/
def settle (isC : Bool) (free : Byte) : Nat → Settled → Settled
  | 0, x => x
  | n + 1, x =>
    if x.clash.isSome then x
    else
      match settleStep isC free x with
      | some x' => settle isC free n x'
      | none => x

/-! ## Causes raised -/

/-- A cause with nothing but its code, AUX, slice and strand. -/
def Raised.plain (code aux slice : Nat) (strand : Strand) (done : Bool) (pc : Word) (gang : List Nat) : Raised :=
  ⟨code, aux, slice, strand, done, 0xFF, 0xFF, 0, pc, 4 * slice, gang, none⟩

/-- The queues of a slice as they read (R82). -/
def Warp.queues (w : Warp) (free i : Nat) : List (Vector Word 8) :=
  (List.range 4).map fun j =>
    let l := 4 * i + j
    Vector.ofFn fun k => w.rd free l (.age k.val) ((w.lane l).a.getD k.val 0)

def isAge : Loc → Bool
  | .age _ => true
  | _ => false

/-- Forget what long results owe to places of a kind in the lanes of a mask. -/
def Warp.unmark (w : Warp) (on : Mask) (p : Loc → Bool) : Warp :=
  if w.busy.isEmpty then w else { w with busy := w.busy.filter fun b => !(on.getLsbD b.lane && p b.loc) }

def Warp.setQueues (w : Warp) (i : Nat) (qs : List (Vector Word 8)) : Warp :=
  (w.modLanes (nibMask i 15) fun l k => { k with a := qs.getD (l - 4 * i) k.a }).unmark (nibMask i 15) isAge

/-- Let one slice's arms and calls end (R142, R143, R145), raising 0x22 at a join whose arms' tags differ (R34). A slice with no live lane
keeps its PC (R385). -/
def Warp.settleSlice (w : Warp) (st : Strand) (free i : Nat) : Warp :=
  let t := w.strand st
  let sl := t.slice i
  let qs := if st == .c then w.queues free i else []
  let x : Settled := if sl.live == 0 then ⟨{ sl with stack := [], calls := [] }, qs, none⟩
    else settle (st == .c) ((Config.freeWord (free + 128 * i + 127)).setWidth 8) 256 ⟨sl, qs, none⟩
  let w1 := if st == .c && sl.live != 0 && x.sl.calls.length < sl.calls.length then w.setQueues i x.qs else w
  let w2 := w1.modStrand st fun t => { t with slices := updAt i (fun _ => x.sl) t.slices }
  match x.clash with
  | none => w2
  | some (lo, hi) =>
    let r := Raised.plain 0x22 (lo.toNat + 256 * hi.toNat) i st true x.sl.pc [i]
    { w2 with pending := w2.pending ++ [{ r with lane := 4 * i + firstOf 4 (x.sl.active.setWidth 64) }] }

def Warp.settleSlices (w : Warp) (st : Strand) (free : Nat) (who : List Nat) : Warp := who.foldl (fun w i => w.settleSlice st free i) w

/-! ## Gangs (R139, R146) -/

/-- Slices with equal keys issue together from here on. -/
def StrandSt.part (t : StrandSt) (who : List (Nat × Nat × Nat)) : StrandSt :=
  { t with slices := mapIdxList (fun i (sl : Slice) =>
      match who.find? (·.1 == i) with
      | some k => { sl with gang := ((who.find? fun j => j.2 == k.2).map (·.1)).getD i }
      | none => sl) t.slices }

/-- Those of some slices that can issue, keyed by a number and their PC. -/
def StrandSt.keyed (t : StrandSt) (who : List Nat) (key : Nat → Nat) : List (Nat × Nat × Nat) :=
  (who.filter fun i => (t.slice i).live != 0 && (t.slice i).hold == .none).map fun i => (i, key i, (t.slice i).pc.toNat)

/-- Release the slices of a strand held by h: they issue on at the next instruction, those with one key together. A cause that a join
raises on the way stops the strand (R348). -/
def Warp.release (w : Warp) (st : Strand) (h : Hold) (free : Nat) (key : Slice → Nat) : Warp :=
  let t := w.strand st
  let who := (List.range t.slices.length).filter fun i => (t.slice i).hold == h && (t.slice i).live != 0
  let w1 := w.modStrand st fun t => { t with slices := mapIdxList (fun i (sl : Slice) =>
    if who.contains i then { sl with hold := .none, pc := sl.pc + 1 } else sl) t.slices }
  let w2 := w1.settleSlices st free who
  w2.modStrand st fun t' => { t'.part (t'.keyed who fun i => key (t.slice i)) with stopped := t'.stopped || w.pending.length < w2.pending.length }

/-- When every slice with a live lane waits at a REGANG, those at one index issue on as one gang (R146). -/
def Warp.regang (w : Warp) (st : Strand) (free : Nat) : Warp :=
  let live := (w.strand st).slices.filter (·.live != 0)
  if !live.isEmpty && live.all (·.hold == .regang) then w.release st .regang free fun sl => sl.pc.toNat else w

/-! ## Barriers (R247) -/

/-- The slices of a strand outside handler mode. -/
def Warp.homeSlices (w : Warp) (st : Strand) : List Slice :=
  match w.saved with
  | some v => (match st with
    | .c => v.c
    | .a => v.a)
  | none => (w.strand st).slices

/-- The strand has exited, or has stopped at PHASE (R247, R248). -/
def Warp.excused (w : Warp) (st : Strand) : Bool :=
  (w.homeSlices st).all fun sl => sl.live == 0 || sl.hold == .phase

/-- Every slice of the strand with a live lane has issued the barrier. -/
def Warp.arrived (w : Warp) (st : Strand) (h : Hold) : Bool :=
  !(w.strand st).exited && (w.strand st).slices.all fun sl => sl.live == 0 || sl.hold == h

/-- Complete the barrier h of a strand over some groups when every warp has arrived or is excused. -/
def State.tryBarrier (s : State) (ks : List GroupKey) (st : Strand) (h : Hold) : State :=
  let ws := (ks.filterMap s.group?).flatMap (·.warps)
  if ws.any (·.arrived st h) && ws.all fun w => w.arrived st h || w.excused st then
    ks.foldl (fun s k => s.modGroup k fun g =>
      { g with warps := g.warps.map fun w => if w.arrived st h then w.release st h s.free (·.gang) else w }) s
  else s

/-- The group and cohort barriers that a change in group k may complete. -/
def State.barriers (s : State) (k : GroupKey) : State :=
  match s.group? k with
  | none => s
  | some g =>
    let co := g.cohort.map fun n => (⟨k.seq, n⟩ : GroupKey)
    [Strand.c, Strand.a].foldl (fun s st => (s.tryBarrier [k] st .bar).tryBarrier co st .cbar) s

/-! ## How an issue ends -/

/-- An issue occupies its front end for 1, 2 or 4 ck (R338); those of the C-strand's are charged to its domain (R397). -/
def State.occupy (s : State) (g : Group) (w : WarpKey) (st : Strand) (width : Nat) : State :=
  s.modCore g.die g.core fun k =>
    match st with
    | .c => { k with feUntil := s.now + width / 16, feDom := g.dom, lastC := some w }
    | .a => { k with aUntil := s.now + width / 16, lastA := some w }

/-- What the warp's locations hold as the instruction issues. -/
def Ctx.snap (c : Ctx) : Snap := ⟨c.warp.lanes, c.warp.y, c.warp.m⟩

/-- Issue ends: the PCs move, arms and calls end, gangs part, S parks the strand (R82), and a warp with a cause raised stops this strand
(R348, R351). -/
def Ctx.finish (c : Ctx) (h : Hdr) (upd : Nat → Slice → Slice) (s : State) (w : Warp) : State :=
  let st := c.iss.strand
  let w1 := w.modStrand st fun t =>
    { t with
        slices := mapIdxList (fun i (sl : Slice) => if c.slices.contains i then { upd i sl with stall := none } else sl) t.slices
        parked := h.sw
        walking := []
        walk := []
        midway := false
        first := false
        pops := t.pops.filter (·.1 != c.iss.gang) }
  let w2 := w1.settleSlices st c.free c.slices
  let w3 := (w2.modStrand st fun t => t.part (t.keyed c.slices fun _ => 0)).regang st c.free
  let w3' := { w3 with past := c.snap :: w3.past }
  let w4 := (if w3.pending.isEmpty then w3' else w3'.modStrand st fun t => { t with stopped := true }).recount s.now
  let s1 := ((s.modWarp c.iss.w fun _ => w4).occupy c.grp c.iss.w st w4.width).coreEvent c.grp.die c.grp.core (if st == .c then 1 else 2) c.grp.dom 1
  if (w4.strand st).slices.any fun sl => sl.live == 0 || sl.hold != .none then s1.barriers c.iss.w.group else s1

/-- The slice goes on at the next instruction. -/
def nextPc (_ : Nat) (sl : Slice) : Slice := { sl with pc := sl.pc + 1 }

/-- The next instruction, nothing else moved. -/
def Ctx.done (c : Ctx) (h : Hdr) (s : State) (w : Warp) : Host.Outcome State Fault Refusal := .next (c.finish h nextPc s w)

/-- The issue stalls on coupling queues (R16, R19). -/
def Ctx.stallOn (c : Ctx) (s : State) (q : Want) : State :=
  s.modWarp c.iss.w fun w => (w.modStrand c.iss.strand fun t =>
    { t with slices := mapIdxList (fun i (sl : Slice) => if c.slices.contains i then { sl with stall := some q } else sl) t.slices }).recount s.now

/-- Raise a cause of an instruction that has changed no state (R53). For 0x10 to 0x14 fetch of both strands has stopped (R349). -/
def Ctx.raise (c : Ctx) (s : State) (r : Raised) : State :=
  s.modWarp c.iss.w fun w =>
    let w1 := { w with pending := w.pending ++ [r] }
    let w2 := w1.modStrand c.iss.strand fun t =>
      { t with stopped := true, walking := [], walk := [], midway := false, first := false, pops := t.pops.filter (·.1 != c.iss.gang) }
    let both := 0x10 ≤ r.code && r.code ≤ 0x14
    (if both then w2.modStrand (other c.iss.strand) fun t => { t with stopped := true } else w2).recount s.now

/-- A plain cause of the gang: the lowest issuing slice (R50). -/
def Ctx.cause (c : Ctx) (code aux : Nat) : Raised :=
  let i := c.slices.headD 0
  Raised.plain code aux i c.iss.strand false (c.st.slice i).pc c.slices

def Ctx.trap (c : Ctx) (s : State) (code aux : Nat) : Host.Outcome State Fault Refusal := .next (c.raise s (c.cause code aux))

/-- A cause that one lane met. -/
def Ctx.trapLane (c : Ctx) (s : State) (code aux lane : Nat) : Host.Outcome State Fault Refusal :=
  .next (c.raise s { c.cause code aux with slice := lane / 4, lane := lane, pc := (c.st.slice (lane / 4)).pc })

/-- Go on when the coupling queues allow it (R16, R20). -/
def Ctx.gated (c : Ctx) (s : State) (g : Gate) (k : Host.Outcome State Fault Refusal) : Host.Outcome State Fault Refusal :=
  match g with
  | .go => k
  | .stall q => .next (c.stallOn s q)
  | .dead qs => c.trap s 0x24 qs.toNat

/-! ## Destinations (R22, R23, R108) -/

/-- Push onto the result queue. -/
def Lane.push (k : Lane) (v : Word) : Lane :=
  { k with a := Vector.ofFn fun i => if i.val = 0 then v else k.a.getD (i.val - 1) 0 }

/-- Marks follow ages as entries are pushed, and fall off with the oldest (R81). -/
def shiftMarks (on : Mask) (n : Nat) (bs : List Busy) : List Busy :=
  bs.filterMap fun b =>
    match b.loc with
    | .age i => if on.getLsbD b.lane then (if i + n < 8 then some { b with loc := .age (i + n) } else none) else some b
    | _ => some b

def Warp.push (w : Warp) (active exec : Mask) (res : Nat → Word) : Warp :=
  let w1 := w.modLanes active fun l k => k.push (if exec.getLsbD l then res l else 0)
  if w1.busy.isEmpty then w1 else { w1 with busy := shiftMarks active 1 w1.busy }

/-- Mark what long result id owes. -/
def Warp.owe (w : Warp) (id : Option Nat) (lanes : List Nat) (loc : Nat → Loc) : Warp :=
  match id with
  | some n => { w with busy := w.busy ++ lanes.map fun l => ⟨n, l, loc l⟩ }
  | none => w

/-- Write a result under a destination kind (R87, R108). id names the long result, if it is one. -/
def Ctx.write (c : Ctx) (dk fs : Nat) (exec : Mask) (res : Nat → Word) (id : Option Nat) (w : Warp) : Warp :=
  let ls := lanesOfMask w.width exec
  let frame (w : Warp) : Warp :=
    ((w.modLanes exec fun l k => { k with f := k.f.set! fs (res l) }).unmark exec (· == Loc.frame fs)).owe id ls fun _ => .frame fs
  match dk with
  | 0 => (w.push c.active exec res).owe id ls fun _ => .age 0
  | 1 => frame ((w.push c.active exec res).owe id ls fun _ => .age 0)
  | 2 => frame w
  | 3 =>
    if w.a.exited then w
    else
      let w1 := w.modLanes c.gangMask fun l k => { k with sq := k.sq ++ [if exec.getLsbD l then res l else 0] }
      w1.owe id ls fun l => .sq ((w.lane l).sq.length)
  | 4 =>
    if w.a.exited then w
    else
      let w1 := w.modLanes c.gangMask fun l k => { k with iq := k.iq ++ [if exec.getLsbD l then res l else 0] }
      w1.owe id ls fun l => .iq ((w.lane l).iq.length)
  | 5 =>
    match ls.head? with
    | some l => (({ w with y := w.y.set! fs (res l) }).unmark 1 (· == Loc.uni fs)).owe id [0] fun _ => .uni fs
    | none => w
  | 6 =>
    let i := fs % 8
    let v := ls.foldl (fun (m : Mask) l => if res l != 0 then m ||| (1 <<< l) else m &&& ~~~((1 : Mask) <<< l)) (w.m.getD i 0)
    (({ w with m := w.m.set! i v }).unmark exec (· == Loc.mask i)).owe id ls fun _ => .mask i
  | _ => w

/-- Pop n LQ entries from every lane of the issuing slices (R18). -/
def Ctx.popLq (c : Ctx) (n : Nat) (w : Warp) : Warp :=
  if n == 0 then w else w.modLanes c.gangMask fun _ k => { k with lq := k.lq.drop n }

/-- Raise the arithmetic cause of an instruction at pc that has completed (R27). -/
def Warp.raiseArith (w : Warp) (st : Strand) (pc : Word) (fl : LaneFlags) : Warp :=
  match arithCause w.mode fl with
  | none => w
  | some (code, lane) =>
    ({ w with pending := w.pending ++ [{ Raised.plain code 0 (lane / 4) st true pc [lane / 4] with lane := lane }] }).modStrand st fun t =>
      { t with stopped := true }

/-- Flags and the cause they raise. -/
def Warp.meetFlags (w : Warp) (st : Strand) (pc : Word) (fl : LaneFlags) : Warp := (w.setFlags fl).raiseArith st pc fl

/-- A result written by a short instruction, or held outstanding by a long one (R81): with the guard, the destination, each executing
lane's word and flags, and the LQ entries popped. -/
def Ctx.result (c : Ctx) (s : State) (h : Hdr) (long : Bool) (dk : BitVec 3) (fs : BitVec 5) (pops : Nat) (res : Nat → Res) :
    Host.Outcome State Fault Refusal :=
  let exec := c.exec h
  let table := (lanesOfMask c.warp.width exec).map fun l => (l, res l)
  let word (l : Nat) : Word := ((table.find? (·.1 == l)).map (·.2.word)).getD 0
  let fl : LaneFlags := table.map fun p => (p.1, p.2.flags)
  let w0 := c.popLq pops c.warp
  if long then
    let w1 := c.write dk.toNat fs.toNat exec word (some s.nextId) w0
    c.done h s.bumpId { w1 with longs := w1.longs ++ [⟨s.nextId, c.iss.strand, c.slices.headD 0, fl, none, c.pc⟩] }
  else c.done h s ((c.write dk.toNat fs.toNat exec word none w0).meetFlags c.iss.strand c.pc fl)

/-- A C-strand instruction of format Q or QI: its queues allow it, its sources are read, each executing lane computes (R106). -/
def Ctx.compute (c : Ctx) (s : State) (h : Hdr) (long : Bool) (dk : BitVec 3) (fs : BitVec 5) (one : Word) (codes : List (BitVec 7))
    (f : (Nat → List Word) → Nat → Res) : Host.Outcome State Fault Refusal :=
  c.gated s ((c.lqGate (lqNeed codes)).and (c.pushGate dk.toNat)) <|
    c.result s h long dk fs (lqPops codes) (f (c.reads one codes))

/-- A lane-by-lane instruction. -/
def Ctx.perLane (c : Ctx) (s : State) (h : Hdr) (long : Bool) (dk : BitVec 3) (fs : BitVec 5) (one : Word) (codes : List (BitVec 7))
    (f : List Word → Res) : Host.Outcome State Fault Refusal :=
  c.compute s h long dk fs one codes fun rd l => f (rd l)

/-! ## Taking a cause (R348 to R358) -/

/-- The handler object of a width (R355), and where it starts: C entry, A entry, mode word. -/
def State.handlerImage (s : State) (width : Nat) : List Byte := (tableGet width s.module.handlers).getD []

def handlerEntry (img : List Byte) : Word × Word × Word :=
  let p := leAt img 0x50 8
  (BitVec.ofNat 32 (leAt img (p + 8) 4 / 8), BitVec.ofNat 32 (leAt img (p + 12) 4 / 8), BitVec.ofNat 32 (leAt img (p + 4) 4))

/-- Slices at one PC, one gang, with the lanes of some of them. -/
def freshSlices (width : Nat) (pc : Word) (on : Nat → Bool) : List Slice :=
  let first := ((List.range (width / 4)).find? on).getD 0
  (List.range (width / 4)).map fun i => if on i then ⟨pc, 15, 15, [], [], first, .none, 0, false, none⟩ else { Slice.zero with pc := pc }

/-- The lane state at a warp's start (R36): X0 an address, x2 to x4 the group, warp and phase. -/
def startLanes (width : Nat) (addr : Word64) (grp warp phase : Nat) : List Lane :=
  List.replicate width { Lane.zero with
    x := ((((Lane.zero.x.set! 0 (addr.setWidth 32)).set! 1 (addr.extractLsb' 32 32)).set! 2 (BitVec.ofNat 32 grp)).set! 3
      (BitVec.ofNat 32 warp)).set! 4 (BitVec.ofNat 32 phase) }

/-- The y registers at a warp's start (R36). -/
def startY (grp warp cohort slot : Nat) (addr : Word64) (phase width : Nat) : Vector Word 16 :=
  Vector.ofFn fun i =>
    match i.val with
    | 0 => BitVec.ofNat 32 grp
    | 1 => BitVec.ofNat 32 warp
    | 2 => BitVec.ofNat 32 cohort
    | 3 => BitVec.ofNat 32 slot
    | 4 => addr.setWidth 32
    | 5 => addr.extractLsb' 32 32
    | 6 => BitVec.ofNat 32 phase
    | 7 => BitVec.ofNat 32 width
    | _ => 0

/-- The cause register (R50). -/
def causeWord (code slice : Nat) (st : Strand) (aux : Nat) : Word :=
  BitVec.ofNat 32 (code % 256 + (if st == .a then 2048 else 0) + slice % 16 * 4096 + aux % 65536 * 65536)

/-- The handler starts in the warp (R355): block written, state of R36 with the block's address, every lane of the slices that live. -/
def State.enterHandler (s : State) (g : Group) (w : Warp) (cause : Word) (record : Option Nat) (v : Saved) : State :=
  let w0 := { w with cause := cause }
  let s1 := s.saveContext g w0 1 (record.getD noRecord)
  let (pcC, pcA, mode) := handlerEntry (s.handlerImage w.width)
  let live (i : Nat) : Bool := ((v.c.getD i Slice.zero).live ||| (v.a.getD i Slice.zero).live) != 0
  let on (i : Nat) : Bool := live i || !((List.range (w.width / 4)).any live)
  let addr := BitVec.ofNat 64 w.ctx
  let w1 : Warp := { w0 with
    lanes := startLanes w.width addr g.key.grp w.key.warp g.phase
    m := Vector.replicate 8 0
    g := Vector.replicate 8 0
    y := startY g.key.grp w.key.warp g.cohortNo g.slot addr g.phase w.width
    mode := mode
    c := { StrandSt.of (freshSlices w.width pcC on) with publish := w.c.publish }
    a := { StrandSt.of (freshSlices w.width pcA on) with publish := w.a.publish }
    busy := []
    pending := []
    handler := true
    held := false
    ended := false
    saved := some { v with cause := cause, since := s.nextId }
    record := record
    stuckSince := none }
  s1.modWarp w.key fun _ => w1

/-- Every long result written and every LQ load returned (R350). -/
def Warp.quiet (w : Warp) : Bool := w.longs.isEmpty && !w.lqOutstanding

/-- A group is not swapped for its time slice while a warp of it is in handler mode, held or parked (R358). -/
def Group.swapBlocked (g : Group) : Bool := g.warps.any fun w => w.handler || w.held || w.parkedFor

/-- An instruction of the warp has issued and its checks wait for walks: the warp is at no instruction boundary (R349). -/
def Warp.midway (w : Warp) : Bool := w.c.midway || w.a.midway

/-- Asynchronous causes that could be taken now: not in handler mode, not before the first instruction after a resume, not before an
instruction that has issued is done (R349, R352, R358). -/
def Warp.asyncNow (g : Group) (w : Warp) : List Nat :=
  if w.handler || w.held || w.parkedFor || w.evicted || w.c.first || w.a.first || w.midway then []
  else w.asyncs.filter fun code => code != 0x51 || !g.swapBlocked

/-- The lowest cause pending for a warp (R351). -/
def Warp.lowest (g : Group) (w : Warp) : Option Nat := (w.pending.map (·.code) ++ w.asyncNow g).min?

/-- The record of a lowest code: of the C-strand if both raised it, of the lowest slice (R351) and its lowest lane (R361). -/
def Warp.chosen (w : Warp) (code : Nat) : Option Raised :=
  let rs := w.pending.filter (·.code == code)
  let cs := rs.filter (·.strand == .c)
  argMin (fun r => 64 * r.slice + r.lane) (if cs.isEmpty then rs else cs)

/-- What a fault record says of a cause (R361). -/
def faultInfo (g : Group) (w : Warp) (r : Raised) (kind state : Nat) : FaultInfo :=
  { kind := kind, state := state, code := r.code, seq := w.key.seq, grp := w.key.grp, warp := w.key.warp, strand := r.strand,
    slice := r.slice, walk := r.walk, access := r.access, va := r.va, pc := r.pc.toNat, lane := r.lane, ctx := w.ctx, cursor := 0,
    die := g.die, core := g.core }

/-- The cause goes to the host's fault queue (R354). -/
def hostCause (r : Raised) : Bool := r.code == 0x10 || (r.code == 0x11 && r.aux != 0xFFFF)

/-- The part consumes 0x51 (R339); what lost to it and changed no state arises again (R351). -/
def Warp.dropSlice (w : Warp) : Warp :=
  if w.asyncs.contains 0x51 then
    { w with asyncs := w.asyncs.filter (· != 0x51), pending := [], c := { w.c with stopped := false }, a := { w.a with stopped := false } }
  else w

/-- The 0x01 of one bad row has been taken (R217): the checks of other rows are still due. -/
def Warp.checkTaken (w : Warp) (r : Raised) : Warp :=
  match r.check with
  | none => w
  | some .warp => { w with machineCheck := none }
  | some (.latch b) => { w with latchCheck := w.latchCheck.filter (· != (b, r.aux)) }

/-- Take the lowest cause of a warp and deliver it; none when nothing can be taken yet (R349, R350), when the warp has taken 0x50 and is being
evicted (R364), or when its fault record is not free (R361). -/
def State.takeCause (s : State) (g : Group) (w : Warp) : Option State :=
  if !w.quiet || w.held || w.parkedFor || w.evicted || w.evictNamed || w.midway then none
  else
    match w.lowest g with
    | none => none
    | some code =>
      let s0 := s.coreEvent g.die g.core 11 g.dom 1
      if code == 0x50 then
        some (s0.modWarp w.key fun w =>
          { w with asyncs := w.asyncs.filter (· != 0x50), evictNamed := true, pending := w.pending.filter (·.done),
                   c := { w.c with stopped := true }, a := { w.a with stopped := true } })
      else if code == 0x51 then
        if g.warps.all fun v => !v.asyncs.contains 0x51 || (v.quiet && v.lowest g == some 0x51) then
          some ((s0.modGroup g.key fun g => { g with warps := g.warps.map Warp.dropSlice }).swapOut g.key)
        else none
      else
        match w.chosen code with
        | none => -- 0x41
          let w' := { w with asyncs := w.asyncs.filter (· != code) }
          let kept := w.pending.filter (·.done)
          some (s0.enterHandler g w' (causeWord code 0 .c 0) none (w.keep 0 none kept 0))
        | some r =>
          let kept := w.pending.filter fun q => q.done && q.code != code
          if w.handler then
            match s0.newFault g.dom (faultInfo g w r 3 2) (some w.key) none none with
            | none => none
            | some (idx, s1) => some (s1.endLaunch w.key.seq 0x0012 idx)
          else if hostCause r then
            match s0.newFault g.dom (faultInfo g w r 0 1) (some w.key) none (some r) with
            | none => none
            | some (idx, s1) =>
              let cause := causeWord r.code r.slice r.strand idx
              let w1 := { w with
                cause := cause
                pending := []
                held := true
                record := some idx
                saved := some (w.keep cause (some r) kept s.nextId)
                c := { w.c with slices := w.c.slices.map Slice.stop }
                a := { w.a with slices := w.a.slices.map Slice.stop } }
              some ((s1.saveContext g w1 2 idx).modWarp w.key fun _ => w1)
          else
            let cause := causeWord r.code r.slice r.strand r.aux
            let w1 := w.checkTaken r
            some (s0.enterHandler g w1 cause none (w1.keep cause (some r) kept 0))

/-! ## The return from a cause (R357) -/

/-- Slices of a strand that a kept 0x22 already names: they stand where their join's tags clashed. -/
def Warp.clashed (w : Warp) (st : Strand) : List Nat := (w.pending.filter fun r => r.code == 0x22 && r.strand == st).map (·.slice)

/-- A strand goes on at its saved PCs: what ends there ends now (R142), slices of one gang with different PCs part, and a first instruction
stands before any asynchronous cause where some slice can issue (R352). -/
def Warp.resumeAt (w : Warp) (st : Strand) (free : Nat) : Warp :=
  let is := (List.range (w.strand st).slices.length).filter fun i => ((w.strand st).slice i).hold == .none && !((w.clashed st).contains i)
  let w1 := w.settleSlices st free is
  w1.modStrand st fun t =>
    let keys := t.keyed (List.range t.slices.length) fun i => (t.slice i).gang
    { t.part keys with stopped := t.stopped || w.pending.length < w1.pending.length, first := !keys.isEmpty }

/-- A warp reloaded from its context block, ready to go on (R357, R366). -/
def State.resumed (s : State) (dom : Nat) (w : Warp) (move : Bool) : Warp :=
  ((s.reload dom w move).resumeAt .c s.free).resumeAt .a (s.free + freeStep)

/-- The warp returns from the handler, or from a parking record (R363). -/
def State.returnFrom (s : State) (g : Group) (w : Warp) (move : Bool) : State :=
  let w' := s.resumed g.dom w move
  (({ s with free := s.free + 2 * freeStep }).modWarp w.key fun _ => w').barriers g.key

/-- A strand of the handler has ended: it exited, or every slice of it with a live lane issued RETT. -/
def StrandSt.returned (t : StrandSt) : Bool :=
  t.slices.all fun sl => sl.live == 0 || sl.hold == .rett true || sl.hold == .rett false

/-- Retire a warp as though both strands had executed EXIT (R357, R20). Poison that was met before the handler, and what is met yet, is still
taken (R385). -/
def Warp.retire (w : Warp) : Warp :=
  let off (sls : List Slice) : List Slice := sls.map fun sl => { sl with live := 0, active := 0, stack := [], calls := [], hold := .none, stall := none }
  { w with
      c := { StrandSt.of (off w.c.slices) with phaseId := (w.saved.map (·.phaseC)).getD w.c.phaseId }
      a := { StrandSt.of (off w.a.slices) with phaseId := (w.saved.map (·.phaseA)).getD w.a.phaseId }
      handler := false
      saved := none
      pending := ((w.saved.map (·.kept)).getD []).filter (·.code == 0x08)
      cause := 0
      ended := true }

/-- What the handler stored is still on its way, so a return or a parking waits: the block must be read with its changes (R357; log 15). -/
def Warp.storesOut (w : Warp) : Bool :=
  match w.saved with
  | some v => w.handler && w.accs.any fun a => v.since ≤ a.id && a.kind != .load && a.units.any (·.level != .panel)
  | none => false

/-- The handler has ended in both strands (R357): it returns, or, when both have exited, the warp retires. -/
def State.handlerEnds (s : State) (k : WarpKey) : State :=
  match (s.group? k.group).bind fun g => (g.warp? k).map fun w => (g, w) with
  | none => s
  | some (g, w) =>
    if w.handler && !w.c.exited && w.c.returned && w.a.returned then
      s.returnFrom g w (w.c.slices.any fun sl => sl.live != 0 && sl.hold == .rett true)
    else if w.handler && w.bothExited then (s.modWarp k Warp.retire).barriers k.group
    else s

end Sys2Proof.Machine
end

