-- ==== Sys2Proof/Machine/IntOps.lean ====
section
/-! DEFINITION. Sys2Proof/Machine/IntOps.lean: integer and logic instructions (R111 to R117) and their immediate forms (R99, R109). -/

namespace Sys2Proof.Machine

/-! ## Elements (R57, R111) -/

/-- Element width of an integer type code 0 to 3. -/
def intW (ty : Nat) : Nat := if ty < 2 then 32 else 16

/-- The type is signed: .i32, .i16x2. -/
def intS (ty : Nat) : Bool := ty % 2 == 0

/-- Compute element by element: f gets the elements at one place of every source. -/
def perElem (w : Nat) (f : List Nat → Nat × Byte) (srcs : List Word) : Res :=
  if w == 32 then
    let r := f (srcs.map (·.toNat))
    ⟨BitVec.ofNat 32 r.1, r.2⟩
  else
    let lo := f (srcs.map fun v => v.toNat % 65536)
    let hi := f (srcs.map fun v => v.toNat / 65536)
    ⟨BitVec.ofNat 32 (lo.1 % 65536 + 65536 * (hi.1 % 65536)), lo.2 ||| hi.2⟩

/-- An element's value in its type. -/
def asInt (signed : Bool) (w n : Nat) : Int := if signed && 2 ^ (w - 1) ≤ n then (n : Int) - (2 ^ w : Nat) else n

/-- A value modulo 2^w. -/
def wrapInt (w : Nat) (v : Int) : Nat := (v % (2 ^ w : Nat)).toNat

/-- The exact result, wrapped, or with SAT the nearer bound and SX (R58, R112). -/
def reduceInt (signed : Bool) (w : Nat) (sat : Bool) (v : Int) : Nat × Byte :=
  let lo := intMin signed w
  let hi := intMax signed w
  if sat && v < lo then (wrapInt w lo, flagSX)
  else if sat && hi < v then (wrapInt w hi, flagSX)
  else (wrapInt w v, 0)

/-- An instruction on exact integers, reduced once. -/
def exactInt (ty : Nat) (sat : Bool) (f : List Int → Int) (srcs : List Word) : Res :=
  let w := intW ty
  perElem w (fun es => reduceInt (intS ty) w sat (f (es.map (asInt (intS ty) w)))) srcs

/-- An instruction on the bits of each element, with no flag. -/
def bitsInt (ty : Nat) (f : Nat → List Nat → Nat) (srcs : List Word) : Res :=
  perElem (intW ty) (fun es => (f (intW ty) es, 0)) srcs

def at0 {α : Type} [Inhabited α] (l : List α) : α := l.getD 0 default
def at1 {α : Type} [Inhabited α] (l : List α) : α := l.getD 1 default
def at2 {α : Type} [Inhabited α] (l : List α) : α := l.getD 2 default

/-! ## Results -/

def addInt (ty : Nat) (sat : Bool) : List Word → Res := exactInt ty sat fun v => at0 v + at1 v
def subInt (ty : Nat) (sat : Bool) : List Word → Res := exactInt ty sat fun v => at0 v - at1 v
def mulInt (ty : Nat) (sat : Bool) : List Word → Res := exactInt ty sat fun v => at0 v * at1 v
def madInt (ty : Nat) (sat : Bool) : List Word → Res := exactInt ty sat fun v => at0 v * at1 v + at2 v
def mulhInt (ty : Nat) : List Word → Res := exactInt ty false fun v => (at0 v * at1 v) / (2 ^ intW ty : Nat)
def minInt (ty : Nat) : List Word → Res := exactInt ty false fun v => if at0 v ≤ at1 v then at0 v else at1 v
def maxInt (ty : Nat) : List Word → Res := exactInt ty false fun v => if at0 v ≤ at1 v then at1 v else at0 v
def absInt (ty : Nat) (sat : Bool) : List Word → Res := exactInt ty sat fun v => if at0 v < 0 then -(at0 v) else at0 v
def negInt (ty : Nat) (sat : Bool) : List Word → Res := exactInt ty sat fun v => -(at0 v)

/-- Quotient, remainder and whether the division is a DZ event (R113). -/
def divide (signed : Bool) (w : Nat) (a b : Int) : Int × Int × Bool :=
  if b == 0 then (if signed then -1 else intMax false w, a, true)
  else if signed && a == intMin true w && b == -1 then (a, 0, true)
  else (Int.tdiv a b, a - Int.tdiv a b * b, false)

def divInt (ty : Nat) (rem : Bool) : List Word → Res :=
  perElem (intW ty) fun es =>
    let v := es.map (asInt (intS ty) (intW ty))
    let (q, r, dz) := divide (intS ty) (intW ty) (at0 v) (at1 v)
    (wrapInt (intW ty) (if rem then r else q), if dz then flagDZ else 0)

/-- Condition codes of R114. -/
def condHolds (cond : Nat) (a b : Int) : Bool :=
  match cond with
  | 0 => a == b
  | 1 => a != b
  | 2 => a < b
  | 3 => a ≤ b
  | 4 => b < a
  | _ => b ≤ a

def cmpInt (ty cond : Nat) : List Word → Res :=
  perElem (intW ty) fun es =>
    let v := es.map (asInt (intS ty) (intW ty))
    (if condHolds cond (at0 v) (at1 v) then 2 ^ intW ty - 1 else 0, 0)

def popCount : Nat → Nat → Nat
  | 0, _ => 0
  | k + 1, n => n % 2 + popCount k (n / 2)

/-- Leading zeros of a w-bit element. -/
def leadingZeros (w n : Nat) : Nat := if n == 0 then w else w - 1 - Nat.log2 n

def reverseBits : Nat → Nat → Nat
  | 0, _ => 0
  | k + 1, n => n % 2 * 2 ^ k + reverseBits k (n / 2)

def shlInt (ty : Nat) : List Word → Res := bitsInt ty fun w v => at0 v * 2 ^ (at1 v % w) % 2 ^ w
def shrInt (ty : Nat) : List Word → Res := bitsInt ty fun w v => at0 v / 2 ^ (at1 v % w)
/-- SAR fills with the element's top bit whatever the type (R115). -/
def sarInt (ty : Nat) : List Word → Res :=
  bitsInt ty fun w v => wrapInt w (asInt true w (at0 v) / (2 ^ (at1 v % w) : Nat))
def rotInt (ty : Nat) : List Word → Res :=
  bitsInt ty fun w v => at0 v * 2 ^ (at1 v % w) % 2 ^ w + at0 v / 2 ^ (w - at1 v % w)
def popcInt (ty : Nat) : List Word → Res := bitsInt ty fun w v => popCount w (at0 v)
def clzInt (ty : Nat) : List Word → Res := bitsInt ty fun w v => leadingZeros w (at0 v)
def brevInt (ty : Nat) : List Word → Res := bitsInt ty fun w v => reverseBits w (at0 v)

/-- BFX (R116). -/
def bitExtract (signed : Bool) (a b c : Word) : Word :=
  let pos := b.toNat % 32
  let len := min (c.toNat % 64) 32
  let v := a.toNat / 2 ^ pos % 2 ^ len
  if len == 0 then 0 else BitVec.ofInt 32 (asInt signed len v)

/-- BFI (R116): bits pos to min(pos + len, 32) − 1 of a replaced by the low bits of b. -/
def bitInsert (a b c : Word) : Word :=
  let pos := c.toNat % 32
  let len := min (c.toNat / 256 % 64) 32
  let field : Word := ((BitVec.allOnes 32) >>> (32 - len)) <<< pos
  (a &&& ~~~field) ||| ((b <<< pos) &&& field)

/-- SELH's halves (R117). -/
def pickHalf (k : Nat) (a b : Word) : BitVec 16 :=
  match k with
  | 0 => a.extractLsb' 0 16
  | 1 => a.extractLsb' 16 16
  | 2 => b.extractLsb' 0 16
  | _ => b.extractLsb' 16 16

def plainRes (w : Word) : Res := ⟨w, 0⟩

/-! ## The shared shapes -/

/-- Format Q with k sources, short or long. -/
def intQ (k : Nat) (long : Bool) (f : FormQ → List Word → Res) (h : Hdr) (q : FormQ) (s : State) : Host.Outcome State Fault Refusal :=
  withCtx s fun c => c.perLane s h long q.dk q.fs (oneOf q.ty.toNat) ([q.sa, q.sb, q.sc].take k) (f q)

/-- Format QI: the register source and IMM (R109). -/
def immQI (f : Nat → List Word → Res) (h : Hdr) (q : FormQI) (s : State) : Host.Outcome State Fault Refusal :=
  withCtx s fun c => c.perLane s h false q.dk q.fs (oneOf q.ty.toNat) [q.sa] fun v => f q.ty.toNat (v ++ [q.imm])

/-! ## Meanings -/

/-- IADD (R111, R112). -/
def execIadd (h : Hdr) (q : FormQ) (s : State) : Host.Outcome State Fault Refusal := intQ 2 false (fun q => addInt q.ty.toNat q.sat) h q s
/-- ISUB (R111, R112). -/
def execIsub (h : Hdr) (q : FormQ) (s : State) : Host.Outcome State Fault Refusal := intQ 2 false (fun q => subInt q.ty.toNat q.sat) h q s
/-- IMUL (R111, R112). -/
def execImul (h : Hdr) (q : FormQ) (s : State) : Host.Outcome State Fault Refusal := intQ 2 false (fun q => mulInt q.ty.toNat q.sat) h q s
/-- IMULH (R111): bits 2w − 1 to w of the exact product. -/
def execImulh (h : Hdr) (q : FormQ) (s : State) : Host.Outcome State Fault Refusal := intQ 2 false (fun q => mulhInt q.ty.toNat) h q s
/-- IMAD (R112). -/
def execImad (h : Hdr) (q : FormQ) (s : State) : Host.Outcome State Fault Refusal := intQ 3 false (fun q => madInt q.ty.toNat q.sat) h q s
/-- IDIV (R113), long. -/
def execIdiv (h : Hdr) (q : FormQ) (s : State) : Host.Outcome State Fault Refusal := intQ 2 true (fun q => divInt q.ty.toNat false) h q s
/-- IREM (R113), long. -/
def execIrem (h : Hdr) (q : FormQ) (s : State) : Host.Outcome State Fault Refusal := intQ 2 true (fun q => divInt q.ty.toNat true) h q s
/-- IMIN (R111). -/
def execImin (h : Hdr) (q : FormQ) (s : State) : Host.Outcome State Fault Refusal := intQ 2 false (fun q => minInt q.ty.toNat) h q s
/-- IMAX (R111). -/
def execImax (h : Hdr) (q : FormQ) (s : State) : Host.Outcome State Fault Refusal := intQ 2 false (fun q => maxInt q.ty.toNat) h q s
/-- IABS (R112). -/
def execIabs (h : Hdr) (q : FormQ) (s : State) : Host.Outcome State Fault Refusal := intQ 1 false (fun q => absInt q.ty.toNat q.sat) h q s
/-- INEG (R112). -/
def execIneg (h : Hdr) (q : FormQ) (s : State) : Host.Outcome State Fault Refusal := intQ 1 false (fun q => negInt q.ty.toNat q.sat) h q s
/-- ICMP (R114). -/
def execIcmp (h : Hdr) (q : FormQ) (s : State) : Host.Outcome State Fault Refusal :=
  intQ 2 false (fun q => cmpInt q.ty.toNat q.sub.toNat) h q s
/-- AND (R111). -/
def execAndBits (h : Hdr) (q : FormQ) (s : State) : Host.Outcome State Fault Refusal :=
  intQ 2 false (fun _ v => plainRes (src v 0 &&& src v 1)) h q s
/-- OR (R111). -/
def execOrBits (h : Hdr) (q : FormQ) (s : State) : Host.Outcome State Fault Refusal :=
  intQ 2 false (fun _ v => plainRes (src v 0 ||| src v 1)) h q s
/-- XOR (R111). -/
def execXorBits (h : Hdr) (q : FormQ) (s : State) : Host.Outcome State Fault Refusal :=
  intQ 2 false (fun _ v => plainRes (src v 0 ^^^ src v 1)) h q s
/-- NOT (R111). -/
def execNotBits (h : Hdr) (q : FormQ) (s : State) : Host.Outcome State Fault Refusal :=
  intQ 1 false (fun _ v => plainRes (~~~(src v 0))) h q s
/-- SHL (R115). -/
def execShl (h : Hdr) (q : FormQ) (s : State) : Host.Outcome State Fault Refusal := intQ 2 false (fun q => shlInt q.ty.toNat) h q s
/-- SHR (R115). -/
def execShr (h : Hdr) (q : FormQ) (s : State) : Host.Outcome State Fault Refusal := intQ 2 false (fun q => shrInt q.ty.toNat) h q s
/-- SAR (R115). -/
def execSar (h : Hdr) (q : FormQ) (s : State) : Host.Outcome State Fault Refusal := intQ 2 false (fun q => sarInt q.ty.toNat) h q s
/-- ROT (R115). -/
def execRot (h : Hdr) (q : FormQ) (s : State) : Host.Outcome State Fault Refusal := intQ 2 false (fun q => rotInt q.ty.toNat) h q s
/-- POPC (R115). -/
def execPopc (h : Hdr) (q : FormQ) (s : State) : Host.Outcome State Fault Refusal := intQ 1 false (fun q => popcInt q.ty.toNat) h q s
/-- CLZ (R115). -/
def execClz (h : Hdr) (q : FormQ) (s : State) : Host.Outcome State Fault Refusal := intQ 1 false (fun q => clzInt q.ty.toNat) h q s
/-- BREV (R115). -/
def execBrev (h : Hdr) (q : FormQ) (s : State) : Host.Outcome State Fault Refusal := intQ 1 false (fun q => brevInt q.ty.toNat) h q s
/-- BFX (R116). -/
def execBfx (h : Hdr) (q : FormQ) (s : State) : Host.Outcome State Fault Refusal :=
  intQ 3 false (fun q v => plainRes (bitExtract (intS q.ty.toNat) (src v 0) (src v 1) (src v 2))) h q s
/-- BFI (R116). -/
def execBfi (h : Hdr) (q : FormQ) (s : State) : Host.Outcome State Fault Refusal :=
  intQ 3 false (fun _ v => plainRes (bitInsert (src v 0) (src v 1) (src v 2))) h q s
/-- SEL (R117): per lane by a bit of mask SUB 2:0, polarity SUB 3. -/
def execSel (h : Hdr) (q : FormQ) (s : State) : Host.Outcome State Fault Refusal :=
  withCtx s fun c =>
    let m := c.maskReg (q.sub.toNat % 8)
    let pol := q.sub.getLsbD 3
    c.compute s h false q.dk q.fs (oneOf 0) [q.sa, q.sb] fun rd l =>
      plainRes (if m.getLsbD l != pol then src (rd l) 0 else src (rd l) 1)
/-- SELH (R117). -/
def execSelh (h : Hdr) (q : FormQ) (s : State) : Host.Outcome State Fault Refusal :=
  intQ 2 false (fun q v => plainRes (pickHalf (q.sub.toNat / 4 % 4) (src v 0) (src v 1) ++ pickHalf (q.sub.toNat % 4) (src v 0) (src v 1))) h q s

/-- IADD with an immediate (R109). -/
def execIaddImm (h : Hdr) (q : FormQI) (s : State) : Host.Outcome State Fault Refusal := immQI (fun ty => addInt ty false) h q s
/-- IMUL with an immediate (R109). -/
def execImulImm (h : Hdr) (q : FormQI) (s : State) : Host.Outcome State Fault Refusal := immQI (fun ty => mulInt ty false) h q s
/-- AND with an immediate (R109). -/
def execAndBitsImm (h : Hdr) (q : FormQI) (s : State) : Host.Outcome State Fault Refusal :=
  immQI (fun _ v => plainRes (src v 0 &&& src v 1)) h q s
/-- OR with an immediate (R109). -/
def execOrBitsImm (h : Hdr) (q : FormQI) (s : State) : Host.Outcome State Fault Refusal :=
  immQI (fun _ v => plainRes (src v 0 ||| src v 1)) h q s
/-- XOR with an immediate (R109). -/
def execXorBitsImm (h : Hdr) (q : FormQI) (s : State) : Host.Outcome State Fault Refusal :=
  immQI (fun _ v => plainRes (src v 0 ^^^ src v 1)) h q s
/-- SHL with an immediate (R109, R115). -/
def execShlImm (h : Hdr) (q : FormQI) (s : State) : Host.Outcome State Fault Refusal := immQI shlInt h q s
/-- SHR with an immediate (R109, R115). -/
def execShrImm (h : Hdr) (q : FormQI) (s : State) : Host.Outcome State Fault Refusal := immQI shrInt h q s
/-- SAR with an immediate (R109, R115). -/
def execSarImm (h : Hdr) (q : FormQI) (s : State) : Host.Outcome State Fault Refusal := immQI sarInt h q s
/-- IMIN with an immediate (R109). -/
def execIminImm (h : Hdr) (q : FormQI) (s : State) : Host.Outcome State Fault Refusal := immQI minInt h q s
/-- IMAX with an immediate (R109). -/
def execImaxImm (h : Hdr) (q : FormQI) (s : State) : Host.Outcome State Fault Refusal := immQI maxInt h q s

end Sys2Proof.Machine
end

