-- ==== Sys2Proof/Machine/Sfu.lean ====
section
/-! DEFINITION. Sys2Proof/Machine/Sfu.lean: the special functions (R123 to R125). The exact function value is evaluated to about 500 bits; a
.bf16x2 result is that value rounded; a .f32 result is this part's own fixed choice within the bound of R123, a free value (log 7). -/

namespace Sys2Proof.Machine

/-- π and ln 2 as multiples of 2^−768, truncated. -/
def piBits : Nat := 0x3243f6a8885a308d313198a2e03707344a4093822299f31d0082efa98ec4e6c89452821e638d01377be5466cf34e90c6cc0ac29b7c97c50dd3f84d5b5b54709179216d5d98979fb1bd1310ba698dfb5ac2ffd72dbd01adfb7b8e1afed6a267e96

def ln2Bits : Nat := 0xb17217f7d1cf79abc9e3b39803f2f6af40f343267298b62d8a0d175b8baafa2be7b876206debac98559552fb4afa1b10ed2eae35c138214427573b291169b8253e96ca16224ae8c51acbda11317c387eb9ea9bc3b136603b256fa0ec7657f74b

/-- The working scale: values are multiples of 2^−512. -/
def sfuOne : Nat := 2 ^ 512

def ln2Fix : Nat := ln2Bits / 2 ^ 256

/-- The series of e^r from its term k on. -/
def expSeries (r : Nat) : Nat → Nat → Nat → Nat
  | 0, _, _ => 0
  | n + 1, k, t => t + expSeries r n (k + 1) (t * r / sfuOne / k)

/-- e^r for 0 ≤ r < 1. -/
def expFix (r : Nat) : Nat := expSeries r 128 1 sfuOne

/-- The alternating series whose next term is t × r2 / (k (k + 1)). -/
def trigSeries (r2 : Nat) : Nat → Nat → Nat → Int
  | 0, _, _ => 0
  | n + 1, k, t => (t : Int) - trigSeries r2 n (k + 2) (t * r2 / sfuOne / (k * (k + 1)))

def sinFix (r : Nat) : Int := trigSeries (r * r / sfuOne) 80 2 r
def cosFix (r : Nat) : Int := trigSeries (r * r / sfuOne) 80 1 sfuOne

/-- The series of artanh. -/
def artanhSeries (t2 : Nat) : Nat → Nat → Nat → Nat
  | 0, _, _ => 0
  | n + 1, k, t => t / k + artanhSeries t2 n (k + 2) (t * t2 / sfuOne)

/-- e^−y as a significand and an exponent. -/
def expNeg (y : Nat) : Nat × Int :=
  let k := y / ln2Fix + 1
  (expFix (k * ln2Fix - y), -512 - (k : Int))

/-- A positive approximation, never exact. -/
def approx (neg : Bool) (man : Nat) (exp : Int) : Exact := .fin neg man exp true

/-- A value just inside a given one: nearer zero by far less than a unit of any format. -/
def below (neg : Bool) (man : Nat) (exp : Int) : Exact := .fin neg (man * 2 ^ 256 - 1) (exp - 256) true

def tinyPos : Exact := .fin false 1 (-2000) true

/-- 1/√x for x > 0. -/
def rsqExact (man : Nat) (exp : Int) : Exact :=
  let odd := exp % 2 != 0
  let m := if odd then 2 * man else man
  let e := if odd then exp - 1 else exp
  let r := isqrt (2 ^ 1024 / m)
  .fin false r (-512 - e / 2) (r * r * m != 2 ^ 1024)

/-- 2^x. -/
def ex2Exact (neg : Bool) (man : Nat) (exp : Int) : Exact :=
  if 4096 ≤ roundMag man exp then (if neg then tinyPos else .fin false 1 4096 false)
  else
    let x := toScale neg man exp (-512)
    let i := x / (sfuOne : Int)
    let f := (x % (sfuOne : Int)).toNat
    if f == 0 then .fin false 1 i false
    else approx false (expFix (f * ln2Fix / sfuOne)) (i - 512)
where
  roundMag (man : Nat) (exp : Int) : Nat := (roundTo 1 false man exp false 0).1

/-- log₂ x for x > 0. -/
def lg2Exact (man : Nat) (exp : Int) : Exact :=
  let top := Nat.log2 man
  let e := exp + top
  let f := man * sfuOne / 2 ^ top
  if f == sfuOne then .fin (e < 0) e.natAbs 0 false
  else
    let t := (f - sfuOne) * sfuOne / (f + sfuOne)
    let ln := 2 * artanhSeries (t * t / sfuOne) 200 1 t
    let v : Int := e * (sfuOne : Int) + (ln * sfuOne / ln2Fix : Nat)
    approx (v < 0) v.natAbs (-512)

/-- sin x and cos x: x is reduced exactly to r in [0, π/2) and its quadrant. -/
def trigExact (isCos : Bool) (neg : Bool) (man : Nat) (exp : Int) : Exact :=
  let x := (toScale false man exp (-512)).natAbs
  let half := piBits / 2
  let q := x * 2 ^ 256 / half
  let r := (x * 2 ^ 256 - q * half) / 2 ^ 256
  let quad := (if isCos then q + 1 else q) % 4
  let v := if quad % 2 == 0 then sinFix r else cosFix r
  let s := (2 ≤ quad) != (!isCos && neg)
  approx (s != (v < 0)) v.natAbs (-512)

def small (man : Nat) (exp : Int) : Bool := exp + Nat.log2 man < -60

/-- |x| as a multiple of 2^−512, capped at 1000. -/
def capFix (man : Nat) (exp : Int) : Nat := if 10 ≤ exp + Nat.log2 man then 1000 * sfuOne else (toScale false man exp (-512)).natAbs

def tanhExact (neg : Bool) (man : Nat) (exp : Int) : Exact :=
  if small man exp then below neg man exp
  else if 9 ≤ exp + Nat.log2 man then below neg 1 0
  else
    let (m, e) := expNeg (2 * capFix man exp)
    let t := m * 2 ^ (e + 512).toNat / 2 ^ (-512 - e).toNat
    if t == 0 then below neg 1 0 else approx neg ((sfuOne - t) * sfuOne / (sfuOne + t)) (-512)

def sigmExact (neg : Bool) (man : Nat) (exp : Int) : Exact :=
  let (m, e) := expNeg (capFix man exp)
  let t := m / 2 ^ (-512 - e).toNat
  if neg then (if 9 ≤ exp + Nat.log2 man then tinyPos else approx false (m * sfuOne / (sfuOne + t)) e)
  else if t == 0 || 9 ≤ exp + Nat.log2 man then below false 1 0
  else approx false (sfuOne * sfuOne / (sfuOne + t)) (-512)

/-- The opcode offset of a special function (R123): 0 RCP, 1 RSQ, 2 EX2, 3 LG2, 4 SIN, 5 COS, 6 TANH, 7 SIGM; special inputs as R124. -/
def sfuExact (fn : Nat) (v : Val) : Exact :=
  match fn, v with
  | _, .nan => .nan false
  | 0, v => divExact (.fin false 1 0) v
  | 1, .inf n => if n then .nan true else .fin false 0 0 false
  | 1, .fin n m e => if m == 0 then .inf n else if n then .nan true else rsqExact m e
  | 2, .inf n => if n then .fin false 0 0 false else .inf false
  | 2, .fin n m e => if m == 0 then .fin false 1 0 false else ex2Exact n m e
  | 3, .inf n => if n then .nan true else .inf false
  | 3, .fin n m e => if m == 0 then .inf true else if n then .nan true else lg2Exact m e
  | 4, .inf _ => .nan true
  | 4, .fin n m e => if m == 0 then .fin n 0 0 false else if small m e then below n m e else trigExact false n m e
  | 5, .inf _ => .nan true
  | 5, .fin n m e => if m == 0 then .fin false 1 0 false else if small m e then below false 1 0 else trigExact true n m e
  | 6, .inf n => .fin n 1 0 false
  | 6, .fin n m e => if m == 0 then .fin n 0 0 false else tanhExact n m e
  | _, .inf n => if n then .fin false 0 0 false else .fin false 1 0 false
  | _, .fin n m e => if m == 0 then .fin false 1 (-1) false else sigmExact n m e

/-- The distance of a candidate code from the evaluated value, in units of 2^−1200 (R123's bounds are far coarser). -/
def sfuDist (code : Nat) (neg : Bool) (man : Nat) (exp : Int) : Option Nat :=
  match binVal 23 code with
  | .fin n m e => some (toScale n m e (-1200) - toScale neg man exp (-1200)).natAbs
  | _ => none

/-- Whether a candidate meets the bound of R123 for an inexact result; x is the input. -/
def sfuWithin (fn : Nat) (x : Word) (code : Nat) (neg : Bool) (man : Nat) (exp : Int) : Bool :=
  let ulp := max (exp + Nat.log2 man - 23) (-149)
  let u (k : Int) : Nat := 2 ^ (1200 + k).toNat
  let two := 2 * u ulp
  let near := 0x3F000000 ≤ x.toNat && x.toNat ≤ 0x40000000
  match sfuDist code neg man exp with
  | none => false
  | some d =>
    match fn with
    | 1 => [1, 3].any fun rnd => (roundBin 23 rnd neg man exp true).code == code
    | 2 => d ≤ two
    | 3 => if near then d ≤ u (-22) else d ≤ two
    | 4 | 5 => d ≤ u (-21)
    | _ => d ≤ two || d ≤ u (-24)

/-- One .f32 special function: where the result is not exact, this part's own fixed value within the bound (R125), the correctly rounded
one where the free function would leave it. RCP is correctly rounded by RND. -/
def sfuF32 (fn : Nat) (m : FMode) (w : Word) : Rounded :=
  let e := sfuExact fn (binVal 23 (flushIn m.ftz 23 w.toNat))
  let own := (Config.specialF32 fn w).toNat
  match e with
  | .fin neg man exp true =>
    if fn != 0 && sfuWithin fn w own neg man exp then
      let tiny := own / 2 ^ 23 % 256 == 0
      flushOut m.ftz 23 ⟨own, flagIX ||| (if tiny then flagUF else 0)⟩
    else finish m e
  | e => finish m e

/-- One .bf16x2 half: correctly rounded (R123). -/
def sfuBf16 (fn : Nat) (m : FMode) (code : Nat) : Rounded := finish m (sfuExact fn (binVal 7 (flushIn m.ftz 7 code)))

end Sys2Proof.Machine
end

