-- ==== Sys2Proof/Machine/FloatOps.lean ====
section
/-! DEFINITION. Sys2Proof/Machine/FloatOps.lean: floating point (R118 to R122), special functions (R123 to R125), conversion and
quantisation (R126 to R129). -/

namespace Sys2Proof.Machine

/-! ## Elements of .f32 and .bf16x2 (R118) -/

def fracOf (ty : Nat) : Nat := if ty == 4 then 23 else 7

/-- Each element computed alone and rounded once. -/
def perFloat (ty : Nat) (f : List Nat → Rounded) (srcs : List Word) : Res :=
  perElem (if ty == 4 then 32 else 16) (fun es => let r := f es; (r.code, r.flags)) srcs

/-- The modes of a format Q instruction under a kernel mode word (R55, R61). -/
def fmodeOf (q : FormQ) (ftz : Bool) : FMode := ⟨fracOf q.ty.toNat, q.rnd, q.sat, ftz⟩

/-- The values of the elements with subnormal inputs flushed as R61 says. -/
def vals (m : FMode) (es : List Nat) : List Val := es.map fun e => binVal m.frac (flushIn m.ftz m.frac e)

def val (vs : List Val) (k : Nat) : Val := vs.getD k .nan

/-- Arithmetic on values, rounded once. -/
def arith (m : FMode) (f : List Val → Exact) (es : List Nat) : Rounded := finish m (f (vals m es))

def faddOf (m : FMode) : List Nat → Rounded := arith m fun v => addVal m.rnd (val v 0) (val v 1)
def fsubOf (m : FMode) : List Nat → Rounded := arith m fun v => addVal m.rnd (val v 0) (negVal (val v 1))
def fmulOf (m : FMode) : List Nat → Rounded := arith m fun v => mulExact (val v 0) (val v 1)
def ffmaOf (m : FMode) : List Nat → Rounded := arith m fun v => fmaExact m.rnd (val v 0) (val v 1) (val v 2)
def fdivOf (m : FMode) : List Nat → Rounded := arith m fun v => divExact (val v 0) (val v 1)
def fsqrtOf (m : FMode) : List Nat → Rounded := arith m fun v => sqrtExact (val v 0)

def fminmaxOf (isMax : Bool) (m : FMode) (es : List Nat) : Rounded :=
  ⟨minMaxCode isMax m.frac (flushIn m.ftz m.frac (es.getD 0 0)) (flushIn m.ftz m.frac (es.getD 1 0)), 0⟩

def fcmpOf (cond : Nat) (m : FMode) (es : List Nat) : Rounded :=
  ⟨if fcmpCode cond m.frac (flushIn m.ftz m.frac (es.getD 0 0)) (flushIn m.ftz m.frac (es.getD 1 0)) then 2 ^ (m.frac + 9) - 1 else 0, 0⟩

def frndOf (m : FMode) (es : List Nat) : Rounded := frndVal m (flushIn m.ftz m.frac (es.getD 0 0))

def fclassOf (m : FMode) (es : List Nat) : Rounded := ⟨fclassCode m.frac (es.getD 0 0), 0⟩

/-- The sign bit of an element cleared or inverted (R118). -/
def fabsOf (m : FMode) (es : List Nat) : Rounded := ⟨es.getD 0 0 % 2 ^ (m.frac + 8), 0⟩
def fnegOf (m : FMode) (es : List Nat) : Rounded := ⟨(es.getD 0 0 + 2 ^ (m.frac + 8)) % 2 ^ (m.frac + 9), 0⟩

def sfuOf (fn : Nat) (m : FMode) (es : List Nat) : Rounded :=
  if m.frac == 23 then sfuF32 fn m (BitVec.ofNat 32 (es.getD 0 0)) else sfuBf16 fn { m with rnd := 0 } (es.getD 0 0)

/-! ## The shared shapes -/

/-- A format Q floating-point instruction with k sources. -/
def floatQ (k : Nat) (long : Bool) (f : FMode → List Nat → Rounded) (h : Hdr) (q : FormQ) (s : State) : Host.Outcome State Fault Refusal :=
  withCtx s fun c =>
    c.perLane s h long q.dk q.fs (oneOf q.ty.toNat) ([q.sa, q.sb, q.sc].take k)
      (perFloat q.ty.toNat (f (fmodeOf q (modeFTZ c.warp.mode))))

/-- A format QI one: IMM as the second source, rne, SAT 0 (R99, R109). -/
def floatQI (f : FMode → List Nat → Rounded) (h : Hdr) (q : FormQI) (s : State) : Host.Outcome State Fault Refusal :=
  withCtx s fun c =>
    c.perLane s h false q.dk q.fs (oneOf q.ty.toNat) [q.sa] fun v =>
      perFloat q.ty.toNat (f ⟨fracOf q.ty.toNat, 0, false, modeFTZ c.warp.mode⟩) (v ++ [q.imm])

/-- FADD (R118). -/
def execFadd (h : Hdr) (q : FormQ) (s : State) : Host.Outcome State Fault Refusal := floatQ 2 false faddOf h q s
/-- FSUB (R118). -/
def execFsub (h : Hdr) (q : FormQ) (s : State) : Host.Outcome State Fault Refusal := floatQ 2 false fsubOf h q s
/-- FMUL (R118). -/
def execFmul (h : Hdr) (q : FormQ) (s : State) : Host.Outcome State Fault Refusal := floatQ 2 false fmulOf h q s
/-- FFMA (R118). -/
def execFfma (h : Hdr) (q : FormQ) (s : State) : Host.Outcome State Fault Refusal := floatQ 3 false ffmaOf h q s
/-- FMIN (R119). -/
def execFmin (h : Hdr) (q : FormQ) (s : State) : Host.Outcome State Fault Refusal := floatQ 2 false (fminmaxOf false) h q s
/-- FMAX (R119). -/
def execFmax (h : Hdr) (q : FormQ) (s : State) : Host.Outcome State Fault Refusal := floatQ 2 false (fminmaxOf true) h q s
/-- FABS (R118). -/
def execFabs (h : Hdr) (q : FormQ) (s : State) : Host.Outcome State Fault Refusal := floatQ 1 false fabsOf h q s
/-- FNEG (R118). -/
def execFneg (h : Hdr) (q : FormQ) (s : State) : Host.Outcome State Fault Refusal := floatQ 1 false fnegOf h q s
/-- FCMP (R119). -/
def execFcmp (h : Hdr) (q : FormQ) (s : State) : Host.Outcome State Fault Refusal := floatQ 2 false (fcmpOf q.sub.toNat) h q s
/-- FRND (R120). -/
def execFrnd (h : Hdr) (q : FormQ) (s : State) : Host.Outcome State Fault Refusal := floatQ 1 false frndOf h q s
/-- FCLASS (R120). -/
def execFclass (h : Hdr) (q : FormQ) (s : State) : Host.Outcome State Fault Refusal := floatQ 1 false fclassOf h q s
/-- FDIV (R122), long. -/
def execFdiv (h : Hdr) (q : FormQ) (s : State) : Host.Outcome State Fault Refusal := floatQ 2 true fdivOf h q s
/-- FSQRT (R122), long. -/
def execFsqrt (h : Hdr) (q : FormQ) (s : State) : Host.Outcome State Fault Refusal := floatQ 1 true fsqrtOf h q s
/-- FADD with an immediate (R109). -/
def execFaddImm (h : Hdr) (q : FormQI) (s : State) : Host.Outcome State Fault Refusal := floatQI faddOf h q s
/-- FMUL with an immediate (R109). -/
def execFmulImm (h : Hdr) (q : FormQI) (s : State) : Host.Outcome State Fault Refusal := floatQI fmulOf h q s
/-- FMIN with an immediate (R109). -/
def execFminImm (h : Hdr) (q : FormQI) (s : State) : Host.Outcome State Fault Refusal := floatQI (fminmaxOf false) h q s
/-- FMAX with an immediate (R109). -/
def execFmaxImm (h : Hdr) (q : FormQI) (s : State) : Host.Outcome State Fault Refusal := floatQI (fminmaxOf true) h q s

/-- RCP (R123), long, correctly rounded by RND. -/
def execRcp (h : Hdr) (q : FormQ) (s : State) : Host.Outcome State Fault Refusal := floatQ 1 true (sfuOf 0) h q s
/-- RSQ (R123), long. -/
def execRsq (h : Hdr) (q : FormQ) (s : State) : Host.Outcome State Fault Refusal := floatQ 1 true (sfuOf 1) h q s
/-- EX2 (R123), long. -/
def execEx2 (h : Hdr) (q : FormQ) (s : State) : Host.Outcome State Fault Refusal := floatQ 1 true (sfuOf 2) h q s
/-- LG2 (R123), long. -/
def execLg2 (h : Hdr) (q : FormQ) (s : State) : Host.Outcome State Fault Refusal := floatQ 1 true (sfuOf 3) h q s
/-- SIN (R123), long. -/
def execSin (h : Hdr) (q : FormQ) (s : State) : Host.Outcome State Fault Refusal := floatQ 1 true (sfuOf 4) h q s
/-- COS (R123), long. -/
def execCos (h : Hdr) (q : FormQ) (s : State) : Host.Outcome State Fault Refusal := floatQ 1 true (sfuOf 5) h q s
/-- TANH (R123), long. -/
def execTanh (h : Hdr) (q : FormQ) (s : State) : Host.Outcome State Fault Refusal := floatQ 1 true (sfuOf 6) h q s
/-- SIGM (R123), long. -/
def execSigm (h : Hdr) (q : FormQ) (s : State) : Host.Outcome State Fault Refusal := floatQ 1 true (sfuOf 7) h q s

/-! ## Conversion and quantisation -/

/-- The warp's XV as a lane reads it: bits 15:0 of y15 (R66). -/
def Ctx.xv (c : Ctx) (l : Nat) : Half := (c.warp.rd c.free l (.uni 15) (c.warp.y.getD 15 0)).setWidth 16

def resOf (ty : Nat) (r : Rounded) : Res := ⟨scalarWord ty r.code, r.flags⟩

/-- CVT (R126): element SUB 6:4 of a into a scalar of type SUB 3:0. -/
def execCvt (h : Hdr) (q : FormQ) (s : State) : Host.Outcome State Fault Refusal :=
  withCtx s fun c =>
    let ty := q.ty.toNat
    let dst := q.sub.toNat % 16
    c.compute s h false q.dk q.fs (oneOf ty) [q.sa] fun rd l =>
      resOf dst (convert ty dst q.rnd q.sat (modeFTZ c.warp.mode) (c.xv l) (elemOf ty (q.sub.toNat / 16 % 8) (src (rd l) 0)))

/-- QNT (R127). -/
def execQnt (h : Hdr) (q : FormQ) (s : State) : Host.Outcome State Fault Refusal :=
  withCtx s fun c =>
    let ty := q.ty.toNat
    let from_ := q.sub.toNat % 16
    c.compute s h false q.dk q.fs (oneOf ty) [q.sa, q.sb] fun rd l =>
      resOf ty (quantise from_ ty q.rnd q.flag (modeFTZ c.warp.mode) (c.xv l) (elemOf from_ 0 (src (rd l) 0)) ((src (rd l) 1).toNat % 256))

/-- DQNT (R128). -/
def execDqnt (h : Hdr) (q : FormQ) (s : State) : Host.Outcome State Fault Refusal :=
  withCtx s fun c =>
    let ty := q.ty.toNat
    let dst := q.sub.toNat % 16
    c.compute s h false q.dk q.fs (oneOf ty) [q.sa, q.sb] fun rd l =>
      resOf dst (dequantise ty dst q.rnd (modeFTZ c.warp.mode) (c.xv l) (elemOf ty (q.sub.toNat / 16 % 8) (src (rd l) 0))
        ((src (rd l) 1).toNat % 256))

/-- b with element j replaced by the low bits of a; unused top bits of .t6 are 0 (R129). -/
def packElem (ty j : Nat) (a b : Word) : Word :=
  let w := elemWidth ty
  let mask : Word := ((BitVec.allOnes 32) >>> (32 - w)) <<< (w * j)
  let r := (b &&& ~~~mask) ||| ((a <<< (w * j)) &&& mask)
  if ty == 7 then r &&& 0x3FFFFFFF else r

/-- PACK (R129). -/
def execPack (h : Hdr) (q : FormQ) (s : State) : Host.Outcome State Fault Refusal :=
  withCtx s fun c =>
    c.perLane s h false q.dk q.fs (oneOf q.ty.toNat) [q.sa, q.sb] fun v =>
      plainRes (packElem q.ty.toNat (q.sub.toNat % 8) (src v 0) (src v 1))

/-- UNPK (R129). -/
def execUnpk (h : Hdr) (q : FormQ) (s : State) : Host.Outcome State Fault Refusal :=
  withCtx s fun c =>
    c.perLane s h false q.dk q.fs (oneOf q.ty.toNat) [q.sa] fun v =>
      plainRes (scalarWord q.ty.toNat (elemOf q.ty.toNat (q.sub.toNat % 8) (src v 0)))

end Sys2Proof.Machine
end

