-- ==== Sys2Proof/Machine/CrossLane.lean ====
section
/-! DEFINITION. Sys2Proof/Machine/CrossLane.lean: cross-lane operations (R134 to R138) and the queue and frame instructions
(R130 to R133). -/

namespace Sys2Proof.Machine

/-! ## What other lanes supply (R134) -/

/-- Source a of any lane: as read under R106 in an issuing slice, else the lane's current value, and 0 for lq. -/
def Ctx.readAny (c : Ctx) (code : BitVec 7) (l : Nat) : Word :=
  if c.gangMask.getLsbD l then c.source 1 l 0 code.toNat
  else if code == 56 || code == 57 then 0 else c.source 1 l 0 code.toNat

/-! ## SHFL (R135) -/

/-- The lane SHFL reads. -/
def shflLane (mode : Nat) (clamp : Bool) (w l b : Nat) : Nat :=
  match mode with
  | 0 => b % w
  | 1 => if l < b then (if clamp then l else ((l : Int) - b).emod w |>.toNat) else l - b
  | 2 => if w ≤ l + b then (if clamp then l else (l + b) % w) else l + b
  | _ => (l ^^^ b) % w

/-- SHFL, long. -/
def execShfl (h : Hdr) (q : FormQ) (s : State) : Host.Outcome State Fault Refusal :=
  withCtx s fun c =>
    c.compute s h true q.dk q.fs 1 [q.sa, q.sb] fun rd l =>
      let k := shflLane (q.sub.toNat % 4) q.flag c.warp.width l (src (rd l) 1).toNat
      plainRes (if c.gangMask.getLsbD k then src (rd k) 0 else c.readAny q.sa k)

/-! ## VOTE (R136) -/

/-- Lanes whose source a is nonzero, of those that execute. -/
def ballotOf (width : Nat) (exec : Mask) (a : Nat → Word) : Mask :=
  (lanesOfMask width exec).foldl (fun m l => if a l != 0 then m ||| (1 <<< l) else m) 0

def maskHalf (hi : Bool) (m : Mask) : Word := if hi then m.extractLsb' 32 32 else m.setWidth 32

/-- All contributors have one value. -/
def uniform (ls : List Nat) (a : Nat → Word) : Bool :=
  match ls with
  | [] => true
  | l :: rest => rest.all fun k => a k == a l

/-- VOTE, long. A ballot with kind 6 writes the whole mask; FLAG, which R136 then gives no use, is ignored (DESIGN CHOICE, log 71). -/
def execVote (h : Hdr) (q : FormQ) (s : State) : Host.Outcome State Fault Refusal :=
  withCtx s fun c =>
    let exec := c.exec h
    let ls := c.execLanes h
    let a (l : Nat) : Word := src (c.reads 1 [q.sa] l) 0
    let mode := q.sub.toNat % 4
    let ballot := ballotOf c.warp.width exec a
    if mode == 0 && q.dk == 6 then
      c.gated s (c.lqGate (lqNeed [q.sa])) <|
        let i := q.fs.toNat % 8
        let w0 := c.popLq (lqPops [q.sa]) c.warp
        let w1 := ({ w0 with m := w0.m.set! i ballot } : Warp).unmark (widthMask c.warp.width) (· == Loc.mask i)
        let w2 := w1.owe (some s.nextId) (List.range c.warp.width) fun _ => Loc.mask i
        c.done h s.bumpId { w2 with longs := w2.longs ++ [⟨s.nextId, c.iss.strand, c.slices.headD 0, [], none, c.pc⟩] }
    else
      c.compute s h true q.dk q.fs 1 [q.sa] fun _ _ =>
        plainRes (match mode with
          | 0 => maskHalf q.flag ballot
          | 1 => Word.ofBool (ls.any fun l => a l != 0) &&& 1
          | 2 => Word.ofBool (ls.all fun l => a l != 0) &&& 1
          | _ => Word.ofBool (uniform ls a) &&& 1)

/-! ## WRED and WSCAN (R137) -/

/-- The identity of an operation. -/
def redIdentity (op : Nat) (ty : Nat) : Word :=
  match op with
  | 1 => if intS ty then 0x7FFFFFFF else 0xFFFFFFFF
  | 2 => if intS ty then 0x80000000 else 0
  | 3 => 0xFFFFFFFF
  | 7 => 0x7F800000
  | 8 => 0xFF800000
  | _ => 0

/-- One step of the sequential combination. -/
def redStep (op ty : Nat) (m : FMode) (x y : Word) : Res :=
  match op with
  | 0 => addInt ty m.sat [x, y]
  | 1 => minInt ty [x, y]
  | 2 => maxInt ty [x, y]
  | 3 => plainRes (x &&& y)
  | 4 => plainRes (x ||| y)
  | 5 => plainRes (x ^^^ y)
  | 6 => perFloat 4 (faddOf { m with sat := false }) [x, y]
  | 7 => perFloat 4 (fminmaxOf false m) [x, y]
  | _ => perFloat 4 (fminmaxOf true m) [x, y]

/-- The first contributor starts the combination, with no step. A floating operation reads it as any other operand: flushed under FTZ, a NaN
as the canonical one (R60, R61). -/
def redFirst (op : Nat) (m : FMode) (v : Word) : Word :=
  if op < 6 then v
  else
    let code := flushIn m.ftz 23 v.toNat
    if binVal 23 code == .nan then f32NaN else BitVec.ofNat 32 code

/-- Prefixes over contributing lanes in ascending order: each lane's running value before and after its own step, and all flags; those of the
last step count in an exclusive scan too (DESIGN CHOICE, log 71). -/
def redScan (step : Word → Word → Res) (first : Word → Word) (ident : Word) :
    List (Nat × Word) → Option Word → Byte → List (Nat × Word × Word) × Byte
  | [], _, fl => ([], fl)
  | (l, v) :: rest, acc, fl =>
    let r : Res := match acc with
      | none => ⟨first v, 0⟩
      | some a => step a v
    let t := redScan step first ident rest (some r.word) (fl ||| r.flags)
    ((l, acc.getD ident, r.word) :: t.1, t.2)

/-- The scan of an instruction's contributors. -/
def Ctx.scan (c : Ctx) (h : Hdr) (q : FormQ) (a : Nat → Word) : List (Nat × Word × Word) × Byte :=
  let op := q.sub.toNat % 16
  let ty := q.ty.toNat
  let m := fmodeOf { q with ty := 4 } (modeFTZ c.warp.mode)
  redScan (redStep op ty m) (redFirst op m) (redIdentity op ty) ((c.execLanes h).map fun l => (l, a l)) none 0

/-- WRED, long: the whole combination in every executing lane. -/
def execWred (h : Hdr) (q : FormQ) (s : State) : Host.Outcome State Fault Refusal :=
  withCtx s fun c =>
    let a (l : Nat) : Word := src (c.reads (oneOf q.ty.toNat) [q.sa] l) 0
    let r := c.scan h q a
    let total := ((r.1.getLast?).map (·.2.2)).getD (redIdentity (q.sub.toNat % 16) q.ty.toNat)
    c.compute s h true q.dk q.fs (oneOf q.ty.toNat) [q.sa] fun _ _ => ⟨total, r.2⟩

/-- WSCAN, long: the prefix with or without the lane itself. -/
def execWscan (h : Hdr) (q : FormQ) (s : State) : Host.Outcome State Fault Refusal :=
  withCtx s fun c =>
    let a (l : Nat) : Word := src (c.reads (oneOf q.ty.toNat) [q.sa] l) 0
    let r := c.scan h q a
    c.compute s h true q.dk q.fs (oneOf q.ty.toNat) [q.sa] fun _ l =>
      match r.1.find? (·.1 == l) with
      | some (_, ex, inc) => ⟨if q.flag then ex else inc, r.2⟩
      | none => ⟨0, 0⟩

/-! ## MATCH and BCAST (R138) -/

/-- MATCH, long. -/
def execMatchLanes (h : Hdr) (q : FormQ) (s : State) : Host.Outcome State Fault Refusal :=
  withCtx s fun c =>
    let a (l : Nat) : Word := src (c.reads 1 [q.sa] l) 0
    let ls := c.execLanes h
    c.compute s h true q.dk q.fs 1 [q.sa] fun _ l =>
      plainRes (maskHalf q.flag (ls.foldl (fun m k => if a k == a l then m ||| (1 <<< k) else m) 0))

/-- BCAST, long: from the lowest executing lane, or from the lane that b names there. -/
def execBcast (h : Hdr) (q : FormQ) (s : State) : Host.Outcome State Fault Refusal :=
  withCtx s fun c =>
    let codes := if q.flag then [q.sa] else [q.sa, q.sb]
    let low := firstOf c.warp.width (c.exec h)
    c.compute s h true q.dk q.fs 1 codes fun rd _ =>
      let k := if q.flag then low else (src (rd low) 1).toNat % c.warp.width
      plainRes (if c.gangMask.getLsbD k then src (rd k) 0 else c.readAny q.sa k)

/-! ## Queue and frame -/

/-- A lane's queue as it reads (R82). -/
def Ctx.queue (c : Ctx) (l : Nat) : Vector Word 8 :=
  Vector.ofFn fun i => c.warp.rd c.free l (.age i.val) ((c.warp.lane l).a.getD i.val 0)

/-- MOV (R130). -/
def execMov (h : Hdr) (q : FormQ) (s : State) : Host.Outcome State Fault Refusal :=
  withCtx s fun c => c.perLane s h false q.dk q.fs 1 [q.sa] fun v => plainRes (src v 0)

/-- MOVI (R130): IMM as it stands, whatever the type. -/
def execMovi (h : Hdr) (q : FormQI) (s : State) : Host.Outcome State Fault Refusal :=
  withCtx s fun c => c.perLane s h false q.dk q.fs 1 [] fun _ => plainRes q.imm

/-- The queue after DUP in one lane (R131): n copies, zeros where the lane does not execute. -/
def dupQueue (n : Nat) (exec : Bool) (old read : Vector Word 8) : Vector Word 8 :=
  Vector.ofFn fun i => if i.val < n then (if exec then read.getD i.val 0 else 0) else old.getD (i.val - n) 0

/-- DUP (R131). -/
def execDup (h : Hdr) (q : FormQ) (s : State) : Host.Outcome State Fault Refusal :=
  withCtx s fun c =>
    let n := q.sub.toNat % 8
    let exec := c.exec h
    let w := c.warp.modLanes c.active fun l k => { k with a := dupQueue n (exec.getLsbD l) k.a (c.queue l) }
    c.done h s { w with busy := shiftMarks c.active n w.busy }

/-- Frame slots from FS on take the ages from SA on (R132). -/
def saveFrame (fs sa n : Nat) (a : Vector Word 8) (f : Vector Word 32) : Vector Word 32 :=
  Vector.ofFn fun i => if fs ≤ i.val && i.val < fs + n then a.getD (sa + (i.val - fs)) 0 else f.getD i.val 0

/-- SAVE (R132). -/
def execSave (h : Hdr) (q : FormQ) (s : State) : Host.Outcome State Fault Refusal :=
  withCtx s fun c =>
    let n := q.sub.toNat % 8 + 1
    let exec := c.exec h
    let w := c.warp.modLanes exec fun l k => { k with f := saveFrame q.fs.toNat q.sa.toNat n (c.queue l) k.f }
    c.done h s (w.unmark exec fun loc =>
      match loc with
      | .frame i => q.fs.toNat ≤ i && i < q.fs.toNat + n
      | _ => false)

/-- Age i of REJOIN's queue: old a(perm i) (R34, R133). -/
def rejoinQueue (perm : Nat) (a : Vector Word 8) : Vector Word 8 := Vector.ofFn fun i => a.getD (perm / 8 ^ i.val % 8) 0

/-- REJOIN (R34, R133): queues permuted, the tag recorded for the current arm. -/
def execRejoin (h : Hdr) (q : FormQI) (s : State) : Host.Outcome State Fault Refusal :=
  withCtx s fun c =>
    let exec := c.exec h
    let w := (c.warp.modLanes exec fun l k => { k with a := rejoinQueue q.imm.toNat (c.queue l) }).unmark exec isAge
    let upd (_ : Nat) (sl : Slice) : Slice :=
      { sl with pc := sl.pc + 1, tag := q.imm.extractLsb' 24 8, tagSet := true }
    .next (c.finish h upd s w)

end Sys2Proof.Machine
end

