-- ==== Sys2Proof/Machine/Control.lean ====
section
/-! DEFINITION. Sys2Proof/Machine/Control.lean: control flow in both strands (R139 to R148, R31, R32). -/

namespace Sys2Proof.Machine

/-- A signed offset from the next instruction. -/
def relPc (pc : Word) (off : Word) : Word := pc + 1 + off

/-- The four guard bits of a slice. -/
def nibOf (m : Mask) (i : Nat) : Nib := (m >>> (4 * i)).setWidth 4

/-! ## BRA (R140) -/

/-- BRA's condition over the executing lanes of the gang. -/
def Ctx.braTaken (c : Ctx) (h : Hdr) (b : FormB) : Bool :=
  let sel := c.active &&& c.guard h
  let y := c.warp.rd c.free 0 (.uni (b.aux.toNat % 16)) (c.warp.y.getD (b.aux.toNat % 16) 0)
  match b.cond.toNat with
  | 1 => sel != 0
  | 2 => sel == c.active
  | 3 => sel == 0
  | 4 => y == 0
  | 5 => y != 0
  | _ => true

/-- BRA (R140). -/
def execBra (h : Hdr) (b : FormB) (s : State) : Host.Outcome State Fault Refusal :=
  withCtx s fun c =>
    let t := c.braTaken h b
    .next (c.finish h (fun _ sl => { sl with pc := if t then relPc sl.pc b.off else sl.pc + 1 }) s c.warp)

/-! ## BRD (R141, R143) -/

/-- BRD.if in one slice: the slice after it, or none when the stack has no room for two entries. -/
def brdIfSlice (g : Nib) (b : FormBD) (sl : Slice) : Option Slice :=
  let t := sl.active &&& g
  let n := sl.active &&& ~~~g
  let target := relPc sl.pc (b.tgt.signExtend 32)
  if n == 0 then some { sl with pc := target }
  else if t == 0 then some { sl with pc := sl.pc + 1 }
  else if Config.stackDepth < sl.stack.length + 2 then none
  else
    let rcv := relPc sl.pc (b.rcv.signExtend 32)
    some { sl with pc := sl.pc + 1, active := n, tag := 0, tagSet := false,
                   stack := .pending rcv t target :: .join rcv sl.active sl.tag sl.tagSet none :: sl.stack }

/-- The loop entry of this BRD.loop on top of the stack of the current call level. R143 says only "top entry": that a callee does not see its
caller's entries is the model's choice (log 63). -/
def Slice.loopTop (sl : Slice) : Option (Nib × List StackEntry) :=
  if sl.base < sl.stack.length then
    match sl.stack with
    | .loop at_ m :: rest => if at_ == sl.pc then some (m, rest) else none
    | _ => none
  else none

/-- BRD.loop in one slice. -/
def brdLoopSlice (g : Nib) (b : FormBD) (sl : Slice) : Option Slice :=
  let t := sl.active &&& g
  let n := sl.active &&& ~~~g
  let target := relPc sl.pc (b.tgt.signExtend 32)
  match sl.loopTop with
  | some (m, rest) =>
    if t != 0 then some { sl with active := t, pc := target, stack := .loop sl.pc (m ||| n) :: rest }
    else some { sl with active := (m ||| n) &&& sl.live, pc := sl.pc + 1, stack := rest }
  | none =>
    if t == 0 then some { sl with pc := sl.pc + 1 }
    else if n == 0 then some { sl with pc := target }
    else if Config.stackDepth < sl.stack.length + 1 then none
    else some { sl with active := t, pc := target, stack := .loop sl.pc n :: sl.stack }

/-- A divergent branch: decided in each slice alone; a slice without room traps 0x23 with AUX 1 and nothing has changed (R33). -/
def divergent (f : Nib → FormBD → Slice → Option Slice) (h : Hdr) (b : FormBD) (s : State) : Host.Outcome State Fault Refusal :=
  withCtx s fun c =>
    let g := c.guard h
    match c.slices.find? fun i => (f (nibOf g i) b (c.st.slice i)).isNone with
    | some i => c.trapLane s 0x23 1 (4 * i)
    | none => .next (c.finish h (fun i sl => (f (nibOf g i) b sl).getD sl) s c.warp)

/-- BRD.if (R141). -/
def execBrdIf (h : Hdr) (b : FormBD) (s : State) : Host.Outcome State Fault Refusal := divergent brdIfSlice h b s

/-- BRD.loop (R143). -/
def execBrdLoop (h : Hdr) (b : FormBD) (s : State) : Host.Outcome State Fault Refusal := divergent brdLoopSlice h b s

/-! ## Indexed jumps and calls -/

/-- The lowest executing lane of a slice of a format B instruction (R79). -/
def Ctx.sliceLane (c : Ctx) (i : Nat) : Nat :=
  4 * i + firstOf 4 ((c.st.slice i).active.setWidth 64)

/-- The index source of BRX and CALLX in a slice: a specifier in the C-strand, an x register in the A-strand (R90). Format B has no TYPE, and
the spec does not say what the source one reads as here: the integer 1 is the model's choice (log 64). -/
def Ctx.indexOf (c : Ctx) (code : BitVec 7) (i : Nat) : Word :=
  match c.iss.strand with
  | .c => src (c.reads 1 [code] (c.sliceLane i)) 0
  | .a => c.x (c.sliceLane i) (code.toNat % 32)

def Ctx.indexCodes (c : Ctx) (code : BitVec 7) : List (BitVec 7) := if c.iss.strand == .c then [code] else []

/-- An entry of the table segment (R144): its value, or the walk result and address of the fault it meets. -/
def State.tableWord (s : State) (c : Ctx) (off : Nat) : State × Except (Nat × Nat) Word :=
  if c.warp.handler then
    let img := s.handlerImage c.warp.width
    let base := leAt img 0x30 8
    (s, if off + 4 ≤ leAt img 0x38 8 then .ok (BitVec.ofNat 32 (leAt img (base + off) 4)) else .error (0xFF, base + off))
  else
    match s.launch? c.iss.w.seq with
    | none => (s, .error (0xFF, off))
    | some l =>
      let va := l.code.base + l.code.tSeg.1 + off
      if l.code.tSeg.2 < off + 4 then (s, .error (0xFF, va))
      else
        match s.resolve c.grp.die c.grp.core c.grp.dom va with
        | (s', .ok p) =>
          let s1 := s'.markLeaf c.grp.dom p false
          (s1, .ok (BitVec.ofNat 32 (s1.memory.nat (s1.visible c.grp.die p (p.at_ va)) 4)))
        | (s', .error r) => (s', .error (r, va))

/-- The access of an entry stalls at translation, or under a flip (R307, R311). -/
def State.tableWaits (s : State) (c : Ctx) (off : Nat) : Bool :=
  match s.launch? c.iss.w.seq with
  | none => false
  | some l =>
    !c.warp.handler && off + 4 ≤ l.code.tSeg.2 && s.held c.grp.die c.grp.dom (l.code.base + l.code.tSeg.1 + off)

/-- The targets of some slices, or the first that faults. -/
def State.tableWords (c : Ctx) (off : Nat → Nat) : List Nat → State → State × Except (Nat × Nat × Nat) (List (Nat × Word))
  | [], s => (s, .ok [])
  | i :: is, s =>
    match s.tableWord c (off i) with
    | (s', .error (r, va)) => (s', .error (i, r, va))
    | (s', .ok v) =>
      match State.tableWords c off is s' with
      | (s'', .ok vs) => (s'', .ok ((i, v) :: vs))
      | (s'', .error e) => (s'', .error e)

/-- BRX (R144). -/
def execBrx (h : Hdr) (b : FormB) (s : State) : Host.Outcome State Fault Refusal :=
  withCtx s fun c =>
    let codes := c.indexCodes b.src
    c.gated s (c.lqGate (lqNeed codes)) <|
      let off (i : Nat) : Nat := b.off.toNat + 4 * min (c.indexOf b.src i).toNat (b.tableLen - 1)
      if c.slices.any fun i => s.tableWaits c (off i) then .next s
      else match State.tableWords c off c.slices s with
      | (s', .error (i, r, va)) =>
        .next (c.raise s' { c.cause 0x10 0 with slice := i, lane := c.sliceLane i, walk := r, access := 0, va := va })
      | (s', .ok vs) =>
        .next (c.finish h (fun i sl => { sl with pc := (tableGet i vs).getD sl.pc }) s' (c.popLq (lqPops codes) c.warp))

/-- The seeded queue of a callee (R31). -/
def seedQueue (k : Nat) (a : Vector Word 8) : Vector Word 8 := Vector.ofFn fun i => if i.val < k then a.getD i.val 0 else 0

/-- Where a slice's next call level lies in the call stack region (R30, R355). -/
def Ctx.levelAddr (c : Ctx) (i : Nat) : Nat :=
  (if c.warp.handler then c.warp.ctx + ctxBytes c.warp.width else c.warp.callBase) + 1152 * i + 144 * (c.st.slice i).calls.length

/-- The 144 bytes of a level (R30). -/
def levelBytes (sl : Slice) (saved : List (Vector Word 8)) : List Byte :=
  leBytes 8 (sl.pc.toNat + 1) ++ leBytes 4 sl.stack.length ++ [0, 0, 0, 0] ++ saved.flatMap fun q => bytesOfWords q.toList

/-- A call with its target by slice (R31, R145). -/
def Ctx.call (c : Ctx) (s : State) (h : Hdr) (k : Nat) (pops : Nat) (target : Nat → Slice → Word) : Host.Outcome State Fault Refusal :=
  match c.slices.find? fun i => Config.callDepth ≤ (c.st.slice i).calls.length with
  | some i => c.trapLane s 0x23 0 (4 * i)
  | none =>
    let isC := c.iss.strand == .c
    let saved (i : Nat) : List (Vector Word 8) := if isC then (List.range 4).map fun j => c.queue (4 * i + j) else []
    let s1 := if isC then c.slices.foldl (fun s i => s.vStore (c.grp.die, c.grp.core) c.grp.dom (c.levelAddr i) (levelBytes (c.st.slice i) (saved i))) s else s
    let w0 := c.popLq pops c.warp
    let w1 := if isC then (w0.modLanes c.gangMask fun l ln => { ln with a := seedQueue k (c.queue l) }).unmark c.gangMask isAge else w0
    .next (c.finish h (fun i sl =>
      { sl with calls := ⟨sl.pc + 1, sl.stack.length, saved i, 0, 0⟩ :: sl.calls, pc := target i sl }) s1 w1)

/-- A nonzero k or j in the A-strand traps 0x21 (R145). -/
def Ctx.countOk (c : Ctx) (b : FormB) : Bool := c.iss.strand == .c || b.k == 0

/-- CALL (R31, R145). -/
def execCall (h : Hdr) (b : FormB) (s : State) : Host.Outcome State Fault Refusal :=
  withCtx s fun c =>
    if !(c.countOk b) then c.trap s 0x21 0 else c.call s h b.k 0 fun _ sl => relPc sl.pc b.off

/-- CALLX (R31, R145). -/
def execCallx (h : Hdr) (b : FormB) (s : State) : Host.Outcome State Fault Refusal :=
  withCtx s fun c =>
    let codes := c.indexCodes b.src
    if !(c.countOk b) then c.trap s 0x21 0
    else c.gated s (c.lqGate (lqNeed codes)) <| c.call s h b.k (lqPops codes) fun i _ => c.indexOf b.src i

/-- The lanes of the current arm leave the strand (R147). -/
def exitSlice (sl : Slice) : Slice := { sl with live := sl.live &&& ~~~sl.active, active := 0 }

/-- Lanes leave every stack entry above the saved depth (R145). -/
def StackEntry.drop (gone : Nib) : StackEntry → StackEntry
  | .join r m t ts nt => .join r (m &&& ~~~gone) t ts nt
  | .pending r m pc => .pending r (m &&& ~~~gone) pc
  | .loop a m => .loop a (m &&& ~~~gone)

/-- RET in one slice: the active lanes are marked as returned; the level closes when none remains (R32, R145). -/
def retSlice (j : Nat) (sl : Slice) : Slice :=
  match sl.calls with
  | [] => exitSlice sl
  | f :: rest =>
    let n := sl.stack.length - f.depth
    { sl with
        calls := { f with returned := f.returned ||| sl.active, count := j } :: rest
        stack := (sl.stack.take n).map (StackEntry.drop sl.active) ++ sl.stack.drop n
        active := 0 }

/-- An exit of the strand after the other strand's PHASE traps 0x21 (R248). A handler starts from R36 and has issued no PHASE. -/
def Ctx.exitsAfterPhase (c : Ctx) (upd : Slice → Slice) : Bool :=
  !c.warp.handler && (c.warp.strand (other c.iss.strand)).phaseId.isSome &&
    (mapIdxList (fun i (sl : Slice) => if c.slices.contains i then upd sl else sl) c.st.slices).all fun sl => sl.live == 0

/-- RET (R32, R145). -/
def execRet (h : Hdr) (b : FormB) (s : State) : Host.Outcome State Fault Refusal :=
  withCtx s fun c =>
    if !(c.countOk b) || c.exitsAfterPhase (retSlice b.k) then c.trap s 0x21 0
    else if c.warp.storesOut then .next s
    else .next ((c.finish h (fun _ sl => retSlice b.k sl) s c.warp).handlerEnds c.iss.w)

/-- REGANG (R146): the slice waits at this instruction. -/
def execRegang (h : Hdr) (_b : FormB) (s : State) : Host.Outcome State Fault Refusal :=
  withCtx s fun c => .next (c.finish h (fun _ sl => { sl with hold := .regang }) s c.warp)

/-- EXIT (R147). -/
def execExit (h : Hdr) (_b : FormB) (s : State) : Host.Outcome State Fault Refusal :=
  withCtx s fun c =>
    if c.exitsAfterPhase exitSlice then c.trap s 0x21 0
    else if c.warp.storesOut then .next s
    else .next ((c.finish h (fun _ sl => exitSlice sl) s c.warp).handlerEnds c.iss.w)

/-- NOP (R147). -/
def execNop (h : Hdr) (_b : FormB) (s : State) : Host.Outcome State Fault Refusal :=
  withCtx s fun c => c.done h s c.warp

end Sys2Proof.Machine
end

