-- ==== Sys2Proof/Machine/AddrAlu.lean ====
section
/-! DEFINITION. Sys2Proof/Machine/AddrAlu.lean: A-strand arithmetic on x registers (R149 to R154). -/

namespace Sys2Proof.Machine

/-- .i32 and .i64 (R92). -/
def aSigned (ty : BitVec 3) : Bool := ty == 0 || ty == 2

def aWide (ty : BitVec 3) : Bool := 2 ≤ ty.toNat

/-- A word extended to 64 bits by type (R152). -/
def extA (ty : BitVec 3) (v : Word) : Word64 := if aSigned ty then v.signExtend 64 else v.setWidth 64

/-- Operand register xN or XN, extended (R152). -/
def Ctx.opA (c : Ctx) (ty : BitVec 3) (l : Nat) (r : BitVec 5) : Word64 :=
  if aWide ty then c.xx l r.toNat else extA ty (c.x l r.toNat)

/-- The low 5 or 6 bits of B (R152). -/
def shiftCount (ty : BitVec 3) (b : Word64) : Nat := b.toNat % (if aWide ty then 64 else 32)

/-- a below b, by type; operands of 32 bits come extended. -/
def aLess (ty : BitVec 3) (a b : Word64) : Bool := if aSigned ty then a.slt b else a.ult b

/-- Write xD or XD in the executing lanes (R152). -/
def Ctx.writeA (c : Ctx) (h : Hdr) (ty : BitVec 3) (xd : BitVec 5) (res : Nat → Word64) (w : Warp) : Warp :=
  let exec := c.exec h
  let d := xd.toNat
  (w.modLanes exec fun l k => if aWide ty then k.setXX d (res l) else k.setX d ((res l).setWidth 32)).unmark exec fun loc =>
    loc == .xreg d || (aWide ty && loc == .xreg (d + 1))

/-- A register form. -/
def aluReg (f : BitVec 3 → Word64 → Word64 → Word64) (h : Hdr) (a : FormA) (s : State) : Host.Outcome State Fault Refusal :=
  withCtx s fun c => c.done h s (c.writeA h a.ty a.xd (fun l => f a.ty (c.opA a.ty l a.xa) (c.opA a.ty l a.xb)) c.warp)

/-- An immediate form. -/
def aluImm (f : BitVec 3 → Word64 → Word64 → Word64) (h : Hdr) (a : FormA) (s : State) : Host.Outcome State Fault Refusal :=
  withCtx s fun c => c.done h s (c.writeA h a.ty a.xd (fun l => f a.ty (c.opA a.ty l a.xa) (extA a.ty a.imm)) c.warp)

def aaddVal : BitVec 3 → Word64 → Word64 → Word64 := fun _ a b => a + b
def asubVal : BitVec 3 → Word64 → Word64 → Word64 := fun _ a b => a - b
def amulVal : BitVec 3 → Word64 → Word64 → Word64 := fun _ a b => a * b
def ashlVal : BitVec 3 → Word64 → Word64 → Word64 := fun ty a b => a <<< shiftCount ty b
def ashrVal : BitVec 3 → Word64 → Word64 → Word64 := fun ty a b => if aSigned ty then a.sshiftRight (shiftCount ty b) else a >>> shiftCount ty b
def aandVal : BitVec 3 → Word64 → Word64 → Word64 := fun _ a b => a &&& b
def aorVal : BitVec 3 → Word64 → Word64 → Word64 := fun _ a b => a ||| b
def axorVal : BitVec 3 → Word64 → Word64 → Word64 := fun _ a b => a ^^^ b
def aminVal : BitVec 3 → Word64 → Word64 → Word64 := fun ty a b => if aLess ty b a then b else a
def amaxVal : BitVec 3 → Word64 → Word64 → Word64 := fun ty a b => if aLess ty a b then b else a

/-- AADD (R151, R152), register form. -/
def execAadd (h : Hdr) (a : FormA) (s : State) : Host.Outcome State Fault Refusal := aluReg aaddVal h a s
/-- AADD (R151, R152), immediate form. -/
def execAaddImm (h : Hdr) (a : FormA) (s : State) : Host.Outcome State Fault Refusal := aluImm aaddVal h a s
/-- ASUB (R151, R152), register form. -/
def execAsub (h : Hdr) (a : FormA) (s : State) : Host.Outcome State Fault Refusal := aluReg asubVal h a s
/-- ASUB (R151, R152), immediate form. -/
def execAsubImm (h : Hdr) (a : FormA) (s : State) : Host.Outcome State Fault Refusal := aluImm asubVal h a s
/-- AMUL (R151, R152), register form. -/
def execAmul (h : Hdr) (a : FormA) (s : State) : Host.Outcome State Fault Refusal := aluReg amulVal h a s
/-- AMUL (R151, R152), immediate form. -/
def execAmulImm (h : Hdr) (a : FormA) (s : State) : Host.Outcome State Fault Refusal := aluImm amulVal h a s
/-- ASHL (R151, R152), register form. -/
def execAshl (h : Hdr) (a : FormA) (s : State) : Host.Outcome State Fault Refusal := aluReg ashlVal h a s
/-- ASHL (R151, R152), immediate form. -/
def execAshlImm (h : Hdr) (a : FormA) (s : State) : Host.Outcome State Fault Refusal := aluImm ashlVal h a s
/-- ASHR (R151, R152), register form. -/
def execAshr (h : Hdr) (a : FormA) (s : State) : Host.Outcome State Fault Refusal := aluReg ashrVal h a s
/-- ASHR (R151, R152), immediate form. -/
def execAshrImm (h : Hdr) (a : FormA) (s : State) : Host.Outcome State Fault Refusal := aluImm ashrVal h a s
/-- AAND (R151, R152), register form. -/
def execAand (h : Hdr) (a : FormA) (s : State) : Host.Outcome State Fault Refusal := aluReg aandVal h a s
/-- AAND (R151, R152), immediate form. -/
def execAandImm (h : Hdr) (a : FormA) (s : State) : Host.Outcome State Fault Refusal := aluImm aandVal h a s
/-- AOR (R151, R152), register form. -/
def execAor (h : Hdr) (a : FormA) (s : State) : Host.Outcome State Fault Refusal := aluReg aorVal h a s
/-- AOR (R151, R152), immediate form. -/
def execAorImm (h : Hdr) (a : FormA) (s : State) : Host.Outcome State Fault Refusal := aluImm aorVal h a s
/-- AXOR (R151, R152), register form. -/
def execAxor (h : Hdr) (a : FormA) (s : State) : Host.Outcome State Fault Refusal := aluReg axorVal h a s
/-- AXOR (R151, R152), immediate form. -/
def execAxorImm (h : Hdr) (a : FormA) (s : State) : Host.Outcome State Fault Refusal := aluImm axorVal h a s
/-- AMIN (R151, R152), register form. -/
def execAmin (h : Hdr) (a : FormA) (s : State) : Host.Outcome State Fault Refusal := aluReg aminVal h a s
/-- AMIN (R151, R152), immediate form. -/
def execAminImm (h : Hdr) (a : FormA) (s : State) : Host.Outcome State Fault Refusal := aluImm aminVal h a s
/-- AMAX (R151, R152), register form. -/
def execAmax (h : Hdr) (a : FormA) (s : State) : Host.Outcome State Fault Refusal := aluReg amaxVal h a s
/-- AMAX (R151, R152), immediate form. -/
def execAmaxImm (h : Hdr) (a : FormA) (s : State) : Host.Outcome State Fault Refusal := aluImm amaxVal h a s

/-- AMAD (R152): A × B plus the extended immediate. -/
def execAmad (h : Hdr) (a : FormA) (s : State) : Host.Outcome State Fault Refusal :=
  aluReg (fun ty x y => x * y + extA ty a.imm) h a s

/-- AMOV (R154). -/
def execAmov (h : Hdr) (a : FormA) (s : State) : Host.Outcome State Fault Refusal :=
  withCtx s fun c => c.done h s (c.writeA h a.ty a.xd (fun l => c.opA a.ty l a.xa) c.warp)

/-- AMOVI (R154). -/
def execAmovi (h : Hdr) (a : FormA) (s : State) : Host.Outcome State Fault Refusal :=
  withCtx s fun c => c.done h s (c.writeA h a.ty a.xd (fun _ => extA a.ty a.imm) c.warp)

/-- The condition codes of R153. -/
def aCond (ty : BitVec 3) (cond : Nat) (a b : Word64) : Bool :=
  match cond with
  | 0 => a == b
  | 1 => a != b
  | 2 => aLess ty a b
  | 3 => !(aLess ty b a)
  | 4 => aLess ty b a
  | _ => !(aLess ty a b)

/-- ACMP in its two forms: a bit of g in each executing lane (R153). -/
def acmpWith (g cond : Nat) (b : Ctx → Nat → Word64) (h : Hdr) (a : FormA) (s : State) : Host.Outcome State Fault Refusal :=
  withCtx s fun c =>
    let v := (c.execLanes h).foldl (fun (m : Mask) l =>
      if aCond a.ty cond (c.opA a.ty l a.xa) (b c l) then m ||| (1 <<< l) else m &&& ~~~((1 : Mask) <<< l)) (c.warp.g.getD g 0)
    c.done h s { c.warp with g := c.warp.g.set! g v }

/-- ACMP, register form. -/
def execAcmp (h : Hdr) (a : FormA) (s : State) : Host.Outcome State Fault Refusal :=
  acmpWith (a.xd.toNat % 8) (a.imm.toNat % 16) (fun c l => c.opA a.ty l a.xb) h a s

/-- ACMP, immediate form. -/
def execAcmpImm (h : Hdr) (a : FormA) (s : State) : Host.Outcome State Fault Refusal :=
  acmpWith (a.xd.toNat % 8) (a.xb.toNat % 16) (fun _ _ => extA a.ty a.imm) h a s

/-- ASEL (R154). -/
def execAsel (h : Hdr) (a : FormA) (s : State) : Host.Outcome State Fault Refusal :=
  withCtx s fun c =>
    let m := c.maskReg (a.imm.toNat % 8)
    c.done h s (c.writeA h a.ty a.xd (fun l => if m.getLsbD l then c.opA a.ty l a.xa else c.opA a.ty l a.xb) c.warp)

/-- Drop n entries of SQ or IQ from the lanes of the issuing slices (R18); marks of what stays move up. -/
def Ctx.popQueue (c : Ctx) (isSq : Bool) (n : Nat) (w : Warp) : Warp :=
  if n == 0 then w
  else
    let w1 := w.modLanes c.gangMask fun _ k => if isSq then { k with sq := k.sq.drop n } else { k with iq := k.iq.drop n }
    { w1 with busy := w1.busy.filterMap fun b =>
        match b.loc with
        | .sq i => if isSq && c.gangMask.getLsbD b.lane then (if n ≤ i then some { b with loc := .sq (i - n) } else none) else some b
        | .iq i => if !isSq && c.gangMask.getLsbD b.lane then (if n ≤ i then some { b with loc := .iq (i - n) } else none) else some b
        | _ => some b }

/-- POPI (R154): one IQ entry in every lane, extended by type. -/
def execPopi (h : Hdr) (a : FormA) (s : State) : Host.Outcome State Fault Refusal :=
  withCtx s fun c =>
    c.gated s (c.popGate false 1) <|
      c.done h s (c.writeA h a.ty a.xd (fun l => extA a.ty ((c.warp.lane l).iq.getD 0 0)) (c.popQueue false 1 c.warp))

end Sys2Proof.Machine
end

