-- ==== Sys2Proof/Machine/Access.lean ====
section
/-! DEFINITION. Sys2Proof/Machine/Access.lean: addresses (R155, R156), the checks of R159 and R303, units (R158), and how an access issues
and what it leaves in flight (R161 to R173). -/

namespace Sys2Proof.Machine

/-! ## Sizes and addresses -/

/-- Bytes of a SIZE code (R93). -/
def sizeBytes (size : Nat) : Nat :=
  match size with
  | 1 | 6 => 2
  | 2 => 4
  | 3 => 8
  | 4 => 16
  | _ => 1

/-- Words that a size fills in x registers or queue entries (R162). -/
def sizeWords (size : Nat) : Nat := if size == 3 then 2 else if size == 4 then 4 else 1

/-- The effective address of a lane (R155): base, immediate, scaled index, and the IQ entry of LDX and STX. -/
def Ctx.ea (c : Ctx) (m : FormM) (base : Word64) (imm : Word64) (scale : Nat) (iq : Bool) (l : Nat) : Word64 :=
  let idx := if m.ie then (c.x l m.xi.toNat).signExtend 64 * BitVec.ofNat 64 scale else 0
  let q := if iq then ((c.warp.lane l).iq.getD 0 0).signExtend 64 * BitVec.ofNat 64 scale else 0
  base + imm + idx + q

def Ctx.eaOf (c : Ctx) (m : FormM) (scale : Nat) (iq : Bool) (l : Nat) : Word64 :=
  c.ea m (c.xx l m.xbase.toNat) (m.imm.signExtend 64) scale iq l

/-- A canonical address as the walker indexes it; wide addresses wrap (R155). -/
def vaOf (ea : Word64) (k : Nat) : Nat := (ea + BitVec.ofNat 64 k).toNat

/-! ## Checks (R159, R160, R303) -/

/-- What an access needs: reading, writing, how a fault record names it, natural alignment for every size. -/
structure Need where
  r : Bool
  w : Bool
  code : Nat
  aligned : Bool
  atomic : Bool
deriving DecidableEq, Repr

def needLoad : Need := ⟨true, false, 0, false, false⟩
def needStore : Need := ⟨false, true, 1, false, false⟩
def needAtomic : Need := ⟨true, true, 2, true, true⟩
def needLine : Need := ⟨true, false, 0, false, false⟩

/-- A check that failed in a lane. -/
structure Bad where
  code : Nat
  aux : Nat
  lane : Nat
  walk : Nat
  va : Nat
deriving DecidableEq, Repr

/-- What the checks of some lanes found: failures, addresses still to be walked, units, pages used with an address on each, and a wait (R289). -/
structure Checked where
  bad : List Bad
  miss : List Nat
  units : List AUnit
  pages : List (Nat × Page)
  wait : Bool
deriving DecidableEq, Repr

def Checked.none : Checked := ⟨[], [], [], [], false⟩

def Checked.add (a b : Checked) : Checked :=
  ⟨a.bad ++ b.bad, a.miss ++ b.miss, a.units ++ b.units, a.pages ++ b.pages, a.wait || b.wait⟩

/-- How an address translates for the issuing instruction: from the die's cache, as a walk of it just failed, or not yet. -/
inductive Look where
  | page (p : Page)
  | fault (walk : Nat)
  | miss
deriving DecidableEq, Repr

def samePage64 (a b : Nat) : Bool := a / 65536 == b / 65536

def State.look (s : State) (c : Ctx) (va : Nat) : Look :=
  if !(canonical va) then .fault 1
  else
    match c.st.walk.find? fun f => samePage64 f.va va with
    | some f => .fault f.result.toNat
    | none =>
      match s.cachedPage c.grp.die c.grp.core c.grp.dom va with
      | some p => .page p
      | none => .miss

/-- Some of n bytes at va lie in a segment of a code object (R98, R160). -/
def State.inCode (s : State) (dom va n : Nat) : Bool :=
  s.launches.any fun l => l.dom == dom && !l.ended &&
    [l.code.cSeg, l.code.aSeg, l.code.tSeg, l.code.dSeg].any fun sg => sg.2 != 0 && overlaps (l.code.base + sg.1) sg.2 va n

def State.inWorkspace (s : State) (dom va : Nat) : Bool :=
  match (s.domain dom).work with
  | some w => covers w.1 w.2 va
  | none => false

/-- The handler may store to its context block and the domain's fault queue (R356). -/
def State.handlerMay (s : State) (c : Ctx) (va : Nat) : Bool :=
  c.warp.handler && (covers c.warp.ctx (0x200 + 768 * c.warp.width) va ||
    match (s.domain c.grp.dom).work with
    | some w => covers w.1 Config.faultQueueBytes va
    | none => false)

/-- The checks of one page and the first byte of len there after a successful walk (R303, R336): 0x11, then 0x12. That a load or a copy may read
a code segment on a page with R = 1 is the model's choice (log 67). -/
def State.pageBad (s : State) (c : Ctx) (n : Need) (lane va len : Nat) (p : Page) : List Bad :=
  let perm := (n.r && !p.r) || (n.w && (!p.w || p.fx || s.inCode c.grp.dom va len))
  let owner := p.cc == 2 && !(p.xtag == c.grp.core && s.homeOf (stackOf p.pa) == c.grp.die)
  let work := n.w && s.inWorkspace c.grp.dom va && (n.atomic || !(s.handlerMay c va))
  (if perm then [⟨0x11, 0, lane, 4, va⟩] else []) ++ (if owner || work then [⟨0x12, 0, lane, 4, va⟩] else [])

/-- The single-copy atomic pieces of an access, as offset and length (R158). -/
def pieces (ea n : Nat) : List (Nat × Nat) :=
  if ea % n == 0 then (if n == 16 then [(0, 8), (8, 8)] else [(0, n)]) else (List.range n).map fun i => (i, 1)

/-- b64, b128 and every atomic must be naturally aligned (R158, R169). -/
def misaligned (need : Need) (ea n : Nat) : Bool := (need.aligned || 8 ≤ n) && ea % n != 0

/-- Check one lane of an access to memory. -/
def State.checkMem (s : State) (c : Ctx) (need : Need) (n lane : Nat) (ea : Word64) : Checked :=
  let one (k len : Nat) : Checked :=
    let va := vaOf ea k
    match s.look c va with
    | .fault w => { Checked.none with bad := [⟨0x10, 0, lane, w, va⟩] }
    | .miss => { Checked.none with miss := [va] }
    | .page p => { Checked.none with bad := s.pageBad c need lane va len p, pages := [(va, p)] }
  let ends := if n == 1 then one 0 1 else (one 0 n).add (one (n - 1) 1)
  let align : Checked := if misaligned need ea.toNat n then { Checked.none with bad := [⟨0x13, n, lane, 0xFF, ea.toNat⟩] } else Checked.none
  let units : List AUnit := (pieces ea.toNat n).filterMap fun p =>
    match s.look c (vaOf ea p.1) with
    | .page pg => some ⟨lane, p.1, p.2, .mem (pg.at_ (vaOf ea p.1)) pg, [], .issued, false, none, vaOf ea p.1⟩
    | _ => none
  (ends.add align).add { Checked.none with units := units }

/-- The group that a scratch slot names (R156); none for a member of the cohort that has retired (log 82). -/
def State.slotGroup (s : State) (g : Group) (slot : Nat) : Option Group :=
  if slot == 0xFF then some g
  else (g.cohort.filterMap fun n => s.group? ⟨g.key.seq, n⟩).find? (·.slot == slot)

/-- Check one lane of a scratch access (R156, R158, R289). -/
def State.checkScratch (s : State) (c : Ctx) (need : Need) (n lane : Nat) (ea : Word64) : Checked :=
  let slot := ea.toNat / 2 ^ 24 % 256
  let off := ea.toNat % 2 ^ 24
  let align : List Bad := if misaligned need off n then [⟨0x13, n, lane, 0xFF, ea.toNat⟩] else []
  match s.slotGroup c.grp slot with
  | none => { Checked.none with bad := align ++ [⟨0x14, slot, lane, 0xFF, ea.toNat⟩] }
  | some g =>
    let range : List Bad := if g.scBytes < off + n then [⟨0x14, slot, lane, 0xFF, ea.toNat⟩] else []
    { Checked.none with
        bad := align ++ range
        wait := g.rowsOut
        units := (pieces off n).map fun p => ⟨lane, p.1, p.2, .scratch g.key (off + p.1), [], .issued, false, none, ea.toNat + p.1⟩ }

/-- The data segment of the running code object: base and size (R157, R355). -/
def State.dataSegment (s : State) (c : Ctx) : Nat × Nat :=
  if c.warp.handler then
    let img := s.handlerImage c.warp.width
    (leAt img 0x40 8, leAt img 0x48 8)
  else
    match s.launch? c.iss.w.seq with
    | some l => (l.code.base + l.code.dSeg.1, l.code.dSeg.2)
    | none => (0, 0)

/-- Check one lane of an LDC (R157). -/
def State.checkData (s : State) (c : Ctx) (n lane : Nat) (ea : Word64) : Checked :=
  let (base, size) := s.dataSegment c
  let off := (ea - BitVec.ofNat 64 base).toNat
  if size < off + n then
    { Checked.none with bad := [⟨0x10, 0, lane, 0xFF, ea.toNat⟩] ++
        (if misaligned needLoad ea.toNat n then [⟨0x13, n, lane, 0xFF, ea.toNat⟩] else []) }
  else if c.warp.handler then
    { Checked.none with
        bad := if misaligned needLoad ea.toNat n then [⟨0x13, n, lane, 0xFF, ea.toNat⟩] else []
        units := (pieces ea.toNat n).map fun p => ⟨lane, p.1, p.2, .image (base + off + p.1), [], .issued, false, none, ea.toNat + p.1⟩ }
  else s.checkMem c needLoad n lane ea

/-! ## Issue -/

/-- The page of an address: its size, 64 KiB where no leaf says, and its number. -/
def State.pageKey (s : State) (dom va : Nat) : Nat × Nat :=
  let n := match s.walk dom va with
    | .leaf l _ _ => pageSize l
    | .fault _ _ => 65536
  (n, va / n)

/-- A walk of a page is under way on a die (R306). -/
def State.walkOn (s : State) (die dom : Nat) (k : Nat × Nat) : Bool :=
  s.groups.any fun g => g.die == die && g.dom == dom && g.warps.any fun w => [w.c, w.a].any fun t =>
    t.walking.any fun q => s.pageKey dom q.1 == k

/-- Record the walks an instruction waits for; they start now (R306, R349). Each page that misses counts in the core, and on the die when no walk
of it is under way (R400). One that asks for nothing new stalls as it did. -/
def Ctx.startWalks (c : Ctx) (s : State) (vas : List Nat) : State :=
  let new := vas.filter fun v => !(c.st.walking.any fun q => samePage64 q.1 v)
  let bare (v : Nat) : Bool := match s.walk c.grp.dom v with
    | .leaf _ _ e => unhomed e
    | .fault _ _ => false
  let pages := (new.map (s.pageKey c.grp.dom)).eraseDups
  if new.isEmpty then s
  else
    let s1 := (s.dieEvent c.grp.die 5 c.grp.dom (pages.countP fun k => !(s.walkOn c.grp.die c.grp.dom k))).coreEvent c.grp.die c.grp.core 9
      c.grp.dom pages.length
    s1.modWarp c.iss.w fun w => w.modStrand c.iss.strand fun t =>
      { t with walking := t.walking ++ new.map (fun v => (v, bare v)), walkGang := c.iss.gang, midway := true }

/-- The instruction waits before it issues, its checks passed: fetch of both strands goes on (R150, R349). -/
def Ctx.waits (c : Ctx) (s : State) : State := s.modWarp c.iss.w fun w => w.modStrand c.iss.strand fun t => { t with midway := false }

/-- The failure that becomes the cause: the lowest code, of the lowest lane (R159). -/
def worstBad (bs : List Bad) : Option Bad := argMin (fun b => b.code * 64 + b.lane) bs

def Ctx.trapBad (c : Ctx) (s : State) (access : Nat) (b : Bad) : Host.Outcome State Fault Refusal :=
  .next (c.raise s { c.cause b.code b.aux with
    slice := b.lane / 4, lane := b.lane, walk := b.walk, access := access, va := b.va, pc := (c.st.slice (b.lane / 4)).pc })

/-- The group whose scratch a unit falls in. -/
def AUnit.region? (u : AUnit) : Option GroupKey :=
  match u.place with
  | .scratch g _ => some g
  | _ => none

/-- Bank passes that serve the scratch words of some units (R287). -/
def bankPasses (us : List AUnit) : Nat :=
  let ws := (us.flatMap fun u => match u.place with
    | .scratch _ o => (List.range ((o + u.len + 3) / 4 - o / 4)).map (o / 4 + ·)
    | _ => []).eraseDups
  (((List.range 37).map fun b => ws.countP (· % 37 == b)).max?).getD 0

/-- Core events 0x04 and 0x05 of a scratch access: the passes of each half of the lanes, and those after the first (R287, R400; log 20). -/
def State.countPasses (s : State) (dom : Nat) (us : List AUnit) : State :=
  ((us.filterMap AUnit.region?).eraseDups.filterMap s.group?).foldl (fun s g =>
    if (s.core g.die g.core).counters.any (·.sel.getLsbD 16) then
      [0, 1].foldl (fun s half =>
        let n := bankPasses (us.filter fun u => u.lane / 32 == half && u.region? == some g.key)
        (s.coreEvent g.die g.core 4 dom n).coreEvent g.die g.core 5 dom (n - 1)) s
    else s) s

/-- Every check of every executing lane, then the access (R159): walks start, a failure traps, a wait leaves everything as it is. -/
def Ctx.checked (c : Ctx) (s : State) (access : Nat) (k : Checked) (go : State → List AUnit → Host.Outcome State Fault Refusal)
    (write : Bool) : Host.Outcome State Fault Refusal :=
  if !k.miss.isEmpty then .next (c.startWalks s k.miss)
  else
    match worstBad k.bad with
    | some b => c.trapBad s access b
    | none =>
      if k.wait then .next (c.waits s) else
      go ((k.pages.foldl (fun s x => s.reach c.grp.die c.grp.core c.grp.dom write x) s).countPasses c.grp.dom k.units) k.units

/-- The words of a lane's store data as bytes. -/
def storeBytes (n : Nat) (ws : List Word) : List Byte := (bytesOfWords ws).take n

def withData (data : Nat → List Byte) (us : List AUnit) : List AUnit :=
  us.map fun u => { u with data := bytesAt (data u.lane) u.off u.len }

/-- Put an access in flight; one without a unit is none. -/
def Warp.addAccess (w : Warp) (a : Access) : Warp := if a.units.isEmpty then w else { w with accs := w.accs ++ [a] }

/-- LQ entries of a load (R17, R18, R163): reserved in executing lanes, zeros in the others; nothing once the C-strand has exited. -/
def Ctx.reserveLq (c : Ctx) (h : Hdr) (id n : Nat) (w : Warp) : Warp :=
  if w.c.exited then w
  else
    let exec := c.exec h
    w.modLanes c.gangMask fun l k =>
      { k with lq := k.lq ++ List.replicate n (if exec.getLsbD l then ⟨id, none⟩ else ⟨0, some 0⟩) }

/-- The x registers that a load of a size writes. -/
def destRegs (xd size : Nat) : List Nat := (List.range (sizeWords size)).map (xd + ·)

/-- The home of the page that a group's first load of the phase reads (R328). -/
def State.noteLoad (s : State) (c : Ctx) (units : List AUnit) : State :=
  if c.grp.firstLoad.isSome || c.warp.handler then s
  else
    match units.head?.map AUnit.place with
    | some (Place.mem pa _) => s.modGroup c.grp.key fun g => { g with firstLoad := some (s.homeOf (stackOf pa)) }
    | _ => s

/-- Issue a load with its destination (R17, R81). pop: LDX and LDX_LQ take an IQ entry. -/
def Ctx.load (c : Ctx) (s : State) (h : Hdr) (m : FormM) (lq pop : Bool) (units : List AUnit) : Host.Outcome State Fault Refusal :=
  let id := s.nextId
  let size := m.size.toNat
  let acc : Access := ⟨id, .load, size, m.scope.toNat, m.nt, m.pol.toNat, 0, if lq then .lq else .xreg m.xd.toNat, units, false, c.slices.headD 0, c.pc⟩
  let w0 := c.popQueue false (if pop then 1 else 0) c.warp
  let w1 := w0.addAccess acc
  let s := s.noteLoad c units
  if lq then c.done h s.bumpId (c.reserveLq h id (sizeWords size) w1)
  else
    let regs := destRegs m.xd.toNat size
    let w2 := w1.unmark (c.exec h) fun loc => regs.any fun r => loc == .xreg r
    let w3 := regs.foldl (fun w r => w.owe (some id) (c.execLanes h) fun _ => .xreg r) w2
    c.done h s.bumpId (if units.isEmpty then w3 else { w3 with longs := w3.longs ++ [⟨id, .a, c.slices.headD 0, [], some id, c.pc⟩] })

/-- The gates of a load: an IQ entry to pop, LQ entries to reserve (R163). -/
def Ctx.loadGate (c : Ctx) (m : FormM) (lq pop : Bool) : Gate :=
  (if pop then c.popGate false 1 else .go).and (if lq then c.lqRoom (sizeWords m.size.toNat) else .go)

/-- LD, LDX and their LQ forms. -/
def loadMem (lq pop : Bool) (h : Hdr) (m : FormM) (s : State) : Host.Outcome State Fault Refusal :=
  withCtx s fun c =>
    c.gated s (c.loadGate m lq pop) <|
      let n := sizeBytes m.size.toNat
      let k := (c.execLanes h).foldl (fun k l => k.add (s.checkMem c needLoad n l (c.eaOf m n pop l))) Checked.none
      c.checked s 0 k (fun s us => c.load s h m lq pop us) false

/-- LDS. -/
def loadScratch (lq : Bool) (h : Hdr) (m : FormM) (s : State) : Host.Outcome State Fault Refusal :=
  withCtx s fun c =>
    c.gated s (c.loadGate m lq false) <|
      let n := sizeBytes m.size.toNat
      let k := (c.execLanes h).foldl (fun k l => k.add (s.checkScratch c needLoad n l (c.eaOf m n false l))) Checked.none
      c.checked s 0 k (fun s us => c.load s h m lq false us) false

/-- LDC. -/
def loadData (lq : Bool) (h : Hdr) (m : FormM) (s : State) : Host.Outcome State Fault Refusal :=
  withCtx s fun c =>
    c.gated s (c.loadGate m lq false) <|
      let n := sizeBytes m.size.toNat
      let base := BitVec.ofNat 64 (s.dataSegment c).1
      let k := (c.execLanes h).foldl (fun k l => k.add (s.checkData c n l (c.ea m base (m.imm.signExtend 64) n false l))) Checked.none
      c.checked s 0 k (fun s us => c.load s h m lq false us) false

/-- The data a lane stores: x registers, or the SQ entries popped (R162, R163). -/
def Ctx.storeData (c : Ctx) (m : FormM) (sq : Bool) (l : Nat) : List Byte :=
  let size := m.size.toNat
  let ws := if sq then (c.warp.lane l).sq.take (sizeWords size) else (destRegs m.xd.toNat size).map (c.x l)
  storeBytes (sizeBytes size) ws

/-- Issue a store. -/
def Ctx.store (c : Ctx) (s : State) (h : Hdr) (m : FormM) (sq pop : Bool) (units : List AUnit) : Host.Outcome State Fault Refusal :=
  let acc : Access := ⟨s.nextId, .store, m.size.toNat, m.scope.toNat, m.nt, m.pol.toNat, 0, .none,
    withData (c.storeData m sq) units, false, c.slices.headD 0, c.pc⟩
  let w := c.popQueue true (if sq then sizeWords m.size.toNat else 0) (c.popQueue false (if pop then 1 else 0) c.warp)
  c.done h s.bumpId (w.addAccess acc)

def Ctx.storeGate (c : Ctx) (m : FormM) (sq pop : Bool) : Gate :=
  (if pop then c.popGate false 1 else .go).and (if sq then c.popGate true (sizeWords m.size.toNat) else .go)

/-- ST, STX and their SQ forms. -/
def storeMem (sq pop : Bool) (h : Hdr) (m : FormM) (s : State) : Host.Outcome State Fault Refusal :=
  withCtx s fun c =>
    c.gated s (c.storeGate m sq pop) <|
      let n := sizeBytes m.size.toNat
      let k := (c.execLanes h).foldl (fun k l => k.add (s.checkMem c needStore n l (c.eaOf m n pop l))) Checked.none
      c.checked s 1 k (fun s us => c.store s h m sq pop us) true

/-- STS. -/
def storeScratch (sq : Bool) (h : Hdr) (m : FormM) (s : State) : Host.Outcome State Fault Refusal :=
  withCtx s fun c =>
    c.gated s (c.storeGate m sq false) <|
      let n := sizeBytes m.size.toNat
      let k := (c.execLanes h).foldl (fun k l => k.add (s.checkScratch c needStore n l (c.eaOf m n false l))) Checked.none
      c.checked s 1 k (fun s us => c.store s h m sq false us) true

end Sys2Proof.Machine
end

