-- ==== Sys2Proof/Machine/Atomics.lean ====
section
/-! DEFINITION. Sys2Proof/Machine/Atomics.lean: ATOM, RED and MRED (R168 to R173). -/

namespace Sys2Proof.Machine

/-! ## The operation (R170) -/

/-- A floating-point sum of codes, rounded rne, with no FTZ and no flag. -/
def atomAdd (frac a b : Nat) : Nat := (finish ⟨frac, 0, false, false⟩ (addVal 0 (binVal frac a) (binVal frac b))).code

/-- A BF16 operation on each half that the access holds. -/
def onHalves (n : Nat) (f : Nat → Nat → Nat) (a b : Nat) : Nat :=
  if n == 2 then f a b else f (a % 2 ^ 16) (b % 2 ^ 16) + 2 ^ 16 * f (a / 2 ^ 16) (b / 2 ^ 16)

/-- The new value of an atomic of n bytes: old, d (cmp for .cas) and the new value nv of .cas. -/
def atomNew (aop n old d nv : Nat) : Nat :=
  let w := 8 * n
  match aop with
  | 0 => (old + d) % 2 ^ w
  | 1 => if asInt true w old ≤ asInt true w d then old else d
  | 2 => if asInt true w old ≤ asInt true w d then d else old
  | 3 => min old d
  | 4 => max old d
  | 5 => old &&& d
  | 6 => old ||| d
  | 7 => old ^^^ d
  | 8 => d
  | 9 => if old == d then nv else old
  | 10 => atomAdd 23 old d
  | 11 => minMaxCode false 23 old d
  | 12 => minMaxCode true 23 old d
  | 13 => onHalves n (atomAdd 7) old d
  | 14 => onHalves n (minMaxCode false 7) old d
  | _ => onHalves n (minMaxCode true 7) old d

/-- The bytes an atomic leaves: its operands are n bytes of d, then those of nv. -/
def atomBytes (aop n : Nat) (operands old : List Byte) : List Byte :=
  leBytes n (atomNew aop n (leNat old) (leNat (operands.take n)) (leNat (operands.drop n)))

/-! ## Issue -/

/-- The operands of one lane: d, or cmp and nv for .cas (R170). -/
def Ctx.atomData (c : Ctx) (m : FormM) (l : Nat) : List Byte :=
  let n := sizeBytes m.size.toNat
  let k := sizeWords m.size.toNat
  let reg (r : Nat) : List Byte := storeBytes n ((List.range k).map fun i => c.x l (r + i))
  reg m.xd.toNat ++ (if m.aop == 9 then reg (m.xd.toNat + k) else [])

/-- Put an atomic in flight; an ATOM is long and owes X(XR). -/
def Ctx.atomic (c : Ctx) (s : State) (h : Hdr) (m : FormM) (kind : AccessKind) (units : List AUnit) : Host.Outcome State Fault Refusal :=
  let id := s.nextId
  let size := m.size.toNat
  let us := units.map fun u => { u with data := c.atomData m u.lane }
  let acc : Access := ⟨id, kind, size, m.scope.toNat, false, m.pol.toNat, m.aop.toNat,
    if kind == .atom then .xreg m.xr.toNat else .none, us, false, c.slices.headD 0, c.pc⟩
  let w1 := c.warp.addAccess acc
  if kind == .atom then
    let regs := destRegs m.xr.toNat size
    let w2 := w1.unmark (c.exec h) fun loc => regs.any fun r => loc == .xreg r
    let w3 := regs.foldl (fun w r => w.owe (some id) (c.execLanes h) fun _ => .xreg r) w2
    c.done h s.bumpId (if us.isEmpty then w3 else { w3 with longs := w3.longs ++ [⟨id, .a, c.slices.headD 0, [], some id, c.pc⟩] })
  else c.done h s.bumpId w1

/-- An atomic in memory or, with .sp (bit 28), in scratch (R169 to R172). -/
def atomicWith (kind : AccessKind) (h : Hdr) (m : FormM) (s : State) : Host.Outcome State Fault Refusal :=
  withCtx s fun c =>
    let n := sizeBytes m.size.toNat
    let ea (l : Nat) : Word64 := c.ea m (c.xx l m.xbase.toNat) (m.imm15.signExtend 64) n false l
    let one (l : Nat) : Checked := if m.nt then s.checkScratch c needAtomic n l (ea l) else s.checkMem c needAtomic n l (ea l)
    let k := (c.execLanes h).foldl (fun k l => k.add (one l)) Checked.none
    c.checked s 2 k (fun s us => c.atomic s h m kind us) true

/-- ATOM (R170). -/
def execAtom (h : Hdr) (m : FormM) (s : State) : Host.Outcome State Fault Refusal := atomicWith .atom h m s

/-- RED (R170). -/
def execRed (h : Hdr) (m : FormM) (s : State) : Host.Outcome State Fault Refusal := atomicWith .red h m s

/-- MRED (R173). -/
def execMred (h : Hdr) (m : FormM) (s : State) : Host.Outcome State Fault Refusal := atomicWith .mred h m s

end Sys2Proof.Machine
end

