-- ==== Sys2Proof/Machine/Sha.lean ====
section
/-! DEFINITION. Sys2Proof/Machine/Sha.lean: SHA-384 and SHA-512 (FIPS 180-4), the hash of the measurement registers and firmware checks (R389,
R390) and the one inside Ed25519. Their constants are computed from what the standard says they are. -/

namespace Sys2Proof.Machine

/-! ## Constants -/

/-- The k-th root of n, rounded down: Newton's steps from a number that is no less, until one does not descend. -/
def rootFrom (k n : Nat) : Nat → Nat → Nat
  | 0, x => x
  | fuel + 1, x =>
    let y := ((k - 1) * x + n / x ^ (k - 1)) / k
    if y < x then rootFrom k n fuel y else x

/-- The first 64 bits of the fraction of the k-th root of a small prime. -/
def rootFraction (k p : Nat) : Word64 := BitVec.ofNat 64 (rootFrom k (p * 2 ^ (64 * k)) 40 (2 ^ 70))

/-- The 80 primes below 410: numbers that none below 21, the root of 441, divides. -/
def smallPrimes : List Nat := (List.range 410).filter fun n => 2 ≤ n && (List.range 21).all fun d => d < 2 || n ≤ d || n % d != 0

/-- One constant a round: cube roots of the first 80 primes. -/
def shaRoundKeys : List Word64 := smallPrimes.map (rootFraction 3)

/-- The initial hash values: square roots of the first 8 primes, and of the next 8 for the shorter digest. -/
def sha512Start : List Word64 := (smallPrimes.take 8).map (rootFraction 2)
def sha384Start : List Word64 := ((smallPrimes.drop 8).take 8).map (rootFraction 2)

/-! ## The compression -/

/-- The sum of a word's rotations to the right. -/
def turned (by_ : List Nat) (x : Word64) : Word64 := by_.foldl (fun acc n => acc ^^^ x.rotateRight n) 0

/-- The schedule grows by n words; the newest stands first. -/
def shaExtend : Nat → List Word64 → List Word64
  | 0, w => w
  | n + 1, w =>
    let late := w.getD 1 0
    let early := w.getD 14 0
    shaExtend n ((w.getD 15 0 + w.getD 6 0 + (turned [1, 8] early ^^^ early >>> 7) + (turned [19, 61] late ^^^ late >>> 6)) :: w)

/-- One round on the eight working words, with its word and constant added up. -/
def shaMix (v : List Word64) (input : Word64) : List Word64 :=
  let at_ (i : Nat) : Word64 := v.getD i 0
  let choose := at_ 6 ^^^ (at_ 4 &&& (at_ 5 ^^^ at_ 6))
  let most := (at_ 0 &&& at_ 1) ||| (at_ 2 &&& (at_ 0 ||| at_ 1))
  let up := at_ 7 + turned [14, 18, 41] (at_ 4) + choose + input
  [up + turned [28, 34, 39] (at_ 0) + most, at_ 0, at_ 1, at_ 2, at_ 3 + up, at_ 4, at_ 5, at_ 6]

def bigEndian (n v : Nat) : List Byte := (leBytes n v).reverse

/-- One block of 128 bytes. -/
def shaCompress (h : List Word64) (block : List Byte) : List Word64 :=
  let words := (List.range 16).map fun i => BitVec.ofNat 64 (leNat (bytesAt block (8 * i) 8).reverse)
  let schedule := (shaExtend 64 words.reverse).reverse
  List.zipWith (· + ·) h ((List.zipWith (· + ·) schedule shaRoundKeys).foldl shaMix h)

/-- The message with its padding: a one bit, zeros, and its length in bits as 16 bytes. -/
def shaPadded (m : List Byte) : List Byte :=
  m ++ 0x80 :: List.replicate ((239 - m.length % 128) % 128) 0 ++ bigEndian 16 (8 * m.length)

/-- The digest of n bytes that starts from some hash value. -/
def sha2 (start : List Word64) (n : Nat) (m : List Byte) : List Byte :=
  let p := shaPadded m
  let h := (List.range (p.length / 128)).foldl (fun h i => shaCompress h (bytesAt p (128 * i) 128)) start
  (h.flatMap fun x => bigEndian 8 x.toNat).take n

def sha384 (m : List Byte) : List Byte := sha2 sha384Start 48 m
def sha512 (m : List Byte) : List Byte := sha2 sha512Start 64 m

end Sys2Proof.Machine
end

