-- ==== Sys2Proof/Machine/Ed25519.lean ====
section
/-! DEFINITION. Sys2Proof/Machine/Ed25519.lean: Ed25519 (RFC 8032), the classical half of the dual signatures (R8, R390 to R393). A point of the
curve −x² + y² = 1 + dx²y² is a pair of residues; numbers are little-endian. -/

namespace Sys2Proof.Machine

/-- The field's modulus and the order of the base point. -/
def edP : Nat := 2 ^ 255 - 19
def edOrder : Nat := 2 ^ 252 + 27742317777372353535851937790883648493

/-- The n-bit exponent e of b modulo m, by squares: the last two arguments are the square reached and the product so far. -/
def powSquares (m e : Nat) : Nat → Nat → Nat → Nat → Nat
  | 0, _, _, acc => acc
  | n + 1, i, sq, acc => powSquares m e n (i + 1) (sq * sq % m) (if e.testBit i then acc * sq % m else acc)

def powMod (m b e : Nat) : Nat := powSquares m e (Nat.log2 e + 1) 0 (b % m) 1

def edInverse (x : Nat) : Nat := powMod edP x (edP - 2)

/-- −121665/121666. -/
def edD : Nat := (edP - 121665) * edInverse 121666 % edP

/-- The sum of two points. -/
def edSum (a b : Nat × Nat) : Nat × Nat :=
  let cross := a.1 * b.1 * a.2 * b.2 % edP * edD % edP
  ((a.1 * b.2 + b.1 * a.2) * edInverse (1 + cross) % edP, (a.2 * b.2 + a.1 * b.1) * edInverse (1 + edP - cross) % edP)

/-- n times a point, n below 2^bits: the double first, then what the top bit adds. -/
def edTimes (a : Nat × Nat) (n : Nat) : Nat → Nat × Nat
  | 0 => (0, 1)
  | bits + 1 =>
    let half := edTimes a (n / 2) bits
    let twice := edSum half half
    if n % 2 == 1 then edSum twice a else twice

/-- The x of a y, with the given parity. -/
def edFindX (y : Nat) (odd : Bool) : Option Nat :=
  let ratio := (y * y + edP - 1) * edInverse (edD * (y * y) + 1) % edP
  let root := powMod edP ratio ((edP + 3) / 8)
  let fixed := if root * root % edP == ratio then root else root * powMod edP 2 ((edP - 1) / 4) % edP
  if edP ≤ y || fixed * fixed % edP != ratio || (fixed == 0 && odd) then none
  else some (if (fixed % 2 == 1) == odd then fixed else edP - fixed)

/-- A point as 32 bytes: y, with the parity of x on top. -/
def edEncode (a : Nat × Nat) : List Byte := leBytes 32 (a.2 + a.1 % 2 * 2 ^ 255)

def edDecode (b : List Byte) : Option (Nat × Nat) :=
  let n := leNat b
  (edFindX (n % 2 ^ 255) (n.testBit 255)).map fun x => (x, n % 2 ^ 255)

/-- The base point: y = 4/5, x even. -/
def edBase : Nat × Nat :=
  let y := 4 * edInverse 5 % edP
  ((edFindX y false).getD 0, y)

/-- The challenge of a signature. -/
def edChallenge (r key message : List Byte) : Nat := leNat (sha512 (r ++ key ++ message)) % edOrder

/-- A signature of a message verifies under a public key: 8SB = 8R + 8hA. -/
def ed25519Verify (key message sig : List Byte) : Bool :=
  let s := leAt sig 32 32
  match edDecode key, edDecode (sig.take 32) with
  | some a, some r =>
    key.length == 32 && sig.length == 64 && s < edOrder &&
      edTimes edBase (8 * s) 256 == edSum (edTimes r 8 4) (edTimes a (8 * edChallenge (sig.take 32) key message) 256)
  | _, _ => false

/-- The secret scalar and the prefix that a seed stands for. -/
def edSecret (seed : List Byte) : Nat × List Byte :=
  let h := sha512 seed
  (2 ^ 254 + leAt h 0 32 % 2 ^ 254 / 8 * 8, h.drop 32)

def ed25519Key (seed : List Byte) : List Byte := edEncode (edTimes edBase (edSecret seed).1 255)

def ed25519Sign (seed message : List Byte) : List Byte :=
  let (a, pre) := edSecret seed
  let nonce := leNat (sha512 (pre ++ message)) % edOrder
  let r := edEncode (edTimes edBase nonce 253)
  r ++ leBytes 32 ((nonce + edChallenge r (ed25519Key seed) message * a) % edOrder)

end Sys2Proof.Machine
end

