-- ==== Sys2Proof/Machine/MlDsa.lean ====
section
/-! DEFINITION. Sys2Proof/Machine/MlDsa.lean: SHAKE (FIPS 202) and ML-DSA-65 (FIPS 204), the post-quantum half of the dual signatures (R8, R390
to R393). Every constant is computed from its definition in the standard. -/

namespace Sys2Proof.Machine

/-! ## SHAKE. The 25 lanes of the permutation stand in one list, lane (x, y) at place 5y + x. -/

def laneAt (a : List Word64) (x y : Nat) : Word64 := a.getD (5 * (y % 5) + x % 5) 0

def lanes25 (f : Nat → Nat → Word64) : List Word64 := (List.range 25).map fun i => f (i % 5) (i / 5)

/-- The walk that gives every lane but the first its rotation: at its t-th place the triangular number of t + 1. -/
def keccakTurns : List (Nat × Nat) :=
  ((List.range 24).foldl (fun (p : List (Nat × Nat) × Nat × Nat) t =>
    ((5 * p.2.2 + p.2.1, (t + 1) * (t + 2) / 2 % 64) :: p.1, p.2.2, (2 * p.2.1 + 3 * p.2.2) % 5)) ([], 1, 0)).1

def laneTurn (x y : Nat) : Nat := ((keccakTurns.find? (·.1 == 5 * y + x)).map (·.2)).getD 0

/-- Powers of x modulo x⁸ + x⁶ + x⁵ + x⁴ + 1. -/
def lfsr : Nat → Nat
  | 0 => 1
  | n + 1 => let v := 2 * lfsr n; if 256 ≤ v then v ^^^ 0x171 else v

/-- The constant of a round: bits 2^j − 1 from the generator. -/
def keccakConstant (round : Nat) : Word64 :=
  (List.range 7).foldl (fun c j => if lfsr (7 * round + j) % 2 == 1 then c ||| (1 <<< (2 ^ j - 1)) else c) 0

def keccakRound (a : List Word64) (round : Nat) : List Word64 :=
  let column (x : Nat) : Word64 := (List.range 5).foldl (fun c y => c ^^^ laneAt a x y) 0
  let columns := (List.range 5).map column
  let parity (x : Nat) : Word64 := columns.getD ((x + 4) % 5) 0 ^^^ (columns.getD ((x + 1) % 5) 0).rotateLeft 1
  let spread := lanes25 fun x y => (laneAt a x y ^^^ parity x).rotateLeft (laneTurn x y)
  let moved := lanes25 fun x y => laneAt spread (x + 3 * y) x
  let mixed := lanes25 fun x y => laneAt moved x y ^^^ (~~~(laneAt moved (x + 1) y) &&& laneAt moved (x + 2) y)
  mixed.set 0 (mixed.getD 0 0 ^^^ keccakConstant round)

def keccak (a : List Word64) : List Word64 := (List.range 24).foldl keccakRound a

/-- A block of rate bytes goes into the state. -/
def absorb (a : List Word64) (block : List Byte) : List Word64 :=
  keccak (mapIdxList (fun i v => v ^^^ BitVec.ofNat 64 (leAt block (8 * i) 8)) a)

/-- Blocks of rate bytes that come out. -/
def squeeze (rate : Nat) : Nat → List Word64 → List Byte
  | 0, _ => []
  | n + 1, a => (a.flatMap fun v => leBytes 8 v.toNat).take rate ++ squeeze rate n (keccak a)

/-- The message with the bits 1111, the padding's first 1 and its last. -/
def shakePadded (rate : Nat) (m : List Byte) : List Byte :=
  let gap := rate - 1 - m.length % rate
  if gap == 0 then m ++ [0x9F] else m ++ 0x1F :: List.replicate (gap - 1) 0 ++ [0x80]

def shake (rate : Nat) (m : List Byte) (n : Nat) : List Byte :=
  let p := shakePadded rate m
  let a := (List.range (p.length / rate)).foldl (fun a i => absorb a (bytesAt p (rate * i) rate)) (List.replicate 25 0)
  (squeeze rate ((n + rate - 1) / rate) a).take n

def shake128 (m : List Byte) (n : Nat) : List Byte := shake 168 m n
def shake256 (m : List Byte) (n : Nat) : List Byte := shake 136 m n

/-! ## Polynomials: lists of 256 residues -/

def dsaQ : Nat := 8380417

abbrev Poly := List Nat

def Poly.plus (a b : Poly) : Poly := List.zipWith (fun x y => (x + y) % dsaQ) a b
def Poly.minus (a b : Poly) : Poly := List.zipWith (fun x y => (x + dsaQ - y) % dsaQ) a b
def Poly.times (a b : Poly) : Poly := List.zipWith (fun x y => x * y % dsaQ) a b
def Poly.zero : Poly := List.replicate 256 0

/-- The bits of a number below 256, turned round. -/
def bitsTurned (n : Nat) : Nat := (List.range 8).foldl (fun r i => 2 * r + n / 2 ^ i % 2) 0

/-- Powers of 1753, a primitive 512th root of unity. -/
def rootPowers : Array Nat := ((List.range 511).foldl (fun (p : Array Nat × Nat) _ =>
  let v := p.2 * 1753 % dsaQ
  (p.1.push v, v)) (#[1], 1)).1

def rootPower (e : Nat) : Nat := rootPowers.getD (e % 512) 0

/-- The odd power at which value i of a transformed polynomial is taken. -/
def placeOf (i : Nat) : Nat := 2 * bitsTurned i + 1

/-- The transform: the polynomial's values at the odd powers of the root; and back. -/
def Poly.values (a : Poly) : Poly :=
  (List.range 256).map fun i =>
    let k := placeOf i
    (a.foldl (fun (p : Nat × Nat) c => (p.1 + c * rootPower (k * p.2), p.2 + 1)) (0, 0)).1 % dsaQ

def Poly.coefficients (v : Poly) : Poly :=
  (List.range 256).map fun j =>
    let sum := (v.foldl (fun (p : Nat × Nat) c => (p.1 + c * rootPower (512 * 256 - placeOf p.2 * j), p.2 + 1)) (0, 0)).1
    sum % dsaQ * 8347681 % dsaQ

/-- Distance of a residue from 0. -/
def normOf (x : Nat) : Nat := min x (dsaQ - x)

def Poly.norm (a : Poly) : Nat := (a.map normOf).foldl max 0

def vecNorm (v : List Poly) : Nat := (v.map Poly.norm).foldl max 0

/-- A row of a matrix times a vector. -/
def dotPoly (a b : List Poly) : Poly := (List.zipWith Poly.times a b).foldl Poly.plus Poly.zero

/-! ## Bits and bytes -/

/-- Numbers of some bits each, first bit lowest, as bytes; and back. -/
def packBits (width : Nat) (v : List Nat) : List Byte :=
  leBytes (width * v.length / 8) (v.foldr (fun x acc => x + 2 ^ width * acc) 0)

def unpackBits (width n : Nat) (b : List Byte) : List Nat :=
  let all := leNat b
  (List.range n).map fun i => all / 2 ^ (width * i) % 2 ^ width

/-! ## ML-DSA-65: matrix 6 × 5, η 4, γ₁ 2¹⁹, γ₂ (q − 1)/32, τ 49, β 196, ω 55 -/

def gamma1 : Nat := 2 ^ 19
def gamma2 : Nat := (dsaQ - 1) / 32
def dsaBeta : Nat := 196

/-- Up to 256 of the 3-byte candidates below q. A stream of eight blocks holds them all but never. -/
def uniformPoly (seed : List Byte) : Poly :=
  let s := shake128 seed 1344
  let found := ((List.range 448).map fun i => leAt s (3 * i) 3 % 2 ^ 23).filter (· < dsaQ)
  (found ++ Poly.zero).take 256

/-- The matrix, in transformed form. -/
def expandA (rho : List Byte) : List (List Poly) :=
  (List.range 6).map fun r => (List.range 5).map fun c => uniformPoly (rho ++ leBytes 1 c ++ leBytes 1 r)

/-- Coefficients from −4 to 4: half bytes below 9. -/
def shortPoly (seed : List Byte) : Poly :=
  let s := shake256 seed 1088
  let found := (s.flatMap fun b => [b.toNat % 16, b.toNat / 16]).filter (· < 9)
  ((found.map fun x => (dsaQ + 4 - x) % dsaQ) ++ Poly.zero).take 256

/-- The challenge: 49 coefficients 1 or −1, each placed by the first byte that is not above its turn. -/
def placeBall (signs : Nat) : Nat → Nat → List Byte → Poly → Poly
  | 0, _, _, c => c
  | n + 1, i, s, c =>
    let rest := s.dropWhile fun b => i < b.toNat
    let j := (rest.headD 0).toNat
    placeBall signs n (i + 1) (rest.drop 1) ((c.set i (c.getD j 0)).set j (if signs.testBit (i - 207) then dsaQ - 1 else 1))

def ballOf (seed : List Byte) : Poly :=
  let s := shake256 seed 544
  placeBall (leAt s 0 8) 49 207 (s.drop 8) Poly.zero

/-- The high part of a residue for γ₂, and its low part as a residue. -/
def decompose (r : Nat) : Nat × Nat :=
  let m := 2 * gamma2
  let low := if r % m ≤ gamma2 then r % m else r % m + dsaQ - m
  let rest := (r + dsaQ - low) % dsaQ
  if rest == dsaQ - 1 then (0, (low + dsaQ - 1) % dsaQ) else (rest / m, low)

def highPart (r : Nat) : Nat := (decompose r).1

/-- A hint moves the high part one up or down, of sixteen. -/
def useHint (h r : Nat) : Nat :=
  let (high, low) := decompose r
  if h == 0 then high
  else if 0 < low && low ≤ dsaQ / 2 then (high + 1) % 16
  else (high + 15) % 16

/-- The hints of a signature: for each polynomial the places, rising, ended by its running count; none where they are out of form. -/
def readHints (b : List Byte) : Option (List Poly) :=
  let count (i : Nat) : Nat := if i == 0 then 0 else leAt b (54 + i) 1
  let places (i : Nat) : List Nat := (List.range (count (i + 1) - count i)).map fun k => leAt b (count i + k) 1
  let rising (l : List Nat) : Bool := (l.zip (l.drop 1)).all fun p => p.1 < p.2
  let ok := (List.range 6).all (fun i => count i ≤ count (i + 1) && count (i + 1) ≤ 55 && rising (places i)) &&
    (b.drop (count 6)).take (55 - count 6) == List.replicate (55 - count 6) 0
  if ok then some ((List.range 6).map fun i => (places i).foldl (fun (c : Poly) k => c.set k 1) Poly.zero) else none

def writeHints (h : List Poly) : List Byte :=
  let places := h.map fun c => (List.range 256).filter fun k => c.getD k 0 != 0
  let counts := (List.range 6).map fun i => ((places.take (i + 1)).map (·.length)).sum
  ((places.flatten.flatMap (leBytes 1)) ++ List.replicate 55 0).take 55 ++ counts.flatMap (leBytes 1)

/-- What both sides hash: the key's digest, an empty context, the message. -/
def messageRep (tr message : List Byte) : List Byte := shake256 (tr ++ [0, 0] ++ message) 64

/-- A signature of a message verifies under a public key. -/
def mldsaVerify (key message sig : List Byte) : Bool :=
  let z := (List.range 5).map fun i =>
    (unpackBits 20 256 (bytesAt sig (48 + 640 * i) 640)).map fun x => (dsaQ + gamma1 - x) % dsaQ
  let t1 := (List.range 6).map fun i => unpackBits 10 256 (bytesAt key (32 + 320 * i) 320)
  match readHints (sig.drop 3248) with
  | none => false
  | some hints =>
    let c := (ballOf (sig.take 48)).values
    let zv := z.map Poly.values
    let high := (List.range 6).map fun i =>
      let shifted := Poly.values ((t1.getD i []).map fun x => x * 2 ^ 13 % dsaQ)
      let w := (((dotPoly ((expandA (key.take 32)).getD i []) zv).minus (c.times shifted))).coefficients
      List.zipWith useHint (hints.getD i []) w
    let mu := messageRep (shake256 key 64) message
    key.length == 1952 && sig.length == 3309 && vecNorm z < gamma1 - dsaBeta &&
      shake256 (mu ++ high.flatMap (packBits 4)) 48 == sig.take 48

/-- A key pair as its seed gives it (FIPS 204, KeyGen): ρ, K, s₁, s₂, t. -/
structure DsaKey where
  rho : List Byte
  k : List Byte
  s1 : List Poly
  s2 : List Poly
  t : List Poly

def dsaKeyOf (seed : List Byte) : DsaKey :=
  let h := shake256 (seed ++ [6, 5]) 128
  let short (n : Nat) : Poly := shortPoly (bytesAt h 32 64 ++ leBytes 2 n)
  let s1 := (List.range 5).map short
  let s2 := (List.range 6).map fun i => short (5 + i)
  let s1v := s1.map Poly.values
  let t := List.zipWith (fun row s => (dotPoly row s1v).coefficients.plus s) (expandA (h.take 32)) s2
  ⟨h.take 32, h.drop 96, s1, s2, t⟩

/-- The low 13 bits of a residue, centred, as a residue; and the rest. -/
def lowBits13 (r : Nat) : Nat := if r % 2 ^ 13 ≤ 2 ^ 12 then r % 2 ^ 13 else r % 2 ^ 13 + dsaQ - 2 ^ 13
def highBits13 (r : Nat) : Nat := (r + dsaQ - lowBits13 r) % dsaQ / 2 ^ 13

def DsaKey.public (k : DsaKey) : List Byte := k.rho ++ k.t.flatMap fun p => packBits 10 (p.map highBits13)

def mldsaKey (seed : List Byte) : List Byte := (dsaKeyOf seed).public

/-- The mask of an attempt. -/
def maskPoly (seed : List Byte) (n : Nat) : Poly :=
  (unpackBits 20 256 (shake256 (seed ++ leBytes 2 n) 640)).map fun x => (dsaQ + gamma1 - x) % dsaQ

/-- One attempt at a signature. -/
def DsaKey.attempt (k : DsaKey) (mu seed : List Byte) (n : Nat) : Option (List Byte) :=
  let y := (List.range 5).map fun i => maskPoly seed (n + i)
  let yv := y.map Poly.values
  let w := (expandA k.rho).map fun row => (dotPoly row yv).coefficients
  let ct := shake256 (mu ++ w.flatMap fun p => packBits 4 (p.map highPart)) 48
  let c := (ballOf ct).values
  let by_ (p : Poly) : Poly := (c.times p.values).coefficients
  let z := List.zipWith (fun a s => a.plus (by_ s)) y k.s1
  let r := List.zipWith (fun a s => a.minus (by_ s)) w k.s2
  let low := r.map fun p => p.map fun x => (decompose x).2
  let ct0 := k.t.map fun p => by_ (p.map lowBits13)
  let hints := List.zipWith (fun a b => List.zipWith (fun x u => if highPart x != highPart ((x + u) % dsaQ) then 1 else 0) a b) r ct0
  let ones := (hints.map List.sum).sum
  if gamma1 - dsaBeta ≤ vecNorm z || gamma2 - dsaBeta ≤ vecNorm low || gamma2 ≤ vecNorm ct0 || 55 < ones then none
  else some (ct ++ z.flatMap (fun p => packBits 20 (p.map fun x => (dsaQ + gamma1 - x) % dsaQ)) ++ writeHints hints)

/-- Attempts until one succeeds: about one in five does. -/
def DsaKey.attempts (k : DsaKey) (mu seed : List Byte) : Nat → Nat → List Byte
  | 0, _ => []
  | fuel + 1, n => (k.attempt mu seed n).getD (k.attempts mu seed fuel (n + 5))

/-- A signature; rnd are its 32 random bytes. -/
def mldsaSign (seed rnd message : List Byte) : List Byte :=
  let k := dsaKeyOf seed
  let mu := messageRep (shake256 k.public 64) message
  k.attempts mu (shake256 (k.k ++ rnd ++ mu) 64) 1000 0

end Sys2Proof.Machine
end

