-- ==== Sys2Proof/Machine/InFlight.lean ====
section
/-! DEFINITION. Sys2Proof/Machine/InFlight.lean: accesses in flight: what a load reads, when a store, an atomic or an MRED is made and performed
at a scope (R17, R158, R164, R171, R174, R263 to R266, R276, R385), and the fences that wait for them (R175 to R178). -/

namespace Sys2Proof.Machine

/-! ## The error log (R401) -/

/-- Units of an error-log entry: 0 pool, 1 L2 or remote-line cache, 2 HBM, 3 link, 4 die, 5 poisoned MRED. Kinds: 0 corrected, 1 not. -/
def State.logError (s : State) (die unit kind addr : Nat) : State :=
  { s with module := { s.module with
      log := (s.module.log ++ [(⟨s.time0.toNat, die, unit, kind, addr⟩ : LogEntry)]).drop (s.module.log.length + 1 - 4096)
      logged := s.module.logged + 1 } }

/-! ## Finding accesses -/

/-- Where an access stands: its core, group and cohort, its domain, what of the same warp is in flight with it, whether its warp is still
there. -/
structure Flight where
  die : Nat
  core : Nat
  g : GroupKey
  cohort : List Nat
  dom : Nat
  acc : Access
  others : List Access
  warp : Option (Group × Warp)
deriving DecidableEq, Repr

/-- The accesses that a retired warp, or a copy it issued, left in flight (R167, R282). -/
def State.orphansOf (s : State) (k : WarpKey) : List Orphan :=
  match s.launch? k.seq with
  | some l => l.orphans.filter (·.w == k)
  | none => []

/-- Access id of a warp, or of what a warp left behind. -/
def State.flight? (s : State) (k : WarpKey) (id : Nat) : Option Flight :=
  match (s.group? k.group).bind fun g => (g.warp? k).bind fun w => (w.accs.find? (·.id == id)).map fun a => (g, w, a) with
  | some (g, w, a) => some ⟨g.die, g.core, g.key, g.cohort, g.dom, a, w.accs, some (g, w)⟩
  | none =>
    let os := s.orphansOf k
    (os.find? (·.acc.id == id)).map fun o => ⟨o.die, o.core, k.group, o.cohort, o.dom, o.acc, os.map (·.acc), none⟩

/-- Two units touch a common byte. -/
def placeMeets (a b : AUnit) : Bool :=
  match a.place, b.place with
  | .mem p _, .mem q _ => overlaps p a.len q b.len
  | .scratch g o, .scratch k q => g == k && overlaps o a.len q b.len
  | _, _ => false

/-- An earlier access of the warp to the same bytes has still to be made, so this one waits (R264); MRED stands outside (R173). -/
def Flight.blocked (f : Flight) (u : AUnit) : Bool :=
  f.acc.kind != .mred && f.others.any fun a =>
    a.id < f.acc.id && a.kind != .mred && a.units.any fun v => v.level == .issued && placeMeets u v

/-- The access has nothing left to perform. -/
def Access.finished (a : Access) : Bool := a.units.all (·.level == .panel)

/-- Replace an access, or forget it once it is over. -/
def putAccess (a : Access) (l : List Access) : List Access :=
  if a.finished then l.filter (·.id != a.id) else l.map fun b => if b.id == a.id then a else b

/-- Change an access of a warp, or of what it left behind. An ATOM stays until its result is written. -/
def State.setAccess (s : State) (k : WarpKey) (a : Access) : State :=
  match (s.warp? k).bind fun w => if w.accs.any (·.id == a.id) then some w else none with
  | some w =>
    let keep := w.longs.any (·.access == some a.id)
    s.modWarp k fun w => { w with accs := if keep then w.accs.map (fun b => if b.id == a.id then a else b) else putAccess a w.accs }
  | none =>
    s.modLaunch k.seq fun l => { l with
      orphans := if a.finished then l.orphans.filter fun o => !(o.w == k && o.acc.id == a.id)
                 else l.orphans.map fun o => if o.w == k && o.acc.id == a.id then { o with acc := a } else o }

def Access.setUnit (a : Access) (i : Nat) (u : AUnit) : Access := { a with units := updAt i (fun _ => u) a.units }

/-! ## Narrow scopes (R174, R260, R264) -/

def Level.rank : Level → Nat
  | .issued => 0
  | .grp => 1
  | .clu => 2
  | .coh => 3
  | .die => 4
  | .panel => 5

/-- A unit is performed at a scope (R174, R260). -/
def AUnit.performedAt (u : AUnit) (scope : Nat) : Bool := min 5 (scope + 1) ≤ u.level.rank

/-- Who acts, as scopes see it (R260). -/
structure Agent where
  die : Nat
  core : Nat
  g : GroupKey
  cohort : List Nat
deriving DecidableEq, Repr

def Flight.agent (f : Flight) : Agent := ⟨f.die, f.core, f.g, f.cohort⟩
def Group.agent (g : Group) : Agent := ⟨g.die, g.core, g.key, g.cohort⟩
def Orphan.agent (o : Orphan) : Agent := ⟨o.die, o.core, o.w.group, o.cohort⟩

/-- Agent b lies in the scope of a level, reckoned from a (R260). -/
def Agent.reaches (a : Agent) (lv : Level) (b : Agent) : Bool :=
  let here := a.die == b.die
  lv == .panel || (lv != .issued && a.g == b.g) || (lv.rank ≥ 2 && here && a.core / 24 == b.core / 24) ||
    (lv.rank ≥ 3 && here && a.g.seq == b.g.seq && a.cohort.contains b.g.grp) || (lv == .die && here)

/-- A unit of a write that some agents see and others not yet; free: no fence of its warp covers it (R175, R275). -/
structure Early where
  by_ : Agent
  w : WarpKey
  id : Nat
  idx : Nat
  unit : AUnit
  free : Bool
deriving DecidableEq, Repr

def earlyOf (by_ : Agent) (w : WarpKey) (a : Access) : List Early :=
  (mapIdxList (fun i u => (⟨by_, w, a.id, i, u, a.kind == .mred || a.kind == .copy || (a.kind == .store && a.nt && !a.drained)⟩ : Early))
    a.units).filter fun e => 0 < e.unit.level.rank && e.unit.level.rank < 5

/-- Those made on a die and not performed everywhere. -/
def State.partials (s : State) (die : Nat) : List Early :=
  (s.groups.filter (·.die == die)).flatMap (fun g => g.warps.flatMap fun w => w.accs.flatMap (earlyOf g.agent w.key)) ++
    s.launches.flatMap fun l => (l.orphans.filter (·.die == die)).flatMap fun o => earlyOf o.agent o.w o.acc

/-- Those that agents of the die see and others of it not yet. -/
def State.earlies (s : State) (die : Nat) : List Early := (s.partials die).filter fun e => e.unit.level.rank < 4

/-- Such a store stands before the die for some of n bytes at pa. -/
def State.earlyAt (s : State) (die pa n : Nat) : Bool :=
  (s.earlies die).any fun e => match e.unit.place with
    | .mem q _ => overlaps q e.unit.len pa n
    | _ => false

/-- Into a list that rises by access. -/
def insertEarly (e : Early) : List Early → List Early
  | [] => [e]
  | x :: xs => if e.id ≤ x.id then e :: x :: xs else x :: insertEarly e xs

/-- Those that an agent sees of n bytes at pa, oldest first. -/
def State.earlySeen (s : State) (a : Agent) (pa n : Nat) : List Early :=
  ((s.earlies a.die).filter fun e => e.by_.reaches e.unit.level a && (match e.unit.place with
    | .mem q _ => overlaps q e.unit.len pa n
    | _ => false)).foldr insertEarly []

/-- Bytes as an agent sees them: what its die holds, under the stores that have reached the agent (R264). -/
def State.over (s : State) (a : Agent) (pa : Nat) (bs : List Byte) : List Byte :=
  (s.earlySeen a pa bs.length).foldl (fun bs e => match e.unit.place with
    | .mem q _ => mapIdxList (fun i b => if covers q e.unit.len (pa + i) then e.unit.data.getD (pa + i - q) 0 else b) bs
    | _ => bs) bs

/-- Another early unit meets the bytes, and some agent would see both at the level: then no agent may, and the unit takes its place in the die's
coherence order first (log 68). -/
def State.crowded (s : State) (f : Flight) (pa n : Nat) (lv : Level) : Bool :=
  let who := f.agent :: (s.groups.filter (·.die == f.die)).map Group.agent
  (s.earlies f.die).any fun e => (match e.unit.place with
    | .mem q _ => overlaps q e.unit.len pa n
    | _ => false) && !(e.id == f.acc.id) && (e.by_ :: who).any fun v => e.by_.reaches e.unit.level v && f.agent.reaches lv v

/-- Read n bytes of memory for an agent (R264): none while it waits, for a flip (R311) or at the home (R386). Poison under a store that has not
reached the whole die waits for it. -/
def State.readFor (s : State) (a : Agent) (dom : Nat) (page : Page) (scope pol : Nat) (nt : Bool) (pa n : Nat) :
    Option (List Byte × Bool × State) :=
  if s.flipClosed a.die page then none
  else
    match s.readAt a.die dom page scope pol nt pa n with
    | none => none
    | some (bs, bad, s1) => if bad && !(s.earlySeen a pa n).isEmpty then none else some (s.over a pa bs, bad, s1)

/-! ## Poison (R385) -/

/-- A cause of an access that has completed, in the lane of unit u: both strands stop; what comes from before a handler waits until it ends. Of
those that several slices and lanes raise the lowest is recorded (R50, R351, R361). -/
def Warp.poisonCause (w : Warp) (a : Access) (u : AUnit) : Warp :=
  let r := { Raised.plain 0x08 0 (u.lane / 4) .a true a.pc [u.lane / 4] with
    lane := u.lane, access := if a.kind == .load then 0 else 2, va := u.va }
  let add (rs : List Raised) : List Raised := if rs.contains r then rs else rs ++ [r]
  match w.saved with
  | some v =>
    if a.id < v.since then { w with saved := some { v with kept := add v.kept } }
    else { w with pending := add w.pending, c := { w.c with stopped := true }, a := { w.a with stopped := true } }
  | none => { w with pending := add w.pending, c := { w.c with stopped := true }, a := { w.a with stopped := true } }

/-! ## Loads -/

/-- The bytes a unit reads now, and whether a sector of them is poisoned; none while a flip or a swap of the rows holds it up. -/
def State.readUnit (s : State) (f : Flight) (u : AUnit) : Option (List Byte × Bool × State) :=
  match u.place with
  | .mem pa page => s.readFor f.agent f.dom page f.acc.scope f.acc.pol f.acc.nt (s.visible f.die page pa) u.len
  | .scratch g off => if ((s.group? g).map (·.rowsOut)).getD false then none else some (s.scratchSee g off u.len, false, s)
  | .image off =>
    match f.warp with
    | some (_, w) => some (bytesAt (s.handlerImage w.width) off u.len, false, s)
    | none => some (List.replicate u.len 0, false, s)

/-- The value of a lane once all its units are read: zero when one met poison (R385). -/
def Access.laneValue (a : Access) (lane : Nat) : Nat :=
  let us := a.units.filter (·.lane == lane)
  if us.any (·.poisoned) then 0 else (us.map fun u => leNat (u.data.take u.len) * 2 ^ (8 * u.off)).sum

/-- The words of a loaded value (R162): b8 and b16 zero-extended, s8 and s16 sign-extended. -/
def loadWords (size v : Nat) : List Word :=
  match size with
  | 5 => [(BitVec.ofNat 8 v).signExtend 32]
  | 6 => [(BitVec.ofNat 16 v).signExtend 32]
  | _ => (List.range (sizeWords size)).map fun i => BitVec.ofNat 32 (v / 2 ^ (32 * i))

/-- Fill the entries that a load reserved, in order (R17). -/
def fillLq (id : Nat) : List LqEntry → List Word → List LqEntry
  | [], _ => []
  | q, [] => q
  | e :: q, v :: vs => if e.load == id && e.data.isNone then ⟨id, some v⟩ :: fillLq id q vs else e :: fillLq id q (v :: vs)

/-- Write words to x registers that the long result still owes (R81). -/
def Warp.settleX (w : Warp) (id lane xd : Nat) (ws : List Word) : Warp :=
  (List.range ws.length).foldl (fun w i =>
    let b : Busy := ⟨id, lane, .xreg (xd + i)⟩
    if w.busy.contains b then { (w.modLane lane fun k => k.setX (xd + i) (ws.getD i 0)) with busy := w.busy.filter (· != b) }
    else w) w

/-- A lane's loaded value reaches its register or its LQ entries. -/
def Warp.deliver (w : Warp) (a : Access) (lane : Nat) (now : Nat) : Warp :=
  let ws := loadWords a.size (a.laneValue lane)
  match a.dest with
  | .none => w
  | .xreg i => w.settleX a.id lane i ws
  | .lq =>
    (w.modLane lane fun k => { k with lq := fillLq a.id k.lq ws }).recount now

/-- Unit i of a load has its value; the lane's result follows its last unit, and the end of the access its last lane. -/
def State.loadUnit (s : State) (k : WarpKey) (f : Flight) (i : Nat) (u : AUnit) : State :=
  match s.readUnit f u with
  | none => s
  | some (bs, bad, s1) =>
    let a := f.acc.setUnit i { u with data := bs, level := .panel, poisoned := bad }
    let laneDone := (a.units.filter (·.lane == u.lane)).all (·.level == .panel)
    s1.modWarp k fun w =>
      let w1 := if bad then w.poisonCause a u else w
      let w2 := if laneDone then w1.deliver a u.lane s.now else w1
      if a.finished then { w2 with accs := w2.accs.filter (·.id != a.id), longs := w2.longs.filter (·.access != some a.id) }
      else { w2 with accs := w2.accs.map fun b => if b.id == a.id then a else b }

/-- LOAD_DATA_RETURN (R17, R281): the value of one unit of a load is fixed. -/
def execLoadDataReturn (w : WarpKey) (id unit : Nat) (s : State) : Host.Outcome State Fault Refusal :=
  match s.flight? w id with
  | none => .next s
  | some f =>
    match f.acc.units[unit]? with
    | none => .next s
    | some u => if f.acc.kind == .load && u.level == .issued && !(f.blocked u) then .next (s.loadUnit w f unit u) else .next s

/-! ## Stores and atomics -/

/-- Make a store at its die: the unit afterwards, with the copy of a publish pair it reached, none while it is held up. -/
def State.makeStore (s : State) (f : Flight) (u : AUnit) : Option (AUnit × State) :=
  match u.place with
  | .mem pa page =>
    if s.flipClosed f.die page then none
    else
      let at_ := s.visible f.die page pa
      let r := s.writeAt f.die f.dom page f.acc.scope f.acc.pol f.acc.nt at_ u.data (f.acc.size == 4)
      some ({ u with level := .die, packet := r.2, place := .mem at_ page }, r.1)
  | .scratch g off =>
    if ((s.group? g).map (·.rowsOut)).getD false then none else some ({ u with level := .panel }, s.scratchWrite g off u.data)
  | .image _ => some ({ u with level := .panel }, s)

/-- A store reaches the agents of a narrow scope before its die; one to a publish pair, or to what another such store has reached, goes to
the die at once (log 68). -/
def State.narrow (s : State) (f : Flight) (u : AUnit) (lv : Level) : Option (AUnit × State) :=
  match u.place with
  | .mem pa page => if page.pp.isSome || s.crowded f pa u.len lv then s.makeStore f u else some ({ u with level := lv }, s)
  | _ => s.makeStore f u

/-- A store that its agent sees and its die does not is to the same bytes. -/
def State.waitsEarly (s : State) (f : Flight) (u : AUnit) : Bool :=
  match u.place with
  | .mem pa _ => !(s.earlySeen f.agent pa u.len).isEmpty
  | _ => false

/-- Make an atomic (R170, R171): the unit holds the old bytes, or nothing and the mark of poison. One made at the home of an SC line first gives
up the die's copy. -/
def State.makeAtomic (s : State) (f : Flight) (u : AUnit) : Option (AUnit × State) :=
  let op := atomBytes f.acc.aop u.len u.data
  match u.place with
  | .mem pa page =>
    if s.flipClosed f.die page then none
    else
      let at_ := s.visible f.die page pa
      let far := 4 ≤ servedAt page f.acc.scope
      if far && (s.cached? f.die (lineOf at_)).isSome then some (u, s.giveUp f.die (lineOf at_))
      else match s.atomicAt f.die f.dom page f.acc.scope f.acc.pol at_ u.len op with
      | none => none
      | some (none, s1, _) => some ({ u with level := .panel, poisoned := true, data := [] }, s1)
      | some (some old, s1, pkt) =>
        let lv : Level := if far then .panel else .die
        some ({ u with level := lv, packet := pkt, data := old, place := .mem at_ page }, s1)
  | .scratch g off =>
    if ((s.group? g).map (·.rowsOut)).getD false then none
    else
      let old := s.scratchSee g off u.len
      some ({ u with level := .panel, data := old }, s.scratchWrite g off (op old))
  | .image _ => none

/-- Dirty bytes of a range of an SC line go to the home (R292). -/
def State.flushRange (s : State) (die pa n : Nat) : State :=
  match s.cached? die (lineOf pa) with
  | none => s
  | some l =>
    let msk := dirtyMask (inLine pa) n
    let s1 := s.writeBack die { l with dirty := l.dirty &&& msk }
    s1.modDie die fun k => { k with lines := putLine { l with dirty := l.dirty &&& ~~~msk } k.lines }

/-- A unit made in its die becomes performed at .pnl (R174): every die has an HC write; what the die wrote of an SC line has reached the home, which
the part sends there itself though R173 asks software for CWB (log 85). None while what must precede it is not. -/
def State.performUnit (s : State) (die : Nat) (u : AUnit) : Option (AUnit × State) :=
  match u.place with
  | .mem pa page =>
    if page.cc == 0 then
      match u.packet with
      | none => some ({ u with level := .panel }, s)
      | some p => (s.performPanel (s.homeOf (stackOf pa)) p).map fun s1 => ({ u with level := .panel }, s1)
    else if page.cc == 1 then
      let s1 := s.flushRange die pa u.len
      some (if s1.memory.sent.any fun q => q.src == die && overlaps q.pa q.bytes.length pa u.len then u else { u with level := .panel }, s1)
    else some ({ u with level := .panel }, s)
  | _ => some ({ u with level := .panel }, s)

/-- The next level of a unit of a store, ATOM or RED. -/
def State.advance (s : State) (f : Flight) (u : AUnit) : Option (AUnit × State) :=
  match u.level with
  | .issued =>
    if f.blocked u || s.waitsEarly f u then none
    else if f.acc.kind == .store then s.narrow f u .grp else s.makeAtomic f u
  | .grp => s.narrow f u .clu
  | .clu => s.narrow f u .coh
  | .coh => s.makeStore f u
  | .die => s.performUnit f.die u
  | .panel => none

/-- Record what became of a unit, and the cause of poison that an ATOM or RED met. -/
def State.advanced (s : State) (k : WarpKey) (f : Flight) (i : Nat) (u : AUnit) : State :=
  let s1 := s.setAccess k (f.acc.setUnit i u)
  if u.poisoned && u.level == .panel && f.acc.kind != .mred then s1.modWarp k fun w => w.poisonCause f.acc u else s1

/-- STORE_PERFORMED (R174): a unit of a store, ATOM or RED is made, or becomes performed at the wider scope. -/
def execStorePerformed (w : WarpKey) (id unit : Nat) (s : State) : Host.Outcome State Fault Refusal :=
  match s.flight? w id with
  | none => .next s
  | some f =>
    match f.acc.units[unit]? with
    | none => .next s
    | some u =>
      if f.acc.kind == .load || f.acc.kind == .mred then .next s
      else
        match s.advance f u with
        | none => .next s
        | some (u', s1) => .next (s1.advanced w f unit u')

/-! ## MRED (R173, R276) -/

/-- The MSA applies an MRED at the home (R276); poison discards it (R385). On an HC line cached copies on other dies remain until the
write reaches them. -/
def State.makeMred (s : State) (f : Flight) (u : AUnit) : Option (AUnit × State) :=
  match u.place with
  | .mem pa0 page =>
    let pa := s.visible f.die page pa0
    if s.flipClosed f.die page then none
    else
      match s.atHome f.die f.dom (page.cc == 0) pa u.len (atomBytes f.acc.aop u.len u.data) with
      | none => none
      | some (none, s1, _) => some ({ u with level := .panel, poisoned := true }, s1.logError (stackOf pa) 5 1 pa)
      | some (some _, s1, pkt) =>
        some ({ u with level := if page.cc == 0 then .die else .panel, packet := pkt, place := .mem pa page }, s1)
  | _ => none

/-- MRED_APPLY (R276): the MSA applies a unit; then every cached copy of its HC line has been invalidated. -/
def execMredApply (w : WarpKey) (id unit : Nat) (s : State) : Host.Outcome State Fault Refusal :=
  match s.flight? w id with
  | none => .next s
  | some f =>
    match f.acc.units[unit]? with
    | none => .next s
    | some u =>
      if f.acc.kind != .mred then .next s
      else
        let r := match u.level with
          | .issued => s.makeMred f u
          | .die => s.performUnit f.die u
          | _ => none
        match r with
        | none => .next s
        | some (u', s1) => .next (s1.advanced w f unit u')

/-! ## Long results (R81) -/

/-- Write one location of a lane from a word that was held for it: the value stands there already and only the mark goes. -/
def Warp.clearLong (w : Warp) (id : Nat) : Warp :=
  { w with busy := w.busy.filter (·.id != id), longs := w.longs.filter (·.id != id) }

/-- An ATOM's old values reach XR (R170, R385). -/
def Warp.atomResult (w : Warp) (a : Access) : Warp :=
  (a.units.map (·.lane)).foldl (fun w l =>
    match a.dest with
    | .xreg i => w.settleX a.id l i (loadWords a.size (a.laneValue l))
    | _ => w) w

/-- A long result is written, its flags set and their causes raised (R27, R81): the saved PC is then that of the next instruction not issued,
which may stand after the one that raised the cause (log 62). A load's result comes with LOAD_DATA_RETURN. -/
def Warp.writeLong (w : Warp) (l : LongOp) (now : Nat) : Option Warp :=
  match l.access with
  | none => some (((w.clearLong l.id).meetFlags l.strand l.pc l.flags).recount now)
  | some id =>
    match w.accs.find? (·.id == id) with
    | none => some (w.clearLong l.id)
    | some a =>
      if a.kind == .atom && a.units.all (·.level != .issued) then
        let w1 := (w.atomResult a).clearLong l.id
        some { w1 with accs := if a.finished then w1.accs.filter (·.id != id) else w1.accs }
      else none

/-- LONG_RESULT_WRITE (R81). -/
def execLongResultWrite (w : WarpKey) (id : Nat) (s : State) : Host.Outcome State Fault Refusal :=
  match s.warp? w with
  | none => .next s
  | some k =>
    match k.longs.find? (·.id == id) with
    | none => .next s
    | some l =>
      match k.writeLong l s.now with
      | none => .next s
      | some k' => .next (s.modWarp w fun _ => k')

/-! ## Writes reaching dies (R296) -/

/-- The first write of a source that a die has not applied. -/
def Memory.nextFor (m : Memory) (die src : Nat) : Option Packet :=
  argMin (·.seq) ((m.sent ++ m.log).filter fun p => p.src == src && !(p.seenBy die))

/-- REMOTE_WRITE_APPLY (R265, R296): a die applies the next write of another source once what the sender had applied is there; the home
first of all. -/
def execRemoteWriteApply (die src : Nat) (s : State) : Host.Outcome State Fault Refusal :=
  if !(s.isLive die) then .next s
  else
    match s.memory.nextFor die src with
    | none => .next s
    | some p =>
      if !(s.memory.applicable die p) then .next s
      else if p.old.isSome then .next (s.dieApply die p)
      else if s.homeOf (stackOf p.pa) == die then .next (s.homeApply die p)
      else .next s

/-! ## Walks (R302, R305, R306) -/

/-- The strand waits for the walk of an address. -/
def StrandSt.awaits (t : StrandSt) (va size : Nat) : Bool := t.walking.any fun v => v.1 / size == va / size

/-- What a walk's end does to a strand: the address is there, or the failure is kept for the waiting instruction. -/
def StrandSt.walked (t : StrandSt) (va size : Nat) (bad : Option Nat) : StrandSt :=
  if t.awaits va size then
    { t with
        walk := match bad with
          | some r => t.walk ++ (t.walking.filter fun v => v.1 / size == va / size).map fun v => ⟨v.1, BitVec.ofNat 8 r⟩
          | none => t.walk
        walking := t.walking.filter fun v => v.1 / size != va / size }
  else t

def State.walkDone (s : State) (die dom va size : Nat) (bad : Option Nat) : State :=
  { s with groups := s.groups.map fun g =>
      if g.die == die && g.dom == dom then
        { g with warps := g.warps.map fun w => { w with c := w.c.walked va size bad, a := w.a.walked va size bad } }
      else g }

/-- Strands of a die that wait for the walk of an address, by group. -/
def State.walkers (s : State) (die dom va : Nat) : List (Group × StrandSt) :=
  (s.groups.filter fun g => g.die == die && g.dom == dom).flatMap fun g =>
    (g.warps.flatMap fun w => [w.c, w.a].filter (·.awaits va 65536)).map fun t => (g, t)

/-- The walk found the page without a home, and its compare-and-swap finds one (R305). -/
def State.lostRace (s : State) (dom va : Nat) (who : List (Group × StrandSt)) : Bool :=
  (who.any fun x => x.2.walking.any fun v => v.2 && v.1 / 65536 == va / 65536) && (match s.walk dom va with
    | .leaf _ _ e => field e 13 13 == 1 && !(unhomed e)
    | .fault _ _ => false)

/-- An access that stalls under QZ has not issued (R308): the strands that wait for the page are at an instruction boundary. -/
def State.walkStalls (s : State) (die dom va size : Nat) : State :=
  let free (t : StrandSt) : StrandSt := if t.awaits va size then { t with midway := false } else t
  { s with groups := s.groups.map fun g =>
      if g.die == die && g.dom == dom then { g with warps := g.warps.map fun w => { w with c := free w.c, a := free w.a } } else g }

/-- TRANSLATION_WALK_COMPLETE (R302, R305, R306): a walk that strands of the die wait for, or that a copy makes again, ends. One that lost the
race for a first touch keeps the page it took (page other than 0). A page in transition answers nothing (R307). -/
def execTranslationWalkComplete (die dom va page : Nat) (s : State) : Host.Outcome State Fault Refusal :=
  let who := s.walkers die dom va
  if !(s.isLive die) || (who.isEmpty && !((s.die die).tlb.any (tlbHit dom va))) then .next s
  else
    match s.resolve die ((who.head?.map (·.1.core)).getD 0) dom va with
    | (s1, .error r) => .next ((s1.chargeWalk dom va).walkDone die dom va 65536 (some r))
    | (s1, .ok p) =>
      if p.qz then .next (s.walkStalls die dom va p.size)
      else
        let code := if p.size == 2 ^ 16 then 0 else if p.size == 2 ^ 21 then 1 else 2
        let s2 := if page != 0 && s.lostRace dom va who then s1.keepReserve die dom code else s1
        let s3 := (who.map (·.1.core)).eraseDups.foldl (fun s c => s.cachePage die c dom va p) (s2.chargeWalk dom va)
        .next (s3.walkDone die dom va p.size none)

/-! ## Strand deadlock (R19) -/

/-- STRAND_DEADLOCK (R19): 256 ck of the active set have passed with both strands stalled: the C-strand traps, the A-strand stops. -/
def execStrandDeadlock (k : WarpKey) (s : State) : Host.Outcome State Fault Refusal :=
  match s.group? k.group with
  | none => .next s
  | some g =>
    match g.warp? k with
    | none => .next s
    | some w =>
      let due := match w.stuckSince with
        | some t => t + 256 ≤ s.now
        | none => false
      if !(g.active && w.deadlocked && due && w.pending.isEmpty) then .next s
      else
        let i := ((List.range w.c.slices.length).find? fun i => (w.c.slice i).live != 0 && (w.waitsFor w.c i).isSome).getD 0
        let qs := [w.c, w.a].foldl (fun (m : BitVec 3) t => (List.range t.slices.length).foldl (fun m i =>
          match w.waitsFor t i with
          | some q => if (t.slice i).live != 0 then m ||| q.bits else m
          | none => m) m) 0
        let r := Raised.plain 0x24 qs.toNat i .c false (w.c.slice i).pc (gangSlices w.c (w.c.slice i).gang)
        .next (s.modWarp k fun w =>
          { w with pending := [r], c := { w.c with stopped := true }, a := { w.a with stopped := true }, stuckSince := none })

/-! ## Ordering (R174 to R178) -/

/-- Accesses in flight that the strand of a warp issued. -/
def Warp.earlier (w : Warp) (p : Access → Bool) : Bool := w.accs.any p

/-- The .acq condition: every load has its value, every ATOM its result (R175). -/
def Warp.acquired (w : Warp) : Bool :=
  !(w.earlier fun a => a.kind == .load) && !(w.longs.any fun l => l.access.isSome)

/-- A write that an agent sees has reached every agent within its scope s: its own group's is performed there; another's, seen in part of the die,
has reached the whole die, and for .pnl and .sys the panel. -/
def Early.wideFor (e : Early) (a : Agent) (scope : Nat) : Bool :=
  if e.by_ == a then e.unit.performedAt scope else scope == 0 || (if scope ≤ 3 then 4 else 5) ≤ e.unit.level.rank

/-- What an agent releases at a scope beside its own accesses: every write that it sees, for happens-before is transitive (R267, R270); beyond the
die, also the writes of other dies that its die has applied (log 81). -/
def State.seenWide (s : State) (a : Agent) (scope : Nat) : Bool :=
  ((s.partials a.die).all fun e => e.free || !(e.by_.reaches e.unit.level a) || e.wideFor a scope) &&
  (scope ≤ 3 || (s.memory.sent ++ s.memory.log).all fun p =>
    p.only.isSome || p.src == a.die || !(p.seenBy a.die) || s.liveDies.all p.seenBy)

/-- The further condition of .rel and .ar at a scope (R175). -/
def Warp.released (w : Warp) (scope : Nat) : Bool :=
  !(w.earlier fun a => (a.kind == .atom || a.kind == .red || (a.kind == .store && (!a.nt || a.drained))) &&
    a.units.any fun u => !(u.performedAt scope))

/-- FENCE (R175): waits before it issues. -/
def execFence (h : Hdr) (m : FormM) (s : State) : Host.Outcome State Fault Refusal :=
  withCtx s fun c =>
    if c.warp.acquired && (m.size == 1 || (c.warp.released m.scope.toNat && s.seenWide c.grp.agent m.scope.toNat)) then c.done h s c.warp else .next s

/-- Every MRED of the warp is applied, and on HC pages no copy within the scope is stale (R176). -/
def State.reduced (s : State) (c : Ctx) (scope : Nat) : Bool :=
  !(c.warp.earlier fun a => a.kind == .mred && a.units.any fun u =>
    match u.level with
    | .panel => false
    | .die => 4 ≤ scope || (s.memory.sent ++ s.memory.log).any fun p => some p.id == u.packet && !(p.seenBy c.grp.die)
    | _ => true)

/-- RFENCE (R176). -/
def execRfence (h : Hdr) (m : FormM) (s : State) : Host.Outcome State Fault Refusal :=
  withCtx s fun c => if s.reduced c m.scope.toNat then c.done h s c.warp else .next s

/-- DRAIN (R177): non-temporal stores of the strand are performed at the scope, and count as ordinary ones from here on. -/
def execDrain (h : Hdr) (m : FormM) (s : State) : Host.Outcome State Fault Refusal :=
  withCtx s fun c =>
    if c.warp.earlier fun a => a.kind == .store && a.nt && a.units.any fun u => !(u.performedAt m.scope.toNat) then .next s
    else
      c.done h s { c.warp with accs := c.warp.accs.map fun a => if a.kind == .store && a.nt then { a with drained := true } else a }

/-! ## CWB and CINV (R178) -/

/-- A line of an SC page that CWB or CINV moves at a scope beyond the die. -/
def scLines (scope : Nat) (us : List AUnit) : List Nat :=
  if scope ≤ 3 then []
  else (us.filterMap fun u =>
    match u.place with
    | .mem pa page => if page.cc == 1 then some (lineOf pa) else none
    | _ => none).eraseDups

/-- Write back a line; the copies stay clean. -/
def State.cleanLine (s : State) (die line : Nat) : State :=
  let s1 := ((s.die die).lines.filter (·.line == line)).foldl (fun s l => s.writeBack die l) s
  s1.modDie die fun k => { k with lines := k.lines.map fun l => if l.line == line then { l with dirty := 0 } else l }

/-- CWB and CINV: the checks of a read, then each line once. An earlier access of the warp to the line comes first (R264), and what is written
back has reached the home before the instruction is done. -/
def lineOp (drop : Bool) (h : Hdr) (m : FormM) (s : State) : Host.Outcome State Fault Refusal :=
  withCtx s fun c =>
    let k := (c.execLanes h).foldl (fun k l => k.add (s.checkMem c needLine 1 l (c.eaOf m 1 false l))) Checked.none
    c.checked s 0 k (fun s1 us =>
      let seen := us.map fun u => match u.place with
        | .mem pa page => { u with place := .mem (s.visible c.grp.die page pa) page }
        | _ => u
      let lines := scLines m.scope.toNat seen
      let waits := c.warp.accs.any fun a => a.kind != .mred && a.units.any fun u =>
        u.level.rank < 4 && (match u.place with
          | .mem pa _ => lines.contains (lineOf pa)
          | _ => false)
      if waits then .next (c.waits s)
      else
        let s2 := lines.foldl (fun s l => s.cleanLine c.grp.die l) s1
        if lines.any (s2.memory.ownOnWay c.grp.die) then .next (c.waits s2)
        else c.done h (if drop then lines.foldl (fun s l => s.dropCopies c.grp.die l) s2 else s2) c.warp) false

/-- CWB (R178). -/
def execCwb (h : Hdr) (m : FormM) (s : State) : Host.Outcome State Fault Refusal := lineOp false h m s

/-- CINV (R178). -/
def execCinv (h : Hdr) (m : FormM) (s : State) : Host.Outcome State Fault Refusal := lineOp true h m s

end Sys2Proof.Machine
end

