-- ==== Sys2Proof/Machine/CopyEngine.lean ====
section
/-! DEFINITION. Sys2Proof/Machine/CopyEngine.lean: copies (R179 to R190, R277, R278, R342): descriptors and their checks, the stream and its
chunks, completion and suspension, and CPSTAT. -/

namespace Sys2Proof.Machine

/-! ## Reading a descriptor -/

/-- Eight bytes at an address whose page is cached on the die; none while an earlier access of the warp to them has still to be made
(R264), or a flip is under way. -/
def Ctx.read8 (c : Ctx) (s : State) (va : Nat) : Option (State × List Byte) :=
  match s.cachedPage c.grp.die c.grp.core c.grp.dom va with
  | none => none
  | some p =>
    let pa := p.at_ va
    let own := c.warp.accs.any fun a => a.kind != .mred && a.units.any fun u => u.level == .issued && (match u.place with
      | .mem q _ => overlaps q u.len pa 8
      | _ => false)
    if own then none
    else (s.readFor c.grp.agent c.grp.dom p 0 0 false (s.visible c.grp.die p pa) 8).map fun r => (r.2.2, r.1)

/-- n eights of bytes in ascending order. -/
def Ctx.readEights (c : Ctx) : Nat → Nat → State → Option (State × List Byte)
  | 0, _, s => some (s, [])
  | n + 1, va, s =>
    match c.read8 s va with
    | none => none
    | some (s1, bs) =>
      match c.readEights n (va + 8) s1 with
      | none => none
      | some (s2, rest) => some (s2, bs ++ rest)

/-- Checks on n bytes that must be 8-byte aligned (R179). -/
def State.checkRecord (s : State) (c : Ctx) (lane n : Nat) (ea : Word64) : Checked :=
  (s.checkMem c { needLoad with aligned := true } 8 lane ea).add (s.checkMem c needLoad 1 lane (ea + BitVec.ofNat 64 (n - 1)))

/-! ## Validation (R180 to R185) -/

def signed32 (v : Nat) : Int := (BitVec.ofNat 32 v).toInt

/-- A check of the descriptor's fields. -/
def badField (lane : Nat) (ok : Bool) : List Bad := if ok then [] else [⟨0x21, 0, lane, 0xFF, 0⟩]

/-- An endpoint: its group when in scratch, its base, and what is wrong with it. ext: where its last byte ends past the base, if it has one. -/
structure End where
  grp : Option GroupKey
  base : Nat
  bad : List Bad
deriving DecidableEq, Repr

/-- Check an endpoint at issue (R156, R181, R183). A slot outside the cohort fails even where no row is checked, with a length or a limit of 0
(log 82). -/
def State.endpoint (s : State) (c : Ctx) (lane : Nat) (scratch : Bool) (addr : Nat) (ext : Option Nat) : End :=
  if scratch then
    let slot := addr / 2 ^ 24 % 256
    let off := addr % 2 ^ 24
    match s.slotGroup c.grp slot with
    | none => ⟨none, off, [⟨0x14, slot, lane, 0xFF, 0⟩]⟩
    | some g =>
      let out : Bool := match ext with
        | some e => g.scBytes < off + e
        | none => false
      ⟨some g.key, off, if out then [⟨0x14, slot, lane, 0xFF, 0⟩] else []⟩
  else
    ⟨none, addr, badField lane (match ext with
      | some e => addr + e ≤ 2 ^ 64
      | none => true)⟩

/-- What validation leaves of a descriptor. -/
structure Plan where
  bad : List Bad
  kind : CopyKind
  srcS : Option GroupKey
  dstS : Option GroupKey
  total : Nat
  stride37 : Bool
deriving DecidableEq, Repr

def ctlBit (d : List Byte) (i : Nat) : Bool := leAt d 0x14 4 / 2 ^ i % 2 == 1
def ctlScope (d : List Byte) : Nat := leAt d 0x14 4 / 128 % 8

/-- The control word (R181). -/
def ctlOk (d : List Byte) (scat edge kinds : Bool) : Bool :=
  leAt d 0x14 4 < 2 ^ 15 && !(ctlBit d 11) && ctlScope d ≤ 5 && (scat || !(ctlBit d 14)) &&
  (if edge then leAt d 0x14 4 / 2 ^ 12 % 4 != 3 else leAt d 0x14 4 / 2 ^ 12 % 4 == 0) && (kinds || leAt d 0x14 4 % 4 == 0)

def zeroAt (d : List Byte) (off n : Nat) : Bool := leAt d off n == 0

/-- COPY (R180, R181). -/
def State.planPlain (s : State) (c : Ctx) (lane : Nat) (d : List Byte) : Plan :=
  let len := leAt d 0x10 4
  let ext := if len == 0 then none else some len
  let a := s.endpoint c lane (ctlBit d 0) (leAt d 0 8) ext
  let b := s.endpoint c lane (ctlBit d 1) (leAt d 8 8) ext
  ⟨a.bad ++ b.bad ++ badField lane (ctlOk d false false true && zeroAt d 0x18 40), .plain a.base b.base len, a.grp, b.grp, len, false⟩

/-- COPYG (R180, R183). -/
def State.planGather (s : State) (c : Ctx) (lane : Nat) (d : List Byte) : Plan :=
  let list := leAt d 0x18 8
  let count := leAt d 0x20 4
  let row := leAt d 0x24 4
  let ss := leAt d 0x28 4
  let ds := leAt d 0x2C 4
  let limit := leAt d 0x30 4
  let scat := ctlBit d 14
  let ext (n stride : Nat) : Option Nat := if n == 0 then none else some ((n - 1) * stride + row)
  let a := s.endpoint c lane (ctlBit d 0) (leAt d 0 8) (ext (if scat then count else limit) ss)
  let b := s.endpoint c lane (ctlBit d 1) (leAt d 8 8) (ext (if scat then limit else count) ds)
  let ok := ctlOk d true false true && zeroAt d 0x10 4 && zeroAt d 0x34 12 && list % 4 == 0 && 1 ≤ count && count ≤ 65535 &&
    1 ≤ row && row ≤ 0x1000000
  ⟨a.bad ++ b.bad ++ badField lane ok, .gather scat a.base b.base list count row ss ds limit, a.grp, b.grp, count * row, false⟩

/-- An EDGE's treatment of a coordinate (R185). -/
def resolveEdge (edge : Nat) (k : Int) (n : Nat) : Option Nat :=
  if 0 ≤ k && k < n then some k.toNat
  else
    match edge with
    | 0 => none
    | 1 => some (if k < 0 then 0 else n - 1)
    | _ =>
      let p := (k % (2 * n : Nat)).toNat
      some (if p < n then p else 2 * n - 1 - p)

/-- The largest source coordinate that a tile reaches. -/
def edgeMax (edge : Nat) (from_ : Int) (count n : Nat) : Option Nat :=
  ((List.range count).filterMap fun (i : Nat) => resolveEdge edge (from_ + (i : Int)) n).max?

/-- A layout record (R184): base, width, height, row stride in words, element size in bytes, whether in scratch; and its validity. -/
structure Layout where
  base : Nat
  w : Nat
  h : Nat
  stride : Nat
  es : Nat
  scratch : Bool
  ok : Bool
deriving DecidableEq, Repr

def layoutOf (r : List Byte) : Layout :=
  let base := leAt r 0 8
  let w := leAt r 8 4
  let h := leAt r 12 4
  let stride := leAt r 16 4
  let es := leAt r 0x14 1
  let kind := leAt r 0x15 1
  let bytes := 2 ^ (es % 4)
  ⟨base, w, h, stride, bytes, kind == 1,
   1 ≤ w && w ≤ 0xFFFFFF && 1 ≤ h && h ≤ 0xFFFFFF && es ≤ 3 && kind ≤ 1 && zeroAt r 0x16 10 && base % 4 == 0 &&
   w * bytes ≤ stride * 4 && (kind == 0 || base < 2 ^ 32)⟩

def Layout.endOf (l : Layout) (row col : Nat) : Nat := row * l.stride * 4 + (col + 1) * l.es

/-- What of a COPYS descriptor is checked without its records. -/
def tileFields (d : List Byte) : Bool :=
  ctlOk d false true false && zeroAt d 0 8 && zeroAt d 8 8 && zeroAt d 0x10 4 && zeroAt d 0x3C 4 && 1 ≤ leAt d 0x38 2 && 1 ≤ leAt d 0x3A 2

/-- COPYS (R180, R184, R185) with its two layout records. -/
def State.planTile (s : State) (c : Ctx) (lane : Nat) (d : List Byte) (a b : Layout) : Plan :=
  let edge := leAt d 0x14 4 / 2 ^ 12 % 4
  let scol := signed32 (leAt d 0x28 4)
  let srow := signed32 (leAt d 0x2C 4)
  let dcol := signed32 (leAt d 0x30 4)
  let drow := signed32 (leAt d 0x34 4)
  let tw := leAt d 0x38 2
  let th := leAt d 0x3A 2
  let fields := a.ok && b.ok && a.es == b.es && 0 ≤ dcol && 0 ≤ drow && dcol + tw ≤ b.w && drow + th ≤ b.h
  let srcExt := match edgeMax edge srow th a.h, edgeMax edge scol tw a.w with
    | some r, some k => some (a.endOf r k)
    | _, _ => none
  let x := s.endpoint c lane a.scratch a.base srcExt
  let dstExt := if tw == 0 || th == 0 then none else some (b.endOf (drow.toNat + th - 1) (dcol.toNat + tw - 1))
  let y := s.endpoint c lane b.scratch b.base dstExt
  ⟨x.bad ++ y.bad ++ badField lane (fields && tileFields d),
   .tile (x.base, a.w, a.h, a.stride) (y.base, b.w, b.h, b.stride) a.es scol srow dcol drow tw th edge, x.grp, y.grp, th * tw * a.es,
   (a.scratch && a.stride % 37 == 0) || (b.scratch && b.stride % 37 == 0)⟩

/-! ## Issue -/

/-- Copies of a core that have neither completed nor been aborted (R179). -/
def State.copiesOn (s : State) (die core : Nat) : Nat := (s.copies.filter fun k => k.die == die && k.core == core).length

def Group.setStage (g : Group) (i : Nat) (f : Stage → Stage) : Group := { g with stages := updAt i f g.stages }

/-- A walk of the copy engine: its reads are charged (R396), and the die counts it (R400). -/
def State.copyWalk (s : State) (k : Copy) (va : Nat) : State := (s.chargeWalk k.dom va).dieEvent k.die 5 k.dom 1

/-- The walks of a copy's ends in memory and of its index list (R306); those that start at a page boundary come as the copy reaches it. -/
def State.chargeEnds (s : State) (k : Copy) : State :=
  let ends : List Nat := match k.kind with
    | .plain a b _ => (if k.srcS.isSome then [] else [a]) ++ if k.dstS.isSome then [] else [b]
    | .gather _ a b list _ _ _ _ _ => list :: (if k.srcS.isSome then [] else [a]) ++ if k.dstS.isSome then [] else [b]
    | .tile a b _ _ _ _ _ _ _ _ => (if k.srcS.isSome then [] else [a.1]) ++ if k.dstS.isSome then [] else [b.1]
  ends.foldl (fun s va => if va % (s.pageKey k.dom va).1 == 0 then s else s.copyWalk k va) s

/-- Start a copy (R179, R181, R182, R188): the successor's count first; a length of 0 completes at issue. -/
def Ctx.startCopy (c : Ctx) (s : State) (h : Hdr) (lane desc : Nat) (d : List Byte) (p : Plan) : Host.Outcome State Fault Refusal :=
  let ctl := leAt d 0x14 4
  let succ := ctlBit d 2
  let stage := if ctlBit d 6 then some (ctl / 8 % 8) else none
  match worstBad p.bad with
  | some b => c.trapBad s 0 b
  | none =>
    match (if succ && p.total != 0 then s.taskAdd c.grp.key false else some s) with
    | none => .next (c.waits s)
    | some s1 =>
      let s2 := match stage with
        | some k => if p.stride37 then s1.modGroup c.grp.key (·.setStage k fun t => { t with strideBit := true }) else s1
        | none => s1
      let rel := ctlBit d 10
      let waits := (c.warp.accs.filter fun a => a.kind != .mred && !(a.kind == .store && a.nt && !a.drained)).map (·.id)
      let k : Copy := ⟨s2.nextId, c.grp.key, c.iss.w.warp, c.grp.dom, c.grp.die, c.grp.core, desc, p.kind, p.srcS, p.dstS, stage,
        ctlScope d, succ, rel, if rel then waits else [], [], [], 0, p.total, .running, false, (c.st.slice (lane / 4)).pc, lane, [], []⟩
      c.done h (if p.total == 0 then s2 else { s2.chargeEnds k with copies := s2.copies ++ [k] }).bumpId c.warp

/-- A copy instruction: one per issue, for the lowest executing lane; it stalls while the core holds 32. -/
def copyWith (m : FormM) (h : Hdr) (s : State) (k : Ctx → State → Nat → Nat → List Byte → Host.Outcome State Fault Refusal) :
    Host.Outcome State Fault Refusal :=
  withCtx s fun c =>
    match c.firstLane? h with
    | none => c.done h s c.warp
    | some l =>
      if Config.maxCopies ≤ s.copiesOn c.grp.die c.grp.core then .next (c.waits s)
      else
        let ea := c.eaOf m 8 false l
        c.checked s 0 (s.checkRecord c l 64 ea) (fun s1 _ =>
          match c.readEights 8 ea.toNat s1 with
          | none => .next (c.waits s)
          | some (s2, d) => k c s2 l ea.toNat d) false

/-- COPY (R182). -/
def execCopy (h : Hdr) (m : FormM) (s : State) : Host.Outcome State Fault Refusal :=
  copyWith m h s fun c s1 l desc d => c.startCopy s1 h l desc d (s1.planPlain c l d)

/-- COPYG (R183). -/
def execCopyg (h : Hdr) (m : FormM) (s : State) : Host.Outcome State Fault Refusal :=
  copyWith m h s fun c s1 l desc d => c.startCopy s1 h l desc d (s1.planGather c l d)

/-- COPYS (R185). -/
def execCopys (h : Hdr) (m : FormM) (s : State) : Host.Outcome State Fault Refusal :=
  copyWith m h s fun c s1 l desc d =>
    let ra := BitVec.ofNat 64 (leAt d 0x18 8)
    let rb := BitVec.ofNat 64 (leAt d 0x20 8)
    let k := (s1.checkRecord c l 32 ra).add (s1.checkRecord c l 32 rb)
    c.checked s1 0 k (fun s2 _ =>
      match c.readEights 4 ra.toNat s2 with
      | none => .next (c.waits s)
      | some (s3, a) =>
        match c.readEights 4 rb.toNat s3 with
        | none => .next (c.waits s)
        | some (s4, b) => c.startCopy s4 h l desc d (s4.planTile c l d (layoutOf a) (layoutOf b))) false

/-! ## The stream (R186) -/

/-- Bytes before the first chunk boundary: for a COPY into scratch, boundaries fall at destination offsets. -/
def Copy.lead (k : Copy) : Nat :=
  match k.kind with
  | .plain _ dst _ => if k.dstS.isSome then 148 - dst % 148 else 148
  | _ => 148

def Copy.issuer (k : Copy) : WarpKey := ⟨k.g.seq, k.g.grp, k.warp⟩

/-- First stream byte of chunk i. -/
def Copy.chunkAt (k : Copy) (i : Nat) : Nat := if i == 0 then 0 else min k.total (k.lead + 148 * (i - 1))

def Copy.chunkLen (k : Copy) (i : Nat) : Nat := k.chunkAt (i + 1) - k.chunkAt i

/-- Number of chunks. -/
def Copy.chunks (k : Copy) : Nat := if k.total ≤ k.lead then 1 else 1 + (k.total - k.lead + 147) / 148

/-- Where a byte of an endpoint lies. -/
inductive CLoc where
  | mem (va : Nat)
  | scratch (g : GroupKey) (off : Nat)
deriving DecidableEq, Repr

def locOf (g : Option GroupKey) (addr : Nat) : CLoc :=
  match g with
  | some k => .scratch k addr
  | none => .mem (addr % 2 ^ 64)

/-- Why a byte cannot move: the record's cause, walk result, access kind and address (R189, R361). -/
structure CopyFault where
  code : Nat
  walk : Nat
  access : Nat
  va : Nat
deriving DecidableEq, Repr

/-- What a try to reach a byte gives. -/
inductive Reach (α : Type) where
  | ok (v : α) (s : State)
  | wait
  | bad (f : CopyFault)

/-- Translate for a copy (R303, R306): each byte anew, a walk charged at each page boundary. -/
def State.copyPage (s : State) (k : Copy) (write : Bool) (va : Nat) : Reach Page :=
  let acc := if write then 5 else 4
  match s.resolve k.die k.core k.dom va with
  | (_, .error r) => .bad ⟨0x10, r, acc, va⟩
  | (s1, .ok p) =>
    if p.qz || s.flipClosed k.die p then .wait
    else if (if write then !p.w || p.fx || s.inCode k.dom va 1 else !p.r) then .bad ⟨0x11, 4, acc, va⟩
    else if (p.cc == 2 && !(p.xtag == k.core && s.homeOf (stackOf p.pa) == k.die)) || (write && s.inWorkspace k.dom va) then
      .bad ⟨0x12, 4, acc, va⟩
    else .ok p ((if va % p.size == 0 then s1.copyWalk k va else s1).markLeaf k.dom p write)

/-- A swap of rows holds up a scratch access. -/
def State.rowsOutOf (s : State) (g : GroupKey) : Bool := ((s.group? g).map (·.rowsOut)).getD false

/-- A copy with an end in a group's scratch. -/
def Copy.inRegion (k : Copy) (g : GroupKey) : Bool := k.srcS == some g || k.dstS == some g

/-- Who acts in a copy (R260). -/
def State.copyAgent (s : State) (k : Copy) : Agent := ⟨k.die, k.core, k.g, ((s.group? k.g).map (·.cohort)).getD []⟩

/-- Read n bytes of one page or region for a copy. -/
def State.copyRead (s : State) (k : Copy) (l : CLoc) (n : Nat) : Reach (List Byte) :=
  match l with
  | .scratch g off => if s.rowsOutOf g then .wait else .ok (s.scratchSee g off n) s
  | .mem va =>
    match s.copyPage k false va with
    | .wait => .wait
    | .bad f => .bad f
    | .ok p s1 =>
      match s1.readFor (s1.copyAgent k) k.dom p k.scope 0 false (s1.visible k.die p (p.at_ va)) n with
      | none => .wait
      | some (bs, bad, s2) => if bad then .bad ⟨0x08, 4, 4, va⟩ else .ok bs s2

/-- The copy of a publish pair that copies write (R310). -/
def State.shadow (s : State) (d : Nat) (p : Page) (pa : Nat) : Nat :=
  match p.pp with
  | some e => if (tableGet e (s.die d).flips).getD false then pa else pa + p.size
  | none => pa

/-- Write one byte for a copy; what has still to be performed of it. Stores that only some agents of the die see so far come before it in the
die's order (R264, R277), so it waits until the die has them. -/
def State.copyWrite (s : State) (k : Copy) (l : CLoc) (b : Byte) (full : Bool) : Reach (List AUnit) :=
  match l with
  | .scratch g off => if s.rowsOutOf g then .wait else .ok [] (s.scratchWrite g off [b])
  | .mem va =>
    match s.copyPage k true va with
    | .wait => .wait
    | .bad f => .bad f
    | .ok p s1 =>
      let pa := s1.shadow k.die p (p.at_ va)
      if s1.earlyAt k.die pa 1 then .wait else
      let r := s1.writeAt k.die k.dom p k.scope 0 false pa [b] full
      .ok (if p.cc == 2 then [] else [⟨0, 0, 1, .mem pa p, [b], .die, false, r.2, va⟩]) r.1

/-- A stream byte: where it goes (none: nowhere), where it comes from (none: a zero byte). -/
structure CopyByte where
  dst : Option CLoc
  src : Option CLoc
deriving DecidableEq, Repr

/-- Byte i of the stream (R182, R183, R185); none while the index entry of its row has not been read. -/
def Copy.byte (k : Copy) (i : Nat) : Option CopyByte :=
  match k.kind with
  | .plain src dst _ => some ⟨some (locOf k.dstS (dst + i)), some (locOf k.srcS (src + i))⟩
  | .gather scat src dst _ _ row ss ds limit =>
    let r := i / row
    let o := i % row
    k.index[r]?.map fun x =>
      if scat then (if x < limit then ⟨some (locOf k.dstS (dst + x * ds + o)), some (locOf k.srcS (src + r * ss + o))⟩ else ⟨none, none⟩)
      else ⟨some (locOf k.dstS (dst + r * ds + o)), if x < limit then some (locOf k.srcS (src + x * ss + o)) else none⟩
  | .tile a b es scol srow dcol drow tw _ edge =>
    let r := i / (tw * es)
    let j := i % (tw * es) / es
    let o := i % es
    let dst := b.1 + (drow.toNat + r) * b.2.2.2 * 4 + (dcol.toNat + j) * es + o
    let src := match resolveEdge edge (srow + r) a.2.2.1, resolveEdge edge (scol + j) a.2.1 with
      | some rs, some cs => some (locOf k.srcS (a.1 + rs * a.2.2.2 * 4 + cs * es + o))
      | _, _ => none
    some ⟨some (locOf k.dstS dst), src⟩

/-- The rows of an index list that stream bytes below hi belong to. -/
def Copy.rowsBelow (k : Copy) (hi : Nat) : Nat :=
  match k.kind with
  | .gather _ _ _ _ count row _ _ _ => min count ((hi + row - 1) / row)
  | _ => 0

/-- Read the next n entries of the index list, in list order and once each (R183): one at or above the limit sets the stage's bit at that moment.
The fault, or true for a wait, that stops the reading. -/
def State.readIndex : Nat → State → Copy → State × Copy × Option (Option CopyFault)
  | 0, s, k => (s, k, none)
  | n + 1, s, k =>
    match k.kind with
    | .gather _ _ _ list _ _ _ _ limit =>
      match s.copyRead { k with scope := 0 } (.mem ((list + 4 * k.index.length) % 2 ^ 64)) 4 with
      | .wait => (s, k, some none)
      | .bad f => (s, k, some (some f))
      | .ok bs s1 =>
        let x := leNat bs
        let s2 := match k.stage with
          | some i => if limit ≤ x then s1.modGroup k.g (·.setStage i fun t => { t with indexBit := true }) else s1
          | none => s1
        State.readIndex n s2 { k with index := k.index ++ [x] }
    | _ => (s, k, none)

/-- The entries that stream bytes below hi need. -/
def State.reachRows (s : State) (k : Copy) (hi : Nat) : State × Copy × Option (Option CopyFault) :=
  State.readIndex (k.rowsBelow hi - k.index.length) s k

/-- What a byte's source holds now. -/
def State.copySource (s : State) (k : Copy) (b : CopyByte) : Reach Byte :=
  match b.src with
  | none => .ok 0 s
  | some l =>
    match s.copyRead k l 1 with
    | .wait => .wait
    | .bad f => .bad f
    | .ok bs s1 => .ok (bs.headD 0) s1

/-- The stream byte of a COPY whose source stream byte i overwrites. -/
def Copy.clash (k : Copy) (i : Nat) : Option Nat :=
  match k.kind with
  | .plain src dst len => if k.srcS == k.dstS && covers src len (dst + i) && src != dst then some (dst + i - src) else none
  | _ => none

/-- The stream byte of a COPY that overwrites the source of stream byte i. -/
def Copy.overBy (k : Copy) (i : Nat) : Option Nat :=
  match k.kind with
  | .plain src dst len => if k.srcS == k.dstS && covers dst len (src + i) && src != dst then some (src + i - dst) else none
  | _ => none

/-- A free choice for stream byte i of a copy, the same whenever it is asked for. -/
def Copy.pick (k : Copy) (i : Nat) : Bool := (Config.freeWord (2 ^ 64 * (k.id + 1) + 2 ^ 40 + i)).getLsbD 0

/-- What the copy puts at stream byte i, found ahead of its turn: the byte there, or what the copy itself will have put in its place. -/
def State.copyAhead (s : State) (k : Copy) : Nat → Nat → Option Byte
  | 0, _ => none
  | n + 1, i =>
    match (k.byte i).map (s.copySource k) with
    | some (.ok v _) =>
      if k.pick i then some v
      else some (((k.overBy i).bind (s.copyAhead k n)).getD v)
    | _ => none

/-- What stream byte i takes from its source: where the copy overwrites that byte too, what it held before or holds after, whichever (R182). -/
def State.copyTake (s : State) (k : Copy) (i : Nat) (b : CopyByte) : Reach Byte :=
  match s.copySource k b with
  | .wait => .wait
  | .bad f => .bad f
  | .ok v s1 =>
    match tableGet i k.old, k.overBy i with
    | none, none => .ok v s1
    | some w, _ => .ok (if k.pick i then w else v) s1
    | none, some j => .ok (if k.pick i then v else (s.copyAhead k k.total j).getD v) s1

/-- Before stream byte i is written: what its destination holds as a source is kept. -/
def State.keepOld (s : State) (k : Copy) (i : Nat) : Copy :=
  match k.clash i with
  | none => k
  | some j =>
    match (k.byte j).map (s.copySource k) with
    | some (.ok v _) => if (tableGet j k.old).isSome then k else { k with old := (j, v) :: k.old }
    | _ => k

/-- The bytes lo to hi of the stream, a chunk, cover the whole sector of memory that byte i goes to (R385). -/
def Copy.coversSector (k : Copy) (chunk : Nat × Nat) (i va : Nat) : Bool :=
  let first := i - va % 16
  va % 16 ≤ i && chunk.1 ≤ first && first + 16 ≤ chunk.2 && (List.range 16).all fun j =>
    match k.byte (first + j) with
    | some ⟨some (.mem v), _⟩ => v == va - va % 16 + j
    | _ => false

/-- A scattered row leaves a byte that an earlier row of the chunk has written, whichever stays (R183; log 86). -/
def Copy.leaves (k : Copy) (lo i : Nat) (d : CLoc) : Bool :=
  match k.kind with
  | .gather true _ _ _ _ _ _ _ _ =>
    k.pick i && (List.range (i - lo)).any fun j => ((k.byte (lo + j)).bind (·.dst)) == some d
  | _ => false

/-- Move one byte of the stream: what is left to perform. -/
def State.moveByte (s : State) (k : Copy) (chunk : Nat × Nat) (i : Nat) : Reach (List AUnit × Copy) :=
  match k.byte i with
  | none => .wait
  | some b =>
    match b.dst with
    | none => .ok ([], k) s
    | some d =>
      match s.copyTake k i b with
      | .wait => .wait
      | .bad f => .bad f
      | .ok v s1 =>
        let full := match d with
          | .mem va => k.coversSector chunk i va
          | .scratch _ _ => false
        if k.leaves chunk.1 i d then .ok ([], k) s1 else
        match s1.copyWrite k d v full with
        | .wait => .wait
        | .bad f => .bad f
        | .ok us s2 => .ok (us, s1.keepOld k i) s2

def State.moveBytes (chunk : Nat × Nat) : Nat → Nat → State → Copy → Reach (List AUnit × Copy)
  | 0, _, s, k => .ok ([], k) s
  | n + 1, i, s, k =>
    match s.moveByte k chunk i with
    | .wait => .wait
    | .bad f => .bad f
    | .ok (us, k1) s1 =>
      match State.moveBytes chunk n (i + 1) s1 k1 with
      | .wait => .wait
      | .bad f => .bad f
      | .ok (vs, k2) s2 => .ok (us ++ vs, k2) s2

/-- The poison that the source of some stream bytes holds (R189). -/
def State.poisonIn (s : State) (k : Copy) (i n : Nat) : Option CopyFault :=
  (List.range n).findSome? fun j =>
    match (k.byte (i + j)).map (s.copySource k) with
    | some (.bad f) => if f.code == 0x08 then some f else none
    | _ => none

/-! ## Progress (R186, R187) -/

def Copy.written (k : Copy) (i : Nat) : Nat := (tableGet i k.done).getD 0

/-- Chunks complete at the front of the copy: the new cursor, and the bytes passed. -/
def Copy.advance (k : Copy) : Nat → Copy × Nat
  | 0 => (k, 0)
  | n + 1 =>
    if k.cursor < k.chunks && k.chunkLen k.cursor ≤ k.written k.cursor then
      let k' := { k with cursor := k.cursor + 1, done := k.done.filter (·.1 != k.cursor) }
      let r := k'.advance n
      (r.1, r.2 + k.chunkLen k.cursor)
    else (k, 0)

/-- REL: what the strand issued before the copy is performed at its scope (R181, R277). -/
def State.relDone (s : State) (k : Copy) : Bool :=
  match s.warp? k.issuer with
  | none => true
  | some w => k.relWait.all fun id => !(w.accs.any fun a => a.id == id && (a.kind == .load || a.units.any fun u => !(u.performedAt k.scope)))

def State.modCopy (s : State) (id : Nat) (f : Copy → Copy) : State := { s with copies := updFirst (·.id == id) f s.copies }

def State.copy? (s : State) (id : Nat) : Option Copy := s.copies.find? (·.id == id)

/-- Count bytes passed by the cursor on the copy's stage (R187). -/
def State.countStage (s : State) (k : Copy) (n : Nat) : State :=
  match k.stage with
  | none => s
  | some i =>
    if n == 0 then s
    else (s.modGroup k.g (·.setStage i fun t => { t with count := t.count + BitVec.ofNat 32 n })).coreEvent k.die k.core 10 k.dom n

/-- What a copy wrote and has still to be performed is in flight for its launch (R282): no FENCE covers it (R175), and a phase end waits for it
unless the copy has SUCC = 1 (R279), which its nt says. -/
def State.leaveWrites (s : State) (k : Copy) (us : List AUnit) : State :=
  let a : Access := ⟨s.nextId, .copy, 0, k.scope, k.succ, 0, 0, .none, us, false, k.lane / 4, k.pc⟩
  (s.modLaunch k.g.seq fun l =>
    { l with orphans := l.orphans ++ [(⟨k.issuer, k.die, k.core, k.dom, (s.copyAgent k).cohort, a⟩ : Orphan)] }).bumpId

/-- COPY_CHUNK_COMPLETE (R186, R187): the next bytes of a chunk are moved, once the index entries of their rows are read; a chunk whose last byte
is written is complete. Nothing while the copy does not run or waits under REL; one that cannot reach a byte goes back to the chunk's boundary
(R308). -/
def execCopyChunkComplete (copy chunk bytes : Nat) (s : State) : Host.Outcome State Fault Refusal :=
  match s.copy? copy with
  | none => .next s
  | some k0 =>
    let at_ := k0.written chunk
    let n := min bytes (k0.chunkLen chunk - at_)
    if k0.run != .running || !(s.relDone k0) || !(s.isLive k0.die) || chunk < k0.cursor || k0.chunks ≤ chunk || n == 0 then .next s
    else
      let lo := k0.chunkAt chunk
      let r := s.reachRows k0 (lo + k0.chunkLen chunk)
      let s0 := r.1.modCopy copy fun _ => r.2.1
      let back := s0.modCopy copy fun k => { k with done := k.done.filter (·.1 != chunk) }
      if r.2.2.isSome then .next back
      else if (s0.poisonIn r.2.1 lo (k0.chunkLen chunk)).isSome then .next s0
      else
        match State.moveBytes (lo, lo + k0.chunkLen chunk) n (lo + at_) s0 r.2.1 with
        | .wait => .next back
        | .bad _ => .next s0
        | .ok (us, k) s1 =>
          let k1 := { k with done := tableSet chunk (at_ + n) k.done, writes := if us.isEmpty then k.writes else s1.nextId :: k.writes }
          let q := k1.advance (k1.done.length + 1)
          let s2 := if us.isEmpty then s1.bumpId else s1.leaveWrites k us
          let s3 := if k.srcS.isSome || k.dstS.isSome then s2.somePasses k.die k.core k.dom else s2
          .next ((s3.modCopy copy fun _ => q.1).countStage k q.2)

/-! ## Completion and suspension (R188, R189) -/

/-- Every write of a copy is performed at its SCOPE: beyond the die, none stands in flight. -/
def State.copyPerformed (s : State) (k : Copy) : Bool := k.scope ≤ 3 || k.writes.all fun id => (s.flight? k.issuer id).isNone

/-- COPY_COMPLETE (R188): every chunk is complete and every byte performed at SCOPE; the successor's count falls. -/
def execCopyComplete (copy : Nat) (s : State) : Host.Outcome State Fault Refusal :=
  match s.copy? copy with
  | none => .next s
  | some k =>
    if k.run != .running || k.cursor < k.chunks || !(s.copyPerformed k) then .next s
    else
      let s1 := { s with copies := s.copies.filter (·.id != copy) }
      .next (if k.succ then s1.taskSub k.g false else s1)

/-- The fault that stops a copy, once it has read the index entries of its cursor's chunk: on such an entry, poison in the chunk, else the first
byte of it that cannot move. -/
def State.copyFault (s : State) (k0 : Copy) : State × Copy × Option CopyFault :=
  let i := k0.chunkAt k0.cursor
  let n := k0.chunkLen k0.cursor
  match s.reachRows k0 (i + n) with
  | (s1, k, some f) => (s1, k, f)
  | (s1, k, none) =>
    match s1.poisonIn k i n with
    | some f => (s1, k, some f)
    | none =>
      match State.moveBytes (i, i + n) (n - k.written k.cursor) (i + k.written k.cursor) s1 k with
      | .bad f => (s1, k, some f)
      | _ => (s1, k, none)

/-- COPY_SUSPEND (R189): the copy stops at its cursor and its fault record is written, once the queue has room (R361). -/
def execCopySuspend (copy : Nat) (s : State) : Host.Outcome State Fault Refusal :=
  match s.copy? copy with
  | none => .next s
  | some k =>
    if k.run != .running || !(s.relDone k) || k.chunks ≤ k.cursor then .next s
    else
      let (s0, k, r) := s.copyFault k
      match r with
      | none => .next s
      | some f =>
        let info : FaultInfo :=
          { kind := 1, state := 1, code := f.code, seq := k.g.seq, grp := k.g.grp, warp := k.warp, strand := .a, slice := k.lane / 4,
            walk := f.walk, access := f.access, va := f.va, pc := k.pc.toNat, lane := k.lane, ctx := k.desc, cursor := k.cursor,
            die := k.die, core := k.core }
        match s0.newFault k.dom info none (some copy) none with
        | none => .next s
        | some (idx, s1) => .next (s1.modCopy copy fun _ => { k with run := .suspended (some idx) (f.code == 0x08), done := [] })

/-! ## CPSTAT (R190) -/

def Copy.suspended (k : Copy) : Bool :=
  match k.run with
  | .running => false
  | _ => true

/-- The status word of a stage, from its bits and the copies on it; bit 0 counts copies that an eviction suspends too (R189, R342). -/
def stageStatus (t : Stage) (on : List Copy) : Word :=
  BitVec.ofNat 32 ((if on.any Copy.suspended then 1 else 0) + (if t.abortBit then 2 else 0) + (if t.strideBit then 4 else 0) +
    (if t.indexBit then 8 else 0) + 256 * min 255 on.length)

/-- Write a long result to xD of the executing lanes (R81). -/
def Ctx.longX (c : Ctx) (s : State) (h : Hdr) (xd : Nat) (v : Word) (w : Warp) : Host.Outcome State Fault Refusal :=
  let id := s.nextId
  let w1 := (w.modLanes (c.exec h) fun _ k => k.setX xd v).unmark (c.exec h) (· == Loc.xreg xd)
  let w2 := w1.owe (some id) (c.execLanes h) fun _ => .xreg xd
  c.done h s.bumpId { w2 with longs := w2.longs ++ [⟨id, .a, c.slices.headD 0, [], none, c.pc⟩] }

def Stage.zero : Stage := ⟨0, false, false, false, false⟩

/-- CPSTAT (R190): one value read for the gang; .ge waits before it issues. -/
def execCpstat (h : Hdr) (m : FormM) (s : State) : Host.Outcome State Fault Refusal :=
  withCtx s fun c =>
    match c.firstLane? h with
    | none => c.done h s c.warp
    | some l =>
      let i := m.imm.toNat % 8
      let xd := m.xd.toNat
      let t := c.grp.stages.getD i Stage.zero
      let mine := s.copies.filter fun k => k.g == c.grp.key
      match m.imm.toNat / 8 with
      | 0 => c.longX s h xd t.count c.warp
      | 1 =>
        if t.abortBit then (if t.poisonAbort then c.trap s 0x08 0 else c.longX s h xd t.count c.warp)
        else if (c.x l xd).toNat ≤ t.count.toNat then c.longX s h xd t.count c.warp
        else .next s
      | 2 => c.longX (s.modGroup c.grp.key (·.setStage i fun _ => Stage.zero)) h xd t.count c.warp
      | 3 => c.longX s h xd (stageStatus t (mine.filter (·.stage == some i))) c.warp
      | _ => c.longX s h xd (BitVec.ofNat 32 mine.length) c.warp

end Sys2Proof.Machine
end

