-- ==== Sys2Proof/Machine/Publish.lean ====
section
/-! DEFINITION. Sys2Proof/Machine/Publish.lean: PUBLISH and the flip of a publish-pair buffer (R191, R309 to R312). -/

namespace Sys2Proof.Machine

/-- The rows that a copy writes to memory, as address and length. Those of a scatter whose index entries it has not read are judged by what the
home, copy 0 of a publish pair, holds of its list now (log 87). -/
def State.dstRows (s : State) (k : Copy) : List (Nat × Nat) :=
  if k.dstS.isSome then []
  else
    match k.kind with
    | .plain _ dst len => [(dst, len)]
    | .gather scat _ dst list count row _ ds limit =>
      (List.range count).filterMap fun r =>
        if scat then
          let x := k.index[r]?.getD (s.vNat k.dom (list + 4 * r) 4)
          if x < limit then some (dst + x * ds, row) else none
        else some (dst + r * ds, row)
    | .tile _ b es _ _ dcol drow tw th _ =>
      (List.range th).map fun i => (b.1 + (drow.toNat + i) * b.2.2.2 * 4 + dcol.toNat * es, tw * es)

/-- The flip entry of the page that holds an address of a domain. -/
def State.entryAt (s : State) (dom va : Nat) : Option Nat :=
  match s.walk dom va with
  | .leaf l at_ e => (pageOfLeaf l at_ e).pp
  | .fault _ _ => none

/-- A row touches the buffer of a flip entry. -/
def State.rowIn (s : State) (dom entry : Nat) (r : Nat × Nat) : Bool :=
  (List.range ((r.1 + r.2 - 1) / 65536 + 1 - r.1 / 65536)).any fun i =>
    s.entryAt dom (if i == 0 then r.1 else (r.1 / 65536 + i) * 65536) == some entry

/-- A copy of the group with its destination in the buffer has not completed (R191). -/
def State.copyInto (s : State) (g : Group) (entry : Nat) : Bool :=
  s.copies.any fun k => k.g == g.key && (s.dstRows k).any (s.rowIn g.dom entry)

/-- PUBLISH (R191): waits before issue; then its flip request is on its way, and the A-strand issues nothing until every die has taken it. -/
def execPublish (h : Hdr) (m : FormM) (s : State) : Host.Outcome State Fault Refusal :=
  withCtx s fun c =>
    match c.firstLane? h with
    | none => c.done h s c.warp
    | some l =>
      let va := vaOf (c.eaOf m 1 false l) 0
      match s.look c va with
      | .miss => .next (c.startWalks s [va])
      | .fault w => c.trapBad s 0xFF ⟨0x10, 0, l, w, va⟩
      | .page p =>
        match p.pp with
        | none => c.trapBad s 0xFF ⟨0x11, 0, l, 4, va⟩
        | some e =>
          if s.copyInto c.grp e then .next (c.waits s)
          else
            let f : Flip := ⟨s.nextId, e, c.iss.w, c.iss.gang, 0, [], [], s.now⟩
            c.done h { s.bumpId with flips := s.flips ++ [f] }
              (c.warp.modStrand c.iss.strand fun t => { t with publish := some s.nextId })

/-! ## The flip (R311). Stage 0: the request travels; 1: close; 2: flip. -/

def State.flip? (s : State) (id : Nat) : Option Flip := s.flips.find? (·.id == id)

def State.modFlip (s : State) (id : Nat) (f : Flip → Flip) : State := { s with flips := updFirst (·.id == id) f s.flips }

/-- PUBLISH_FLIP_REQUEST (R311): the root takes the request up once no other flip of the entry is under way, and broadcasts the close. -/
def execPublishFlipRequest (flip : Nat) (s : State) : Host.Outcome State Fault Refusal :=
  match s.flip? flip with
  | none => .next s
  | some f =>
    if f.stage == 0 && !(s.flips.any fun q => q.id != f.id && q.entry == f.entry && q.stage != 0) then
      .next (s.modFlip flip fun f => { f with stage := 1, started := s.now })
    else .next s

def AUnit.begunIn (u : AUnit) (entry : Nat) : Bool :=
  u.level == .die && (match u.place with
    | .mem _ p => p.pp == some entry
    | _ => false)

/-- An access of the die to the buffer has begun and is not yet performed. -/
def State.begun (s : State) (die entry : Nat) : Bool :=
  (s.groups.any fun g => g.die == die && g.warps.any fun w => w.accs.any fun a => a.units.any (·.begunIn entry)) ||
  (s.launches.any fun l => l.orphans.any fun o => o.die == die && o.acc.units.any (·.begunIn entry))

/-- FLIP_CLOSE (R311): the die stalls new accesses to the buffer, and arrives at the AND once those it has begun are performed. -/
def execFlipClose (flip die : Nat) (s : State) : Host.Outcome State Fault Refusal :=
  match s.flip? flip with
  | none => .next s
  | some f =>
    if f.stage != 1 || !(s.isLive die) || f.closed.contains die then .next s
    else
      let s1 := s.modDie die fun d => { d with closed := if d.closed.contains f.entry then d.closed else f.entry :: d.closed }
      .next (if s.begun die f.entry then s1 else (s1.answered die).modFlip flip fun f => { f with closed := die :: f.closed })

def State.invert (s : State) (die entry : Nat) : State :=
  s.modDie die fun d => { d with
    flips := tableSet entry (!((tableGet entry d.flips).getD false)) d.flips
    closed := d.closed.filter (· != entry) }

/-- FLIP_AND_COMPLETE (R311): every live die has arrived; the root broadcasts the flip. -/
def execFlipAndComplete (flip : Nat) (s : State) : Host.Outcome State Fault Refusal :=
  match s.flip? flip with
  | none => .next s
  | some f =>
    if f.stage == 1 && s.liveDies.all f.closed.contains then
      .next ((s.modFlip flip fun f => { f with stage := 2, started := s.now }).invert edieReplica f.entry)
    else .next s

/-- FLIP_TAKE (R311): the die inverts V and releases its stalled accesses. -/
def execFlipTake (flip die : Nat) (s : State) : Host.Outcome State Fault Refusal :=
  match s.flip? flip with
  | none => .next s
  | some f =>
    if f.stage != 2 || !(s.isLive die) || f.taken.contains die then .next s
    else .next (((s.answered die).modFlip flip fun f => { f with taken := die :: f.taken }).invert die f.entry)

/-- FLIP_DONE (R311): every die has acknowledged; the issuing strand continues. -/
def execFlipDone (flip : Nat) (s : State) : Host.Outcome State Fault Refusal :=
  match s.flip? flip with
  | none => .next s
  | some f =>
    if f.stage == 2 && s.liveDies.all f.taken.contains then
      .next (({ s with flips := s.flips.filter (·.id != flip) }).modWarp f.w fun w =>
        { w with a := { w.a with publish := if w.a.publish == some flip then none else w.a.publish } })
    else .next s

end Sys2Proof.Machine
end

