-- ==== Sys2Proof/Machine/Route.lean ====
section
/-! DEFINITION. Sys2Proof/Machine/Route.lean: route tables, routing windows, inboxes and what travels between them (R219 to R235, R343 to
R345). -/

namespace Sys2Proof.Machine

/-! ## Format E (R219, R220) -/

/-- A scratch address of this chapter: its slot and range (0x14), and its alignment when it names a descriptor (0x13). -/
def Ctx.areaBad (c : Ctx) (lane : Nat) (addr : Nat) (bytes : Nat) (aligned : Bool) : List Bad :=
  let slot := addr / 2 ^ 24 % 256
  let off := addr % 2 ^ 24
  (if aligned && off % 4 != 0 then [⟨0x13, 4, lane, 0xFF, 0⟩] else []) ++
  (if (slot == 0xFF || slot == c.grp.slot) && (bytes == 0 || off + bytes ≤ c.grp.scBytes) then [] else [⟨0x14, slot, lane, 0xFF, 0⟩])

/-- Rows of bytes at a stride, their addresses computed without wrap. -/
def Ctx.rowsBad (c : Ctx) (lane addr stride n bytes : Nat) : List Bad :=
  let slot := addr / 2 ^ 24 % 256
  let last := addr % 2 ^ 24 + (n - 1) * stride * 4 + bytes
  if (slot == 0xFF || slot == c.grp.slot) && (bytes == 0 || last ≤ c.grp.scBytes) then [] else [⟨0x14, slot, lane, 0xFF, 0⟩]

/-- A result of this chapter: written under the destination kind, long (R81). -/
def Ctx.answer (c : Ctx) (s : State) (h : Hdr) (e : FormE) (codes : List (BitVec 7)) (res : Nat → Word) : Host.Outcome State Fault Refusal :=
  c.result s h true e.dk e.fs (lqPops codes) fun l => ⟨res l, 0⟩

/-- No result: the sources' pops alone. -/
def Ctx.plainDone (c : Ctx) (s : State) (h : Hdr) (codes : List (BitVec 7)) : Host.Outcome State Fault Refusal :=
  c.done h s (c.popLq (lqPops codes) c.warp)

/-- The conditions on the coupling queues. -/
def Ctx.eGate (c : Ctx) (e : FormE) (codes : List (BitVec 7)) : Gate := (c.lqGate (lqNeed codes)).and (c.pushGate e.dk.toNat)

/-- Trap with the lowest failure, or go on. -/
def Ctx.unlessBad (c : Ctx) (s : State) (bs : List Bad) (k : Host.Outcome State Fault Refusal) : Host.Outcome State Fault Refusal :=
  match worstBad bs with
  | some b => c.trapBad s 0xFF b
  | none => k

/-! ## Route tables (R221, R222) -/

/-- The bytes of one page of a domain from v on, when they can be read, have a home and are not poisoned. -/
def State.pageBytes (s : State) (dom v n : Nat) : Option (List Byte) :=
  match s.walk dom v with
  | .leaf l at_ e =>
    let p := pageOfLeaf l at_ e
    let pa := s.partPa p v
    if p.r && !(unhomed e) && !(s.memory.poisoned pa n) then some (s.memory.bytes pa n) else none
  | .fault _ _ => none

/-- n bytes of a domain's memory, page by page, when every one can be read, has a home and is not poisoned. -/
def State.tableBytes (s : State) (dom va n : Nat) : Option (List Byte) :=
  (allSome ((pageStarts va n).map fun v => s.pageBytes dom v (min (65536 - v % 65536) (va + n - v)))).map List.flatten

def State.table? (s : State) (dom num : Nat) : Option Table := s.tables.find? fun t => t.dom == dom && t.num == num

/-- The header of a bound table: timeout and number of ports. -/
structure Header where
  timeout : Nat
  ports : Nat
deriving DecidableEq, Repr

def State.header (s : State) (dom num : Nat) : Option Header :=
  (s.table? dom num).bind fun t => (s.tableBytes dom t.addr 64).map fun b => ⟨leAt b 0 4, leAt b 4 2⟩

/-- A port entry. -/
structure PortEntry where
  valid : Bool
  retf : Bool
  fallb : Bool
  zeros : Bool
  cap : Nat
  rowBytes : Nat
  elems : Nat
  tag : Nat
  grp : Nat
  first : Nat
  depth : Nat
deriving DecidableEq, Repr

def entryOf (b : List Byte) : PortEntry :=
  let k := leAt b 0 1
  ⟨k % 2 == 1, k / 2 % 2 == 1, k / 4 % 2 == 1, k < 8 && leAt b 1 1 == 0, leAt b 2 2, leAt b 4 2, leAt b 6 2, leAt b 8 2, leAt b 10 2,
   leAt b 12 2, leAt b 14 2⟩

def State.entry (s : State) (dom num p : Nat) : Option PortEntry :=
  match s.table? dom num, s.header dom num with
  | some t, some hd => if p < hd.ports then (s.tableBytes dom (t.addr + 0x40 + 16 * p) 16).map entryOf else none
  | _, _ => none

/-- The resident group of an entry: of the newest launch of the domain with the tag. -/
def State.residentOf (s : State) (dom : Nat) (e : PortEntry) : Option Group :=
  let gs := s.groups.filter fun g => g.dom == dom && g.key.seq % 65536 == e.tag && g.key.grp == e.grp &&
    (((s.launch? g.key.seq).map (·.code.resident)).getD false)
  argMin (fun g => 2 ^ 32 - g.key.seq) gs

/-- A usable port (R222): its entry and its resident group. -/
def State.usable (s : State) (dom num p : Nat) : Option (PortEntry × Group) :=
  match s.entry dom num p with
  | none => none
  | some e =>
    if !e.valid || !e.zeros then none
    else
      match s.residentOf dom e with
      | none => none
      | some g => if e.first * 148 + e.depth * e.rowBytes ≤ g.scBytes then some (e, g) else none

/-- The part reads a table's header and the entries of some ports, at a place (R222): none while it waits for a page. -/
def State.tableReach (s : State) (at_ : Nat × Nat) (dom num : Nat) (ports : List Nat) : Option State :=
  match s.table? dom num with
  | none => some s
  | some t =>
    (s.touchRead at_ dom t.addr 64).bind fun s1 =>
      let n := ((s1.header dom num).map (·.ports)).getD 0
      (ports.filter (· < n)).eraseDups.foldl (fun o p => o.bind fun s => s.touchRead at_ dom (t.addr + 0x40 + 16 * p) 16) (some s1)

/-- AUX of 0x61 for a port that is not usable. -/
def State.portAux (s : State) (dom num p : Nat) : Nat := if (s.header dom num).isSome then p else 0x0100

def Port.fresh (dom num p : Nat) : Port := ⟨dom, num, p, [], [], [], 0⟩

def State.port (s : State) (dom num p : Nat) : Port :=
  (s.ports.find? fun q => q.dom == dom && q.table == num && q.port == p).getD (.fresh dom num p)

def State.setPort (s : State) (q : Port) : State :=
  { s with ports := putFirst (fun k => k.dom == q.dom && k.table == q.table && k.port == q.port) q s.ports }

/-- Run on a usable port, its table read; else 0x61. -/
def Ctx.onPort (c : Ctx) (s : State) (e : FormE) (k : State → PortEntry → Group → Host.Outcome State Fault Refusal) :
    Host.Outcome State Fault Refusal :=
  match s.tableReach (c.grp.die, c.grp.core) c.grp.dom e.table [e.port] with
  | none => .next s
  | some s1 =>
    match s1.usable c.grp.dom e.table e.port with
    | none => c.trap s1 0x61 (s1.portAux c.grp.dom e.table e.port)
    | some (p, g) => k s1 p g

/-- As onPort, for the port's resident group alone. -/
def Ctx.onOwnPort (c : Ctx) (s : State) (e : FormE) (k : State → PortEntry → Host.Outcome State Fault Refusal) :
    Host.Outcome State Fault Refusal :=
  c.onPort s e fun s1 p g => if g.key == c.grp.key then k s1 p else c.trap s1 0x61 e.port

/-! ## ROUTE (R223 to R225) -/

/-- One routing slot of the vector. -/
structure VSlot where
  weight : Word
  port : Nat
  valid : Bool
  zeros : Bool
deriving DecidableEq, Repr

def vslotOf (b : List Byte) : VSlot :=
  ⟨BitVec.ofNat 32 (leAt b 0 4), leAt b 4 1, leAt b 5 1 % 2 == 1, leAt b 5 1 < 2 && leAt b 6 2 == 0⟩

/-- The slots of the routing vector, row by row, two a row. -/
def State.vector (s : State) (k : GroupKey) (addr n : Nat) : List (List VSlot) :=
  (List.range n).map fun i => (List.range 2).map fun j => vslotOf (s.scratchSee k (addr % 2 ^ 24 + 16 * i + 8 * j) 8)

/-- A routing descriptor's fields. -/
structure RDesc where
  input : Nat
  inStride : Nat
  vec : Nat
  output : Nat
  outStride : Nat
  rows : Nat
  zeros : Bool
deriving DecidableEq, Repr

def rdescOf (b : List Byte) : RDesc :=
  ⟨leAt b 0 4, leAt b 4 4, leAt b 8 4, leAt b 12 4, leAt b 16 4, leAt b 0x14 2, leAt b 0x16 10 == 0⟩

def State.rwindow (s : State) (die core win : Nat) : RWindow := (s.core die core).windows.getD win emptyWindow

/-- Open the entry and send the claims, in row and slot order (R225). -/
def Ctx.openWindow (c : Ctx) (s : State) (e : FormE) (hd : Header) (d : RDesc) (vs : List (List VSlot)) (ports : List (Nat × PortEntry)) : State :=
  let old := s.rwindow c.grp.die c.grp.core e.window
  let gen := (old.gen + 1) % 65536
  let first := (ports.head?).map (·.2)
  let w : RWindow :=
    { old with
      gen := gen, open_ := true, owner := c.grp.key, table := e.table, succ := e.sube.getLsbD 0,
      input := d.input % 2 ^ 24, inStride := d.inStride, output := d.output % 2 ^ 24, outStride := d.outStride,
      rowBytes := (first.map (·.rowBytes)).getD 0, elems := (first.map (·.elems)).getD 0,
      rows := vs.map fun r => ⟨r.map fun v => ⟨v.valid, v.weight, v.port, false, none⟩, !(r.any (·.valid)), none⟩,
      fallb := ports.map fun p => (p.1, p.2.fallb),
      deadline := if hd.timeout == 0 then none else some (s.now + hd.timeout) }
  let targets : List (Nat × Nat × Nat) := (List.range vs.length).flatMap fun i => (List.range 2).filterMap fun j =>
    match (vs.getD i [])[j]? with
    | some v => if v.valid then some (i, j, v.port) else none
    | none => none
  let claims := mapIdxList (fun n (t : Nat × Nat × Nat) =>
    let input := w.input + t.1 * w.inStride * 4
    (⟨s.nextId + n, c.grp.dom, e.table, t.2.2, c.grp.die, c.grp.core, e.window, gen, t.1, t.2.1, c.grp.key, input,
      s.scratchRead c.grp.key input w.rowBytes, none⟩ : Claim)) targets
  ({ s with claims := s.claims ++ claims, nextId := s.nextId + claims.length }).settleWindow c.grp.die c.grp.core e.window w

/-- ROUTE (R224): the checks in order; it waits while its entry is open. -/
def execRoute (h : Hdr) (e : FormE) (s : State) : Host.Outcome State Fault Refusal :=
  withCtx s fun c =>
    let codes := [e.sa]
    c.gated s (c.lqGate (lqNeed codes)) <|
      match c.firstLane? h with
      | none => c.plainDone s h codes
      | some l =>
        if (s.rwindow c.grp.die c.grp.core e.window).open_ then .next s
        else
          let at_ := (src (c.reads 0 codes l) 0).toNat
          c.unlessBad s (c.areaBad l at_ 32 true) <|
            let d := rdescOf (s.scratchSee c.grp.key (at_ % 2 ^ 24) 32)
            c.unlessBad s (c.areaBad l d.vec (16 * d.rows) false) <|
              let vs := s.vector c.grp.key d.vec d.rows
              if !(d.zeros && 1 ≤ d.rows && d.rows ≤ 64 && vs.all fun r => r.all (·.zeros)) then c.trap s 0x21 0
              else
                let named := vs.flatMap fun r => (r.filter (·.valid)).map (·.port)
                match s.tableReach (c.grp.die, c.grp.core) c.grp.dom e.table named with
                | none => .next s
                | some s =>
                match s.header c.grp.dom e.table with
                | none => c.trap s 0x61 0x0100
                | some hd =>
                  match named.find? fun p => (s.usable c.grp.dom e.table p).isNone with
                  | some p => c.trap s 0x61 p
                  | none =>
                    let ports := named.filterMap fun p => (s.usable c.grp.dom e.table p).map fun u => (p, u.1)
                    let rb := ((ports.head?).map (·.2.rowBytes)).getD 0
                    let el := ((ports.head?).map (·.2.elems)).getD 0
                    match ports.find? fun p => p.2.rowBytes != rb || p.2.elems != el with
                    | some p => c.trap s 0x61 p.1
                    | none =>
                      c.unlessBad s (c.rowsBad l d.input d.inStride d.rows rb ++ c.rowsBad l d.output d.outStride d.rows (4 * el)) <|
                        match (if e.sube.getLsbD 0 then s.taskAdd c.grp.key false else some s) with
                        | none => .next s
                        | some s1 => c.plainDone (c.openWindow s1 e hd d vs ports) h codes

/-! ## Claims at a port (R226, R227) -/

/-- A notice that a claim will get no row. -/
def State.notice (s : State) (k : Claim) (counted : Bool) : State :=
  { s.bumpId with returns := s.returns ++ [⟨s.nextId, k, none, counted⟩] }

/-- The row of a claim as it moves (R227): each byte as it stood at issue or as it stands now. -/
def State.claimRow (s : State) (k : Claim) : List Byte :=
  match s.group? k.owner with
  | none => k.data
  | some _ => mapIdxList (fun i b =>
      if (Config.freeWord (2 ^ 64 * (s.nextId + 1) + i)).getLsbD 0 then k.data.getD i 0 else b) (s.scratchRead k.owner k.input k.data.length)

/-- Where slot i of a port's staging ring lies: port p's ring is 16 × C rows, in port order (R343). -/
def State.ringAt (s : State) (tb : Table) (e : PortEntry) (p i : Nat) : Nat :=
  tb.staging + ((List.range p).map fun q => ((s.entry tb.dom tb.num q).map fun e => 16 * e.cap * e.rowBytes).getD 0).sum + i * e.rowBytes

/-- Accepted rows that find no free inbox slot, in order (R344): the next of them goes to the staging ring while that has room. -/
def State.stageNext (s : State) (dom table port : Nat) : State :=
  match s.table? dom table, s.usable dom table port with
  | some tb, some (e, g) =>
    let p := s.port dom table port
    let free := if g.rowsOut then 0 else e.depth - p.inbox.length
    match (p.waiting.drop free).find? (·.staged.isNone) with
    | some k =>
      if 16 * e.cap ≤ p.waiting.countP (·.staged.isSome) then s
      else
        let s1 := s.vStore (g.die, g.core) dom (s.ringAt tb e port p.next) (s.claimRow k)
        s1.bumpId.setPort { p with
          waiting := updFirst (·.id == k.id) (fun q => { q with staged := some p.next }) p.waiting, next := (p.next + 1) % (16 * e.cap) }
    | none => s
  | _, _ => s

/-- CLAIM_ARRIVE (R226): the port counts and accepts the claim, or drops it. Claims of one ROUTE arrive in row and slot order. At a
withdrawn die a claim is never answered (R384). -/
def execClaimArrive (claim : Nat) (s : State) : Host.Outcome State Fault Refusal :=
  match s.claims.find? (·.id == claim) with
  | none => .next s
  | some k =>
    let ahead := s.claims.any fun q => q.id < k.id && q.die == k.die && q.core == k.core && q.win == k.win && q.gen == k.gen &&
      q.owner == k.owner && q.port == k.port
    if ahead then .next s
    else
      match s.tableReach (k.die, k.core) k.dom k.table [k.port] with
      | none => .next s
      | some s =>
      let s1 := { s with claims := s.claims.filter (·.id != claim) }
      match s1.usable k.dom k.table k.port with
      | none => .next (s1.notice k false)
      | some (e, g) =>
        if !(s1.isLive g.die) then .next s1
        else
          let p := s1.port k.dom k.table k.port
          let n := (tableGet k.win p.counts).getD 0
          if n < e.cap then
            let s2 := s1.setPort { p with counts := tableSet k.win (n + 1) p.counts, waiting := p.waiting ++ [k] }
            .next ((s2.stageNext k.dom k.table k.port).dieEvent g.die 0x11 g.dom 1)
          else .next ((s1.notice k true).dieEvent g.die 0x12 g.dom 1)

/-- The lowest inbox slot that holds no row. -/
def Port.freeSlot (p : Port) (depth : Nat) : Option Nat := (List.range depth).find? fun i => !(p.inbox.any (·.idx == i))

/-- The row of a claim that enters the inbox, and its charge: from the staging ring, or from where it was routed (R227, R344). -/
def State.enteringRow (s : State) (g : Group) (e : PortEntry) (k : Claim) : List Byte × State :=
  match k.staged, s.table? k.dom k.table with
  | some i, some tb => (s.vBytes k.dom (s.ringAt tb e k.port i) e.rowBytes, s.charge g.dom 2 e.rowBytes)
  | _, _ => ((s.claimRow k).take e.rowBytes, s.bumpId)

/-- INBOX_ROW_ENTER (R227): the row accepted first enters a free slot; none while the resident group's rows are evicted. -/
def execInboxRowEnter (dom table port : Nat) (s0 : State) : Host.Outcome State Fault Refusal :=
  match s0.tableReach panelSite dom table [port] with
  | none => .next s0
  | some s =>
  let p := s.port dom table port
  match s.usable dom table port, p.waiting with
  | some (e, g), k :: rest =>
    match p.freeSlot e.depth with
    | none => .next s
    | some i =>
      if g.rowsOut || !(s.isLive g.die) then .next s
      else
        let (row, s1) := s.enteringRow g e k
        let s2 := s1.setPort { p with waiting := rest, inbox := p.inbox ++ [⟨i, k, false⟩] }
        .next ((s2.scratchWrite g.key (e.first * 148 + i * e.rowBytes) row).stageNext dom table port)
  | _, _ => .next s

/-! ## RTAKE and RRET (R228, R229) -/

/-- RTAKE (R228). -/
def execRtake (h : Hdr) (e : FormE) (s : State) : Host.Outcome State Fault Refusal :=
  withCtx s fun c =>
    c.gated s (c.eGate e []) <|
      match c.firstLane? h with
      | none => c.answer s h e [] fun _ => 0
      | some _ =>
        c.onOwnPort s e fun s en =>
          let p := s.port c.grp.dom e.table e.port
          match p.inbox.find? (!·.taken) with
          | none => if e.sube == 0 then .next s else c.answer s h e [] fun _ => 0xFFFFFFFF
          | some b =>
            let p1 := { p with inbox := p.inbox.map fun q => if q.idx == b.idx then { q with taken := true } else q }
            c.answer (s.setPort p1) h e [] fun _ => BitVec.ofNat 32 (0xFF000000 + en.first * 148 + b.idx * en.rowBytes)

/-- Elements of a result row as FP32 words: BF16 decoded exactly (R229, R231). -/
def resultRow (bytes : List Byte) (retf : Bool) (n : Nat) : List Word :=
  (List.range n).map fun i => if retf then BitVec.ofNat 32 (leAt bytes (4 * i) 4) else BitVec.ofNat 32 (leAt bytes (2 * i) 2 * 65536)

/-- RRET (R229). -/
def execRret (h : Hdr) (e : FormE) (s : State) : Host.Outcome State Fault Refusal :=
  withCtx s fun c =>
    let codes := [e.sa, e.sb]
    let drop := e.sube == 1
    c.gated s (c.lqGate (lqNeed codes)) <|
      match c.firstLane? h with
      | none => c.plainDone s h codes
      | some l =>
        c.onPort s e fun s en g =>
          let rs := c.reads 0 codes l
          let size := en.elems * (if en.retf then 4 else 2)
          let row := (src rs 1).toNat
          let at_ := (src rs 0).toNat
          let p := s.port c.grp.dom e.table e.port
          let named (b : Inbox) : Bool := b.taken && at_ % 2 ^ 24 == en.first * 148 + b.idx * en.rowBytes &&
            (at_ / 2 ^ 24 == 0xFF || at_ / 2 ^ 24 == c.grp.slot)
          match worstBad (if drop then [] else c.areaBad l row size false) with
          | some b => c.trapBad s 0xFF b
          | none =>
            match (if g.key == c.grp.key then p.inbox.find? named else none) with
            | none => c.trap s 0x21 0
            | some b =>
              let words := if drop then none else some (resultRow (s.scratchSee c.grp.key (row % 2 ^ 24) size) en.retf en.elems)
              let s1 := s.setPort { p with inbox := p.inbox.filter (·.idx != b.idx) }
              c.plainDone { s1.bumpId with returns := s1.returns ++ [⟨s1.nextId, b.claim, words, drop⟩] } h codes

/-! ## Returns and completion (R230 to R232) -/

/-- ROUTE_RETURN_ARRIVE (R230): applied to the open entry of its generation, else discarded and counted. -/
def execRouteReturnArrive (ret : Nat) (s : State) : Host.Outcome State Fault Refusal :=
  match s.returns.find? (·.id == ret) with
  | none => .next s
  | some r =>
    let k := r.claim
    let s1 := { s with returns := s.returns.filter (·.id != ret) }
    let w := s1.rwindow k.die k.core k.win
    if w.open_ && w.gen == k.gen then
      let w1 := { w with rows := updAt k.row (fun row =>
        { row with slots := updAt k.slot (fun sl => { sl with resolved := true, ret := r.row }) row.slots }) w.rows }
      let s2 := if r.counted then s1.modCore k.die k.core fun q => { q with dropped := q.dropped + 1 } else s1
      .next (s2.settleWindow k.die k.core k.win w1)
    else .next (s1.modCore k.die k.core fun q => { q with late := q.late + 1 })

/-- ROUTE_WINDOW_TIMEOUT (R232). -/
def execRouteWindowTimeout (die core win : Nat) (s : State) : Host.Outcome State Fault Refusal :=
  let w := s.rwindow die core win
  match w.deadline with
  | some t => if w.open_ && t ≤ s.now then .next (s.completeWindow die core win w .timeout) else .next s
  | none => .next s

/-- RCLOSE.win (R234). -/
def execRcloseWin (h : Hdr) (e : FormE) (s : State) : Host.Outcome State Fault Refusal :=
  withCtx s fun c =>
    let w := s.rwindow c.grp.die c.grp.core e.window
    c.done h (if (c.firstLane? h).isSome && w.open_ && w.owner == c.grp.key
      then s.completeWindow c.grp.die c.grp.core e.window w .closed else s) c.warp

/-- RCLOSE.port (R234). -/
def execRclosePort (h : Hdr) (e : FormE) (s : State) : Host.Outcome State Fault Refusal :=
  withCtx s fun c =>
    match c.firstLane? h with
    | none => c.done h s c.warp
    | some _ =>
      c.onOwnPort s e fun s _ =>
        let p := s.port c.grp.dom e.table e.port
        c.done h (s.setPort { p with counts := tableSet e.window 0 p.counts }) c.warp

/-- The status of a window (R235). -/
def RWindow.status (w : RWindow) : Word :=
  BitVec.ofNat 32 ((if w.open_ then 1 else 0) + (if w.byTimeout then 2 else 0) + (if w.byClose then 4 else 0) +
    256 * (w.rows.countP fun r => !r.done) + 65536 * w.gen)

/-- RSTAT (R235). -/
def execRstat (h : Hdr) (e : FormE) (s : State) : Host.Outcome State Fault Refusal :=
  withCtx s fun c =>
    c.gated s (c.eGate e []) <|
      let k := s.core c.grp.die c.grp.core
      match c.firstLane? h with
      | none => c.answer s h e [] fun _ => 0
      | some _ =>
        match e.sube.toNat with
        | 0 => c.answer s h e [] fun _ => (s.rwindow c.grp.die c.grp.core e.window).status
        | 1 => c.answer s h e [] fun _ => k.late
        | 2 => c.answer s h e [] fun _ => k.dropped
        | _ =>
          c.onOwnPort s e fun s _ =>
            c.answer s h e [] fun _ => BitVec.ofNat 32 ((tableGet e.window (s.port c.grp.dom e.table e.port).counts).getD 0)

end Sys2Proof.Machine
end

