-- ==== Sys2Proof/Machine/Escapement.lean ====
section
/-! DEFINITION. Sys2Proof/Machine/Escapement.lean: worklists, their units on the dies, and the Arbor's samples (R236 to R246, R346). -/

namespace Sys2Proof.Machine

/-! ## Units -/

def EUnit.fresh (wl : Nat) : EUnit := ⟨wl, false, false, [], 256, 0, 0, 0, 0, false, 0, 0, 0, 0⟩

def DieSt.unit (d : DieSt) (wl : Nat) : EUnit := (d.units.find? (·.wl == wl)).getD (.fresh wl)

def State.unit (s : State) (die wl : Nat) : EUnit := (s.die die).unit wl

def State.setUnit (s : State) (die : Nat) (u : EUnit) : State :=
  s.modDie die fun d => { d with units := putFirst (·.wl == u.wl) u d.units }

/-- The bucket of a priority (R238). -/
def EUnit.bucket (u : EUnit) (t : ETask) : Nat := min (t.prio.toNat / 2 ^ u.shift) 255

/-- Tasks on chip. -/
def EUnit.onChip (u : EUnit) : Nat := u.tasks.countP (!·.spilled)

/-- The lowest non-empty bucket, on chip or in spill (R239); 256 for none (R242). -/
def EUnit.minBucket (u : EUnit) : Nat := ((u.tasks.map u.bucket).min?).getD 256

/-- Change the youngest element that p selects. -/
def updLast {α : Type} (p : α → Bool) (f : α → α) (l : List α) : List α := (updFirst p f l.reverse).reverse

/-- One task of the highest bucket on chip moves to the spill part (R238): the youngest. -/
def EUnit.spillOne (u : EUnit) : EUnit :=
  let top := (((u.tasks.filter (!·.spilled)).map u.bucket).max?).getD 0
  { u with tasks := updLast (fun t => !t.spilled && u.bucket t == top) (fun t => { t with spilled := true }) u.tasks }

/-- A task enters its bucket, after room is made on chip; the second part says whether a task was spilled. -/
def EUnit.take (u : EUnit) (t : ETask) : EUnit × Bool :=
  let full := Config.chipTasks ≤ u.onChip
  let u1 := if full then u.spillOne else u
  ({ u1 with tasks := u1.tasks ++ [{ t with spilled := false }] }, full)

/-- Remove the oldest element that p selects. -/
def takeFirst {α : Type} (p : α → Bool) : List α → Option (α × List α)
  | [] => none
  | x :: xs =>
    if p x then some (x, xs)
    else
      match takeFirst p xs with
      | some (y, ys) => some (y, x :: ys)
      | none => none

/-- One spilled task of the lowest bucket, the oldest, comes to chip; a full chip first gives up a task of a higher bucket. The second part
counts the tasks spilled. -/
def EUnit.refillOne (p : EUnit × Nat) : EUnit × Nat :=
  let u := p.1
  let b := u.minBucket
  let full := Config.chipTasks ≤ u.onChip
  if full && !(u.tasks.any fun t => !t.spilled && b < u.bucket t) then p
  else
    let u1 := if full then u.spillOne else u
    ({ u1 with tasks := updFirst (fun t => t.spilled && u.bucket t == b) (fun t => { t with spilled := false }) u1.tasks },
     if full then p.2 + 1 else p.2)

/-- A lowest bucket that has tasks only in spill is refilled (R239). -/
def EUnit.refill (u : EUnit) : EUnit × Nat :=
  let low := u.tasks.filter fun t => u.bucket t == u.minBucket
  if low.all (·.spilled) then low.foldl (fun p _ => EUnit.refillOne p) (u, 0) else (u, 0)

/-- The oldest task of the lowest bucket, refilled before, when that bucket is at most G + L (R239). The last part counts the tasks spilled. -/
def EUnit.serve (u : EUnit) : Option (ETask × EUnit × Nat) :=
  let b := u.minBucket
  if u.tasks.isEmpty || u.g + u.lead < b then none
  else
    let (u1, n) := u.refill
    match takeFirst (fun t => u.bucket t == b) u1.tasks with
    | some (t, rest) => some (t, { u1 with tasks := rest }, n)
    | none => none

/-- Up to n tasks. -/
def EUnit.serveN : Nat → EUnit → List ETask × EUnit × Nat
  | 0, u => ([], u, 0)
  | n + 1, u =>
    match u.serve with
    | none => ([], u, 0)
    | some (t, u1, k) =>
      let (ts, u2, m) := u1.serveN n
      (t :: ts, u2, k + m)

/-! ## Worklists -/

def State.worklist? (s : State) (wl : Nat) : Option Worklist := s.worklists.find? (·.num == wl)

def State.modWorklist (s : State) (wl : Nat) (f : Worklist → Worklist) : State :=
  { s with worklists := updFirst (·.num == wl) f s.worklists }

/-- The unit of a die with n tasks more in spill (die event 0x10): each takes 16 bytes of the die's part of the spill region, whose format is not
architectural (R346), so they are free ones. -/
def State.spillTo (s : State) (die dom : Nat) (u : EUnit) (n : Nat) : State :=
  if n == 0 then s.setUnit die u
  else
    let at_ := u.spillBase + 16 * (die * u.spillPart + (u.tasks.countP (·.spilled) - n))
    let bytes : List Byte := (List.range (16 * n)).map fun i => (Config.freeWord (2 ^ 64 * (s.nextId + 1) + i)).setWidth 8
    ((s.setUnit die u).bumpId.vStore (die, 0) dom at_ bytes).dieEvent die 0x10 dom n

/-- Dies on which the worklist is open. -/
def State.openDies (s : State) (wl : Nat) : List Nat := s.liveDies.filter fun d => (s.unit d wl).open_

/-- An EPUSH clears the terminated state (R245). -/
def State.unterminate (s : State) (wl : Nat) : State :=
  { s.modWorklist wl (fun w => { w with terminated := false }) with
      dies := s.dies.map fun d => { d with units := d.units.map fun u => if u.wl == wl then { u with terminated := false } else u } }

/-- Go on with a worklist that is allotted to the launch's domain (R236). -/
def Ctx.onList (c : Ctx) (s : State) (e : FormE) (k : Host.Outcome State Fault Refusal) : Host.Outcome State Fault Refusal :=
  if ((s.worklist? e.wl).bind (·.dom)) == some c.grp.dom then k else c.trap s 0x11 0xFFFF

/-- Go on with one that is open on the issuing die (R237). -/
def Ctx.onOpen (c : Ctx) (s : State) (e : FormE) (k : EUnit → Host.Outcome State Fault Refusal) : Host.Outcome State Fault Refusal :=
  c.onList s e <| if (s.unit c.grp.die e.wl).open_ then k (s.unit c.grp.die e.wl) else c.trap s 0x21 0

/-! ## EOPEN (R237) -/

/-- The worklist descriptor. -/
structure EDesc where
  base : Nat
  size : Nat
  shift : Nat
  lead : Nat
  balancing : Bool
  legal : Bool
deriving DecidableEq, Repr

def edescOf (b : List Byte) : EDesc :=
  let base := leAt b 0 8
  let size := leAt b 8 8
  { base := base, size := size, shift := leAt b 16 1, lead := leAt b 17 1, balancing := leAt b 18 1 % 2 == 1,
    legal := size % 2097152 == 0 && base % 4096 == 0 && leAt b 16 1 ≤ 31 && leAt b 18 1 < 2 && leAt b 19 13 == 0 }

/-- An open or close is on its way to every live die. -/
def State.sendOp (s : State) (wl : Nat) (close : Bool) (d : EDesc) : State :=
  let op : EOp := ⟨s.nextId, wl, close, d.shift, d.lead, d.balancing, d.base, d.size, s.liveDies, s.now⟩
  { s.bumpId with eops := s.eops ++ [op] }

/-- EOPEN.open (R237). -/
def execEopenOpen (h : Hdr) (e : FormE) (s : State) : Host.Outcome State Fault Refusal :=
  withCtx s fun c =>
    let codes := [e.sa]
    c.gated s (c.lqGate (lqNeed codes)) <|
      match c.firstLane? h with
      | none => c.plainDone s h codes
      | some l =>
        c.onList s e <|
          let at_ := (src (c.reads 0 codes l) 0).toNat
          c.unlessBad s (c.areaBad l at_ 32 true) <|
            let d := edescOf (s.scratchSee c.grp.key (at_ % 2 ^ 24) 32)
            if d.legal then c.plainDone (s.sendOp e.wl false d) h codes else c.trap s 0x21 0

/-- EOPEN.close (R237). -/
def execEopenClose (h : Hdr) (e : FormE) (s : State) : Host.Outcome State Fault Refusal :=
  withCtx s fun c =>
    match c.firstLane? h with
    | none => c.done h s c.warp
    | some _ => c.onOpen s e fun _ => c.done h (s.sendOp e.wl true (edescOf [])) c.warp

/-- Every EPOP that waits on the die ends with TERMINATED (R237). -/
def State.endPops (s : State) (die wl : Nat) : State :=
  let mark (t : StrandSt) : StrandSt := { t with pops := t.pops.map fun p => if p.2.1 == wl then (p.1, wl, true) else p }
  { s with groups := s.groups.map fun g =>
      if g.die == die then { g with warps := g.warps.map fun w => { w with c := mark w.c, a := mark w.a } } else g }

/-- An open reaches a die. -/
def State.openUnit (s : State) (die : Nat) (o : EOp) : State :=
  let u := s.unit die o.wl
  if u.open_ then s
  else
    let s1 := if (s.openDies o.wl).isEmpty then s.modWorklist o.wl fun w => { w with terminated := false, zeros := 0, sampledAt := s.now } else s
    s1.setUnit die ⟨u.wl, true, false, [], 256, 0, u.lastSum, o.shift, o.lead, o.balancing, o.spillBase, o.spillSize / 512 / 16, 0, s.now⟩

/-- A close reaches a die: its tasks, and those that it still reports on their way to another die (R242), are discarded as though completed. -/
def State.closeUnit (s : State) (die wl : Nat) : State :=
  let u := s.unit die wl
  let mine (t : Transfer) : Bool := t.wl == wl && t.from_ == die
  let moving := ((s.transfers.filter mine).map (·.tasks.length)).sum
  if u.open_ then
    ({ s with transfers := s.transfers.filter fun t => !(mine t) }.setUnit die { u with
      open_ := false
      terminated := false
      balancing := false
      tasks := []
      net := u.net - BitVec.ofNat 32 (u.tasks.length + moving) }).endPops die wl
  else s

/-- An open or close takes effect on a die. -/
def State.takeOp (s : State) (op die : Nat) : State :=
  match s.eops.find? (·.id == op) with
  | none => s
  | some o =>
    if !(o.due.contains die) then s
    else
      let o1 := { o with due := o.due.filter (· != die) }
      let s1 := { s with eops := if o1.due.isEmpty then s.eops.filter (·.id != op) else updFirst (·.id == op) (fun _ => o1) s.eops }
      if !(s.isLive die) then s1 else (if o.close then s1.closeUnit die o.wl else s1.openUnit die o)

/-- EOPEN_TAKE_EFFECT (R237). -/
def execEopenTakeEffect (op die : Nat) (s : State) : Host.Outcome State Fault Refusal :=
  .next (if s.eops.any fun o => o.id == op && o.due.contains die then (s.takeOp op die).answered die else s)

/-! ## EPUSH, EPOP, EDONE, ESTAT -/

/-- The tasks that the executing lanes push, in ascending lane order (R238). -/
def Ctx.pushed (c : Ctx) (h : Hdr) (e : FormE) : List ETask :=
  (c.execLanes h).map fun l =>
    let rs := c.reads 0 [e.sa, e.sb, e.sc] l
    let fs := e.fs.toNat
    let aux := if e.sube.getLsbD 0 then c.warp.rd c.free l (.frame fs) ((c.warp.lane l).f.getD fs 0) else 0
    ⟨src rs 1 ++ src rs 0, src rs 2, aux, false⟩

/-- EPUSH (R238). The unit counts the tasks as they issue. -/
def execEpush (h : Hdr) (e : FormE) (s : State) : Host.Outcome State Fault Refusal :=
  withCtx s fun c =>
    let codes := [e.sa, e.sb, e.sc]
    c.gated s (c.lqGate (lqNeed codes)) <|
      let ts := c.pushed h e
      if ts.isEmpty then c.plainDone s h codes
      else
        c.onOpen s e fun u =>
          if Config.chipTasks + u.spillPart < u.tasks.length + ts.length then c.trap s 0x60 e.wl
          else
            let r := ts.foldl (fun (p : EUnit × Nat) t =>
              let q := p.1.take t
              (q.1, if q.2 then p.2 + 1 else p.2)) (u, 0)
            let u1 := { r.1 with net := u.net + BitVec.ofNat 32 ts.length }
            let s1 := ((s.spillTo c.grp.die c.grp.dom u1 r.2).unterminate e.wl).dieEvent c.grp.die 0x0E c.grp.dom ts.length
            c.plainDone s1 h codes

/-- Write EPOP's statuses and the tasks (R240): long, one word a lane on the queue, four frame slots in lanes with a task. -/
def Ctx.hand (c : Ctx) (s : State) (h : Hdr) (e : FormE) (got : List (Nat × ETask)) (status : Word) : Host.Outcome State Fault Refusal :=
  let id := s.nextId
  let fs := e.fs.toNat
  let task (l : Nat) : Option ETask := (got.find? (·.1 == l)).map (·.2)
  let w1 := c.write 0 0 (c.exec h) (fun l => if (task l).isSome then 0 else status) (some id) c.warp
  let on := got.foldl (fun (m : Mask) p => m ||| (1 <<< p.1)) 0
  let w2 := w1.modLanes on fun l k =>
    match task l with
    | some t =>
      { k with f := (((k.f.set! fs (t.payload.setWidth 32)).set! (fs + 1) (t.payload.extractLsb' 32 32)).set! (fs + 2) t.prio).set! (fs + 3) t.aux }
    | none => k
  let slots := [fs, fs + 1, fs + 2, fs + 3]
  let w3 := w2.unmark on fun loc => slots.any fun i => loc == .frame i
  let w4 := slots.foldl (fun w i => w.owe (some id) (got.map (·.1)) fun _ => .frame i) w3
  c.done h s.bumpId { w4 with longs := w4.longs ++ [⟨id, c.iss.strand, c.slices.headD 0, [], none, c.pc⟩] }

/-- The gang waits in EPOP. -/
def Ctx.waitPop (c : Ctx) (s : State) (wl : Nat) : State :=
  s.modWarp c.iss.w fun w => w.modStrand c.iss.strand fun t =>
    { t with pops := if t.pops.any (·.1 == c.iss.gang) then t.pops else t.pops ++ [(c.iss.gang, wl, false)] }

/-- EPOP (R240). -/
def execEpop (h : Hdr) (e : FormE) (s : State) : Host.Outcome State Fault Refusal :=
  withCtx s fun c =>
    let ls := c.execLanes h
    if ls.isEmpty then c.hand s h e [] 0
    else if c.st.pops.any fun p => p.1 == c.iss.gang && p.2.1 == e.wl && p.2.2 then c.hand s h e [] 1
    else
      c.onOpen s e fun u =>
        let (ts, u1, spilled) := u.serveN ls.length
        if ts.isEmpty then
          let done := u.terminated && ((s.worklist? e.wl).map (·.terminated)).getD false
          if done then c.hand s h e [] 1 else if e.sube == 1 then c.hand s h e [] 2 else .next (c.waitPop s e.wl)
        else c.hand ((s.spillTo c.grp.die c.grp.dom u1 spilled).dieEvent c.grp.die 0x0F c.grp.dom ts.length) h e (ls.zip ts) 2

/-- EDONE (R241). -/
def execEdone (h : Hdr) (e : FormE) (s : State) : Host.Outcome State Fault Refusal :=
  withCtx s fun c =>
    let n := (c.execLanes h).length
    if n == 0 then c.done h s c.warp
    else c.onOpen s e fun u => c.done h (s.setUnit c.grp.die { u with net := u.net - BitVec.ofNat 32 n }) c.warp

/-- What ESTAT reads (R246). -/
def EUnit.stat (u : EUnit) (mode : Nat) : Word :=
  match mode with
  | 0 => if u.open_ then BitVec.ofNat 32 u.tasks.length else 0
  | 1 => if u.open_ then BitVec.ofNat 32 u.g else 256
  | 2 => u.lastSum
  | _ => BitVec.ofNat 32 ((if u.open_ then 1 else 0) + (if u.open_ && u.terminated then 2 else 0) + (if u.open_ && u.balancing then 4 else 0) +
      (if u.open_ && u.tasks.any (·.spilled) then 8 else 0) + 256 * u.shift + 65536 * u.lead)

/-- ESTAT (R246). -/
def execEstat (h : Hdr) (e : FormE) (s : State) : Host.Outcome State Fault Refusal :=
  withCtx s fun c =>
    c.gated s (c.eGate e []) <|
      match c.firstLane? h with
      | none => c.answer s h e [] fun _ => 0
      | some _ => c.onList s e <| c.answer s h e [] fun _ => (s.unit c.grp.die e.wl).stat e.sube.toNat

/-! ## Samples (R242, R245) -/

/-- MIN over the live dies, with the tasks that balancing moves (R242). -/
def State.sampleMin (s : State) (wl : Nat) : Nat :=
  let held (d : Nat) : Nat := (s.unit d wl).minBucket
  let moving := (s.transfers.filter fun t => t.wl == wl && s.isLive t.from_).flatMap fun t => t.tasks.map (s.unit t.from_ wl).bucket
  (((s.openDies wl).map held ++ moving).min?).getD 256

/-- SUM of pushes minus EDONEs. -/
def State.sampleSum (s : State) (wl : Nat) : Word := (s.openDies wl).foldl (fun n d => n + (s.unit d wl).net) 0

/-- A sample of an open worklist at an instant. -/
def State.takeSample (s : State) (wl at_ : Nat) : State :=
  let sum := s.sampleSum wl
  s.modWorklist wl fun w =>
    let zeros := if sum == 0 then w.zeros + 1 else 0
    let term := w.terminated || (2 ≤ zeros && !(s.transfers.any (·.wl == wl)))
    { w with zeros := zeros, terminated := term, sampledAt := at_, samples := w.samples ++ [⟨s.sampleMin wl, sum, term, s.liveDies, at_⟩] }

/-- ARBOR_SAMPLE (R242, R245, R347): at instants 256 ck apart. -/
def execArborSample (wl : Nat) (s : State) : Host.Outcome State Fault Refusal :=
  match s.worklist? wl with
  | none => .next s
  | some w => .next (if (s.openDies wl).isEmpty || s.now < w.sampledAt + 256 then s else s.takeSample wl (w.sampledAt + 256))

/-- The oldest sample on its way to a die, and the samples without that. -/
def deliverSample (die : Nat) : List Sample → Option (Sample × List Sample)
  | [] => none
  | x :: xs =>
    if x.due.contains die then
      let x1 := { x with due := x.due.filter (· != die) }
      some (x, if x1.due.isEmpty then xs else x1 :: xs)
    else
      match deliverSample die xs with
      | some (y, ys) => some (y, x :: ys)
      | none => none

/-- The oldest sample on its way to a die arrives; a unit that is not open keeps its SUM alone (R246). -/
def State.adopt (s : State) (wl die : Nat) : State :=
  match s.worklist? wl with
  | none => s
  | some w =>
    match deliverSample die w.samples with
    | none => s
    | some (x, rest) =>
      let s1 := s.modWorklist wl fun w => { w with samples := rest }
      let u := s1.unit die wl
      if !(s.isLive die) then s1
      else if u.open_ then s1.setUnit die { u with g := x.min, lastSum := x.sum, terminated := x.term && w.terminated }
      else s1.setUnit die { u with lastSum := x.sum }

/-- ARBOR_MIN_RESULT (R242): the unit adopts G; waiting pops issue again when they are reconsidered. -/
def execArborMinResult (wl die : Nat) (s : State) : Host.Outcome State Fault Refusal :=
  .next (if ((s.worklist? wl).map fun w => w.samples.any (·.due.contains die)).getD false then (s.adopt wl die).answered die else s)

/-! ## What is never late (R237, R243, R347) -/

/-- ck within which a result reaches every unit: 2 × 850 ns; and an open or close every die of this part: 1 000 ns (R237). -/
def sampleLimit : Nat := 3060
def eopLimit : Nat := 1800

/-- The sample instants of a worklist that have passed: the first and the last of them find what every one between them does. -/
def State.overdueSamples (s : State) (wl : Nat) : State :=
  match s.worklist? wl with
  | none => s
  | some w =>
    let n := (s.now - w.sampledAt) / 256
    if (s.openDies wl).isEmpty || s.now ≤ w.sampledAt + 256 then s
    else
      let s1 := s.takeSample wl (w.sampledAt + 256)
      if n < 2 then s1 else s1.takeSample wl (w.sampledAt + 256 * n)

/-- Results that have been on their way longer than they may arrive. -/
def State.overdueResults (s : State) (wl : Nat) : State :=
  match s.worklist? wl with
  | none => s
  | some w =>
    (w.samples.filter fun x => x.at_ + sampleLimit < s.now).foldl (fun (t : State) x => x.due.foldl (fun (t : State) d => t.adopt wl d) t) s

/-- Opens and closes too. -/
def State.overdueOps (s : State) : State :=
  (s.eops.filter fun o => o.issued + eopLimit < s.now).foldl (fun (t : State) o => o.due.foldl (fun (t : State) d => t.takeOp o.id d) t) s

def State.overdueEscapement (s : State) : State :=
  (s.worklists.map (·.num)).foldl (fun (t : State) n => (t.overdueSamples n).overdueResults n) s.overdueOps

/-! ## Balancing (R244) -/

/-- Units of the dies that share the die's own memory stack. -/
def State.sharers (s : State) (wl die : Nat) : List Nat :=
  (stackNeighbours die).filter fun d => d != die && s.isLive d && (s.unit d wl).open_

/-- Up to n tasks of the highest buckets, the youngest first. -/
def EUnit.shed : Nat → EUnit → List ETask × EUnit
  | 0, u => ([], u)
  | n + 1, u =>
    let top := ((u.tasks.map u.bucket).max?).getD 0
    match takeFirst (fun t => u.bucket t == top) u.tasks.reverse with
    | none => ([], u)
    | some (t, rest) =>
      let (ts, u2) := EUnit.shed n { u with tasks := rest.reverse }
      (t :: ts, u2)

/-- BALANCE_TICK (R244): 256 ck after the last the unit reports its count, and sends tasks when it holds more than 512 on chip. -/
def execBalanceTick (wl die : Nat) (s : State) : Host.Outcome State Fault Refusal :=
  let u := s.unit die wl
  if !(s.isLive die && u.open_ && u.balancing) || s.now < u.tickedAt + 256 then .next s
  else
    let n := u.onChip
    let u1 := { u with tickedAt := s.now, reported := n }
    match argMin (fun d => (s.unit d wl).reported) (s.sharers wl die) with
    | some d =>
      if 512 < n && 2 * (s.unit d wl).reported < n then
        let (ts, u2) := u1.shed 64
        .next { (s.setUnit die u2).bumpId with transfers := s.transfers ++ [⟨s.nextId, wl, die, d, ts⟩] }
      else .next (s.setUnit die u1)
    | none => .next (s.setUnit die u1)

/-- BALANCE_RECEIVE (R244): the tasks enter their buckets; at a unit that has closed they are discarded as the close would. Tasks on their
way to a die that is no longer live stay with the sender's. -/
def execBalanceReceive (transfer : Nat) (s : State) : Host.Outcome State Fault Refusal :=
  match s.transfers.find? (·.id == transfer) with
  | none => .next s
  | some t =>
    let s1 := { s with transfers := s.transfers.filter (·.id != transfer) }
    let dest := if s.isLive t.dest then t.dest else t.from_
    if !(s.isLive dest) then .next s1
    else
      let u := s1.unit dest t.wl
      let r := t.tasks.foldl (fun (p : EUnit × Nat) k =>
        let q := p.1.take k
        (q.1, if q.2 then p.2 + 1 else p.2)) (u, 0)
      if u.open_ then .next (s1.spillTo dest (((s1.worklist? t.wl).bind (·.dom)).getD 64) r.1 r.2)
      else .next (s1.setUnit dest { u with net := u.net - BitVec.ofNat 32 t.tasks.length })

end Sys2Proof.Machine
end

