-- ==== Sys2Proof/Machine/Sync.lean ====
section
/-! DEFINITION. Sys2Proof/Machine/Sync.lean: barriers, phases, signals and the Arbor channels (R247 to R252). -/

namespace Sys2Proof.Machine

/-! ## BAR and CBAR (R247) -/

/-- Arrive at a barrier: the A-strand first waits as FENCE.ar does (R175). -/
def arrive (held : Hold) (scope : Nat) (h : Hdr) (s : State) : Host.Outcome State Fault Refusal :=
  withCtx s fun c =>
    if c.iss.strand == .a && !(c.warp.acquired && c.warp.released scope && s.seenWide c.grp.agent scope) then .next s
    else .next (c.finish h (fun _ sl => { sl with hold := held }) s c.warp)

/-- BAR (R247). -/
def execBar (h : Hdr) (_e : FormE) (s : State) : Host.Outcome State Fault Refusal := arrive .bar 0 h s

/-- CBAR (R247). -/
def execCbar (h : Hdr) (_e : FormE) (s : State) : Host.Outcome State Fault Refusal := arrive .cbar 2 h s

/-! ## PHASE (R41, R248) -/

/-- The successor task takes its id, which the phase record shows from then on (R42, R44, R333). -/
def State.bindPhase (s : State) (g : Group) (id : Nat) : State :=
  match s.task? g.key with
  | none => s
  | some t =>
    (s.modTask g.key fun t => { t with next := some id }).vStore (g.die, g.core) g.dom t.recAt (leBytes 8 (id + g.key.grp * 65536))

/-- PHASE may name the id (R248). -/
def State.phaseOk (s : State) (c : Ctx) (id : Nat) : Bool :=
  let o := c.warp.strand (other c.iss.strand)
  ((s.launch? c.iss.w.seq).map fun l => l.code.phases.any (·.id == id)).getD false && !o.exited &&
    (o.phaseId == none || o.phaseId == some id) &&
    (match (s.task? c.grp.key).bind (·.next) with
     | some n => n == id
     | none => true)

/-- PHASE (R248): the strand stops; the phase end completes on its own (R41). -/
def execPhase (h : Hdr) (e : FormE) (s : State) : Host.Outcome State Fault Refusal :=
  withCtx s fun c =>
    let id := e.imm16.toNat
    if ((s.launch? c.iss.w.seq).map (·.code.resident)).getD false then c.trap s 0x20 0x1D5
    else if !(s.phaseOk c id) then c.trap s 0x21 0
    else
      .next (c.finish h (fun _ sl => { sl with hold := .phase }) (s.bindPhase c.grp id)
        (c.warp.modStrand c.iss.strand fun t => { t with phaseId := some id }))

/-! ## SIGNAL (R249) -/

/-- SIGNAL.hold: it stalls while the count cannot rise (R42). -/
def execSignalHold (h : Hdr) (_e : FormE) (s : State) : Host.Outcome State Fault Refusal :=
  withCtx s fun c =>
    match s.taskAdd c.grp.key true with
    | none => .next s
    | some s1 => c.done h s1 c.warp

/-- SIGNAL.rel. -/
def execSignalRel (h : Hdr) (e : FormE) (s : State) : Host.Outcome State Fault Refusal :=
  withCtx s fun c =>
    let codes := [e.sa]
    c.gated s (c.lqGate (lqNeed codes)) <|
      let g := (src (c.reads 0 codes ((c.firstLane? h).getD 0)) 0).toNat
      if ((s.launch? c.iss.w.seq).map (·.groups)).getD 0 ≤ g then c.trap s 0x21 0
      else c.plainDone (s.taskSub ⟨c.iss.w.seq, g⟩ true) h codes

/-! ## Arbor channels (R250 to R252) -/

/-- A channel; at its first arrival the participants are the live dies of the launch's mask. -/
def State.channel (s : State) (seq num : Nat) : Channel :=
  (s.channels.find? fun k => k.seq == seq && k.num == num).getD
    ⟨seq, num, 1, (((s.launch? seq).map (·.dies)).getD []).filter s.isLive, [], [], [], []⟩

def State.setChannel (s : State) (k : Channel) : State :=
  { s with channels := putFirst (fun q => q.seq == k.seq && q.num == k.num) k s.channels }

/-- The die has a generation that it joined and that has not released to it. -/
def Channel.waits (k : Channel) (die : Nat) : Bool :=
  match tableGet die k.joined with
  | some n => (tableGet die k.seen).getD 0 < n
  | none => false

/-- The die arrives at the current generation with an operation and a value. -/
def Channel.arrive (k : Channel) (die op : Nat) (v : Word) : Channel :=
  { k with arrivals := k.arrivals ++ [(die, op, v)], joined := tableSet die k.gen k.joined }

/-- ABAR (R251). -/
def execAbar (h : Hdr) (e : FormE) (s : State) : Host.Outcome State Fault Refusal :=
  withCtx s fun c =>
    let k := s.channel c.iss.w.seq e.channel
    if k.waits c.grp.die then .next s
    else c.done h (s.setChannel (k.arrive c.grp.die 0 0xFFFFFFFF)) c.warp

/-- ARED (R251): its result is the generation it joined. -/
def execAred (h : Hdr) (e : FormE) (s : State) : Host.Outcome State Fault Refusal :=
  withCtx s fun c =>
    let codes := [e.sa]
    c.gated s (c.eGate e codes) <|
      match c.firstLane? h with
      | none => c.answer s h e codes fun _ => 0
      | some l =>
        let k := s.channel c.iss.w.seq e.channel
        if k.waits c.grp.die then .next s
        else c.answer (s.setChannel (k.arrive c.grp.die e.sube.toNat (src (c.reads 0 codes l) 0))) h e codes fun _ => BitVec.ofNat 32 k.gen

/-- AWAIT (R251). -/
def execAwait (h : Hdr) (e : FormE) (s : State) : Host.Outcome State Fault Refusal :=
  withCtx s fun c =>
    c.gated s (c.eGate e []) <|
      match c.firstLane? h with
      | none => c.answer s h e [] fun _ => 0
      | some _ =>
        let k := s.channel c.iss.w.seq e.channel
        match tableGet c.grp.die k.joined with
        | none => c.answer s h e [] fun _ => 0
        | some n =>
          if k.waits c.grp.die then .next s
          else c.answer s h e [] fun _ => if e.sube == 0 then BitVec.ofNat 32 n else (tableGet n k.values).getD 0

/-- The reduced value of a generation: of live participants alone (R252), 0 when their operations differ (R251). -/
def reduceArrivals (as : List (Nat × Word)) : Word :=
  match as with
  | [] => 0
  | (op, v) :: rest =>
    if rest.any (·.1 != op) then 0
    else rest.foldl (fun acc p =>
      match op with
      | 0 => acc &&& p.2
      | 1 => if p.2.toNat < acc.toNat then p.2 else acc
      | _ => acc + p.2) v

/-- Release the current generation, once every participant whose mask bit is clear has arrived (R250, R252). -/
def Channel.release (k : Channel) (live : Nat → Bool) : Channel :=
  let who := k.members.filter live
  let here (d : Nat) : Bool := k.arrivals.any (·.1 == d)
  if k.arrivals.isEmpty || !(who.all here) then k
  else
    let v := reduceArrivals ((k.arrivals.filter fun a => who.contains a.1).map (·.2))
    { k with
        gen := k.gen + 1
        arrivals := []
        values := (k.gen, v) :: k.values.filter fun p => k.joined.any (·.2 == p.1) }

/-- ARBOR_RELEASE (R250): the generation releases when it can, and what has released reaches a die. -/
def execArborRelease (seq chan die : Nat) (s : State) : Host.Outcome State Fault Refusal :=
  if !(s.channels.any fun k => k.seq == seq && k.num == chan) then .next s
  else
    let k := (s.channel seq chan).release s.isLive
    .next (s.setChannel (if s.isLive die then { k with seen := tableSet die (k.gen - 1) k.seen } else k))

end Sys2Proof.Machine
end

