-- ==== Sys2Proof/Machine/System.lean ====
section
/-! DEFINITION. Sys2Proof/Machine/System.lean: SYS, TOPO, CLK, SETXV, TRAP, BKPT, RETT, SLEEP and PERF (R253 to R259, R356, R357). -/

namespace Sys2Proof.Machine

/-! ## SYS (R253, R356) -/

/-- What the handler reads of the trapped warp (R356). -/
def Ctx.handlerWord (c : Ctx) (sel : Nat) : Word :=
  let addr := BitVec.ofNat 64 c.warp.ctx
  match sel with
  | 0x0100 => ((c.warp.saved).map (·.cause)).getD 0
  | 0x0101 => addr.setWidth 32
  | 0x0102 => addr.extractLsb' 32 32
  | 0x0103 => BitVec.ofNat 32 (c.warp.record.getD noRecord)
  | 0x0104 => BitVec.ofNat 32 c.iss.w.seq
  | 0x0105 => BitVec.ofNat 32 c.iss.w.grp
  | _ => BitVec.ofNat 32 (c.iss.w.warp % 16 + 16 * c.warp.width)

/-- The cause as the trap records name it. -/
def Warp.trapped (w : Warp) : Raised :=
  match w.saved with
  | none => Raised.plain 0 0 0 .c true 0 []
  | some v =>
    match v.raised with
    | some r => r
    | none => Raised.plain (v.cause.toNat % 256) 0 0 .c true (v.c.getD 0 Slice.zero).pc []

/-- The handler's end actions (R357, R362): none while the next record is not free (R361). -/
def Ctx.endAction (c : Ctx) (s : State) (h : Hdr) (v : Word) (pops : Nat) : Option State :=
  let fin (s : State) : State := c.finish h nextPc s (c.popLq pops c.warp)
  match v.toNat with
  | 1 => some (((fin s).modWarp c.iss.w Warp.retire).barriers c.grp.key)
  | 2 =>
    (s.newFault c.grp.dom (faultInfo c.grp c.warp c.warp.trapped 2 2) (some c.iss.w) none none).map fun p =>
      (fin p.2).endLaunch c.iss.w.seq 0x0012 p.1
  | _ =>
    (s.newFault c.grp.dom (faultInfo c.grp c.warp c.warp.trapped 2 1) (some c.iss.w) none none).map fun p =>
      let s1 := (fin p.2).modWarp c.iss.w fun w =>
        { w with
            handler := false
            parkedFor := true
            record := some p.1
            pending := []
            c := { w.c with stopped := true }
            a := { w.a with stopped := true } }
      (s1.vStore (c.grp.die, c.grp.core) c.grp.dom (c.warp.ctx + 5) [2]).vStore (c.grp.die, c.grp.core) c.grp.dom (c.warp.ctx + 8) (leBytes 4 p.1)

/-- SYS in handler mode, selectors 0x0100 to 0x01FF. -/
def Ctx.sysHandler (c : Ctx) (s : State) (h : Hdr) (e : FormE) (codes : List (BitVec 7)) : Host.Outcome State Fault Refusal :=
  let sel := e.imm16.toNat
  if sel ≤ 0x0106 && e.sube == 0 then c.answer s h e codes fun _ => c.handlerWord sel
  else if sel == 0x0110 && e.sube == 2 && e.dk == 7 then
    match c.firstLane? h with
    | none => c.answer s h e codes fun _ => 0
    | some l =>
      let v := src (c.reads 0 codes l) 0
      if v == 0 || 3 < v.toNat then c.trap s 0x21 0
      else if v == 3 && c.warp.storesOut then .next s
      else
        match c.endAction s h v (lqPops codes) with
        | some s1 => .next s1
        | none => .next s
  else c.trap s 0x21 0

/-- The bits of lane status that SYS clears. -/
def Warp.clearStatus (w : Warp) (on : Mask) (v : Nat → Word) : Warp :=
  w.modLanes on fun l k => { k with status := k.status &&& ~~~((v l).setWidth 8) }

/-- SYS (R253). -/
def execSys (h : Hdr) (e : FormE) (s : State) : Host.Outcome State Fault Refusal :=
  withCtx s fun c =>
    let codes := if e.sube == 0 then [] else [e.sa]
    let sel := e.imm16.toNat
    if 0x0100 ≤ sel && sel ≤ 0x01FF then
      (if c.warp.handler then c.gated s (c.eGate e codes) (c.sysHandler s h e codes) else c.trap s 0x20 0x1E0)
    else if !(sel ≤ 3 && (e.sube == 0 || (e.sube == 1 && (sel == 1 || sel == 2)))) then c.trap s 0x21 0
    else
      c.gated s (c.eGate e codes) <|
        let arg (l : Nat) : Word := src (c.reads 0 codes l) 0
        let old := c.warp
        let word (l : Nat) : Word :=
          match sel with
          | 0 => old.mode
          | 1 => (old.lane l).status.setWidth 32
          | 2 => old.mstatus
          | _ => BitVec.ofNat 32 (c.iss.w.seq % 65536)
        let w : Warp :=
          if e.sube != 1 then old
          else if sel == 1 then old.clearStatus (c.exec h) arg
          else
            match c.firstLane? h with
            | some l => { old with mstatus := old.mstatus &&& ~~~(arg l) }
            | none => old
        { c with warp := w }.answer s h e codes word

/-! ## TOPO (R254) -/

/-- The grade as fused (R2). -/
def Module.gradeB (m : Module) : Bool := (m.fuses.map (·.gradeB)).getD false

/-- The topology words. -/
def State.topoWord (s : State) (g : Group) (sel : Nat) (arg : Nat) : Word :=
  match sel with
  | 0 => BitVec.ofNat 32 ((if s.module.gradeB then 1 else 0) + 256 * s.liveDies.length)
  | 1 => BitVec.ofNat 32 (g.die + 512 * (g.core / 24) + 65536 * (g.core % 24) + 2097152 * regionOf g.die)
  | 2 =>
    if 16 ≤ arg then 0xFFFFFFFF
    else (List.range 32).foldl (fun (m : Word) j => if s.isLive (32 * arg + j) then m ||| (1 <<< j) else m) 0
  | 3 => if 512 ≤ arg then 0xFFFFFFFF else BitVec.ofNat 32 (bandOf g.die arg)
  | 4 => if 6 ≤ arg then 0xFFFFFFFF else BitVec.ofNat 32 (bandBound arg)
  | _ => if 512 ≤ arg then 0xFFFFFFFF else BitVec.ofNat 32 (regionOf arg)

/-- TOPO (R254). -/
def execTopo (h : Hdr) (e : FormE) (s : State) : Host.Outcome State Fault Refusal :=
  withCtx s fun c =>
    let codes := [e.sa]
    c.gated s (c.eGate e codes) <|
      let arg := (src (c.reads 0 codes ((c.firstLane? h).getD 0)) 0).toNat
      c.answer s h e codes fun _ => s.topoWord c.grp e.imm16.toNat arg

/-! ## CLK (R255, R377) and PERF (R259, R399, R400) -/

/-- TOFS entry (i, j) under 4i + j. -/
def State.tofs (s : State) (n : Nat) : Word := BitVec.ofInt 32 ((tableGet n s.module.tofs).getD 0)

/-- ck since the core left reset. -/
def State.coreCk (s : State) (die : Nat) : Nat := s.now - max (s.die die).leftReset s.module.poweredAt

/-- CLK (R255): the counter is read as the instruction issues. -/
def execClk (h : Hdr) (e : FormE) (s : State) : Host.Outcome State Fault Refusal :=
  withCtx s fun c =>
    c.gated s (c.eGate e []) <|
      match c.firstLane? h with
      | none => c.answer s h e [] fun _ => 0
      | some _ =>
        let t := s.dieTime c.grp.die
        match e.sube.toNat with
        | 0 => { c with warp := { c.warp with clkHi := t.extractLsb' 32 32 } }.answer s h e [] fun _ => t.setWidth 32
        | 1 => c.answer s h e [] fun _ => c.warp.clkHi
        | 2 => c.answer s h e [] fun _ => s.tofs (e.imm16.toNat % 16)
        | _ => c.answer s h e [] fun _ => BitVec.ofNat 32 (s.coreCk c.grp.die)

/-- The counter that PERF names. -/
def State.perfValue (s : State) (g : Group) (n : Nat) : Word64 :=
  if (s.domain g.dom).grant.getLsbD n then
    (if n < 4 then ((s.core g.die g.core).counters.getD n ⟨0, 0⟩).count else ((s.die g.die).counters.getD (n - 32) ⟨0, 0⟩).count)
  else 0

/-- PERF (R259). -/
def execPerf (h : Hdr) (e : FormE) (s : State) : Host.Outcome State Fault Refusal :=
  withCtx s fun c =>
    c.gated s (c.eGate e []) <|
      match c.firstLane? h with
      | none => c.answer s h e [] fun _ => 0
      | some _ =>
        let n := e.imm16.toNat % 64
        if e.sube == 0 then
          let v := s.perfValue c.grp n
          { c with warp := { c.warp with perfHi := v.extractLsb' 32 32 } }.answer s h e [] fun _ => v.setWidth 32
        else c.answer s h e [] fun _ => if (s.domain c.grp.dom).grant.getLsbD n then c.warp.perfHi else 0

/-! ## SETXV (R256) -/

/-- Bits 15:0 of y15. -/
def Warp.setXv (w : Warp) (v : Half) : Warp := { w with y := w.y.set! 15 ((w.y.getD 15 0).extractLsb' 16 16 ++ v) }

/-- SETXV (R256). -/
def execSetxv (h : Hdr) (e : FormE) (s : State) : Host.Outcome State Fault Refusal :=
  withCtx s fun c =>
    let codes := [e.sa]
    c.gated s (c.lqGate (lqNeed codes)) <|
      let w := c.popLq (lqPops codes) c.warp
      match c.firstLane? h with
      | none => c.done h s w
      | some l => c.done h s (w.setXv ((src (c.reads 0 codes l) 0).setWidth 16))

/-- SETXV.imm (R256). -/
def execSetxvImm (h : Hdr) (e : FormE) (s : State) : Host.Outcome State Fault Refusal :=
  withCtx s fun c => c.done h s (if (c.firstLane? h).isSome then c.warp.setXv e.imm16 else c.warp)

/-! ## TRAP, BKPT, RETT, SLEEP (R257, R258, R357) -/

/-- TRAP (R257). -/
def execTrap (_h : Hdr) (e : FormE) (s : State) : Host.Outcome State Fault Refusal :=
  withCtx s fun c => c.trap s 0x48 e.imm16.toNat

/-- BKPT (R257). -/
def execBkpt (_h : Hdr) (e : FormE) (s : State) : Host.Outcome State Fault Refusal :=
  withCtx s fun c => c.trap s 0x40 e.imm16.toNat

/-- RETT (R257, R357): outside handler mode it traps; in it the slice has returned, once what the handler stored is in its block. -/
def execRett (h : Hdr) (e : FormE) (s : State) : Host.Outcome State Fault Refusal :=
  withCtx s fun c =>
    if !c.warp.handler then c.trap s 0x20 0x1E6
    else if c.warp.storesOut then .next s
    else .next ((c.finish h (fun _ sl => { sl with hold := .rett (e.sube == 1) }) s c.warp).handlerEnds c.iss.w)

/-- SLEEP (R258). -/
def execSleep (h : Hdr) (e : FormE) (s : State) : Host.Outcome State Fault Refusal :=
  withCtx s fun c => c.done h s (c.warp.modStrand c.iss.strand fun t => { t with sleepEnd := some (s.now + e.imm16.toNat) })

/-- SLEEP_EXPIRE (R258). -/
def execSleepExpire (w : WarpKey) (strand : Strand) (s : State) : Host.Outcome State Fault Refusal :=
  match s.warp? w with
  | none => .next s
  | some k =>
    match (k.strand strand).sleepEnd with
    | some t => if t ≤ s.now then .next (s.modWarp w fun k => k.modStrand strand fun t => { t with sleepEnd := none }) else .next s
    | none => .next s

end Sys2Proof.Machine
end

