-- ==== Sys2Proof/Machine/Crown.lean ====
section
/-! DEFINITION. Sys2Proof/Machine/Crown.lean: the start of launches, placement, phase ends, retirement and the end of a launch (R36 to R48,
R321, R324, R327 to R336). -/

namespace Sys2Proof.Machine

/-! ## Rows of a core (R38 to R40, R285) -/

/-- Register-file rows of a warp (R38). -/
def rowsPerWarp (width : Nat) : Nat := 45 * (width / 16)

/-- The pool partition word (R39). -/
def rfOf (w : Word) : Nat := w.toNat % 1024
def scOf (w : Word) : Nat := w.toNat / 1024 % 1024
def accOf (w : Word) : Nat := w.toNat / 2 ^ 20 % 1024

def State.groupsOn (s : State) (die core : Nat) : List Group := s.groups.filter fun g => g.die == die && g.core == core

def State.coreFree (s : State) (die core : Nat) : Nat := Config.poolRows - ((s.groupsOn die core).map Group.held).sum

/-- The rows of a core that are taken, as bits. -/
def State.takenRows (s : State) (die core : Nat) : Nat :=
  (s.groupsOn die core).foldl (fun m g => g.rowMap.foldl (fun m r => match r with
    | some i => m ||| 1 <<< i
    | none => m) m) 0

/-- Free rows of a core, the lowest first. -/
def State.freeRowList (s : State) (die core : Nat) : List Nat :=
  let m := s.takenRows die core
  (List.range Config.poolRows).filter fun i => !(m.testBit i)

/-- Back the entries that p names, and that have no row, with free rows. -/
def backRows (p : Nat → Bool) : Nat → List (Option Nat) → List Nat → List (Option Nat)
  | _, [], _ => []
  | i, none :: xs, r :: rs => if p i then some r :: backRows p (i + 1) xs rs else none :: backRows p (i + 1) xs (r :: rs)
  | i, x :: xs, rs => x :: backRows p (i + 1) xs rs

/-! ## Where a launch's work can go (R328, R329) -/

def Launch.need (l : Launch) : Nat := rfOf l.rows + scOf l.rows + accOf l.rows

/-- Live dies of the mask that are not being withdrawn. -/
def State.candidates (s : State) (l : Launch) : List Nat := l.dies.filter fun d => s.isLive d && (s.die d).withdrawal.isNone

/-- A core of some groups of its die has room for one more group. -/
def roomOn (gs : List Group) (need core : Nat) : Bool := need + ((gs.filter (·.core == core)).map Group.held).sum ≤ Config.poolRows

/-- The four largest of some counts, summed. -/
def topSum : Nat → List Nat → Nat
  | 0, _ => 0
  | n + 1, l =>
    match l.max? with
    | some m => m + topSum n (l.erase m)
    | none => 0

/-- A die has distinct roomy cores for n groups on at most 4 clusters (R329). -/
def State.dieHolds (s : State) (die need n : Nat) : Bool :=
  let gs := s.groups.filter (·.die == die)
  if n ≤ 1 then (List.range Config.coresPerDie).any (roomOn gs need)
  else n ≤ topSum 4 ((List.range 92).map fun u => (List.range 24).countP fun i => roomOn gs need (24 * u + i))

/-- The home die of the page that a hint names for a group (R319, R328). -/
def State.hintDie (s : State) (dom : Nat) (hint : Nat × Nat) (g : Nat) : Option Nat :=
  (s.paOf dom ((hint.1 + g * hint.2) % 2 ^ 64)).map fun pa => s.homeOf (stackOf pa)

/-- The preferred die of a group (R328); home: that of the first load of its previous phase. -/
def State.preferred (s : State) (l : Launch) (g : Nat) (home : Option Nat) : Option Nat :=
  match l.hint0 with
  | some x => s.hintDie l.dom x g
  | none =>
    match l.hint1 with
    | some x => s.hintDie l.dom x g
    | none => home

/-- The die the Crown chooses for n groups (R328, R329). -/
def State.placeDie (s : State) (l : Launch) (pref : Option Nat) (n : Nat) : Option Nat :=
  let ds := (s.candidates l).filter fun d => s.dieHolds d l.need n
  match pref with
  | some p => if ds.contains p then some p else argMin (fun d => bandOf p d * 512 + d) ds
  | none =>
    let key (d : Nat) : Nat :=
      match l.lastDie with
      | some k => if k < d then d else d + 512
      | none => d
    argMin key ds

/-! ## A warp and a group at the start of a phase (R36, R43) -/

/-- The workspace area of a group: for each warp its context block, the handler's and its own call stack region; then the save area (R30,
R355, R359, R365). -/
def warpArea (width : Nat) : Nat := ctxBytes width + 2 * callBytes width

def Launch.areaBytes (l : Launch) : Nat := l.warps * warpArea l.code.width + (scOf l.rows + accOf l.rows) * 148 + 64

/-- The rows that a carry set names, in ascending order. -/
def Carry.rowList (k : Carry) (scRows : Nat) : List Nat := (List.range scRows).filter fun r => k.runs.any fun x => covers x.1 x.2 r

def bitsOf (w : Word) : List Nat := (List.range 32).filter fun i => w.getLsbD i

/-- Bytes of a phase record (R44). -/
def Carry.recordBytes (k : Carry) (warps width scRows : Nat) : Nat :=
  0x80 + 4 * warps * width * ((bitsOf k.f).length + (bitsOf k.x).length) + 148 * (k.rowList scRows).length

/-- Bytes 0x000C to 0x0057 of a phase record. -/
def Carry.bytes (k : Carry) : List Byte :=
  bytesOfWord k.f ++ bytesOfWord k.x ++ leBytes 4 k.runs.length ++ padTo 64 (k.runs.flatMap fun r => leBytes 2 r.1 ++ leBytes 2 r.2)

def carryOf (b : List Byte) : Carry :=
  let n := min 16 (leAt b 8 4)
  ⟨BitVec.ofNat 32 (leAt b 0 4), BitVec.ofNat 32 (leAt b 4 4), (List.range n).map fun i => (leAt b (12 + 4 * i) 2, leAt b (14 + 4 * i) 2)⟩

/-- The new phase's record: no next phase yet, a count of 1 (R42, R44, R333). -/
def newRecord (grp : Nat) (k : Carry) : List Byte := leBytes 8 (grp * 65536) ++ leBytes 4 1 ++ k.bytes ++ List.replicate 40 0

/-- What the record of the phase before carries in. -/
structure Carried where
  set : Carry
  words : List Word
  rows : List Byte
deriving DecidableEq, Repr

def Carried.none : Carried := ⟨⟨0, 0, []⟩, [], []⟩

def State.readCarried (s : State) (dom recAt warps width scRows : Nat) : Carried :=
  let k := carryOf (s.vBytes dom (recAt + 0xC) 76)
  let n := warps * width * ((bitsOf k.f).length + (bitsOf k.x).length)
  ⟨k, wordsOf (s.vBytes dom (recAt + 0x80) (4 * n)), s.vBytes dom (recAt + 0x80 + 4 * n) (148 * (k.rowList scRows).length)⟩

/-- Carried frame slots and x registers overwrite a lane's start state. -/
def Carried.lane (k : Carried) (warps width warp l : Nat) (ln : Lane) : Lane :=
  let fs := bitsOf k.set.f
  let xs := bitsOf k.set.x
  let word (item : Nat) : Word := k.words.getD ((item * warps + warp) * width + l) 0
  let f1 := (mapIdxList (fun j i => (j, i)) fs).foldl (fun (f : Vector Word 32) p => f.set! p.2 (word p.1)) ln.f
  let x1 := (mapIdxList (fun j i => (j, i)) xs).foldl (fun (x : Vector Word 32) p => x.set! p.2 (word (fs.length + p.1))) ln.x
  { ln with f := f1, x := x1 }

/-- Carried rows at their offsets in a scratch region that otherwise reads 0 (R43, R285). -/
def Carried.scratch (k : Carried) (scRows : Nat) : List Host.Cell :=
  (mapIdxList (fun j r => ((j, r) : Nat × Nat)) (k.set.rowList scRows)).foldl (fun c p => cellWrites c (148 * p.2) (bytesAt k.rows (148 * p.1) 148)) []

/-- A warp at the start of a phase (R15, R36). -/
def Launch.newWarp (l : Launch) (ph : Phase) (k : Carried) (key : WarpKey) (cohortNo slot ctx : Nat) : Warp :=
  let width := l.code.width
  let octets := List.replicate (width / 8) (⟨⟨none, 0, [], []⟩, [], [], []⟩ : Octet)
  { key := key, width := width, past := [],
    lanes := mapIdxList (k.lane l.warps width key.warp) (startLanes width l.param key.grp key.warp ph.id),
    m := Vector.replicate 8 0, g := Vector.replicate 8 0, y := startY key.grp key.warp cohortNo slot l.param ph.id width,
    cause := 0, mode := ph.mode, clkHi := 0, perfHi := 0,
    c := StrandSt.of (freshSlices width (BitVec.ofNat 32 (ph.c / 8)) fun _ => true),
    a := StrandSt.of (freshSlices width (BitVec.ofNat 32 (ph.a / 8)) fun _ => true),
    busy := [], longs := [], accs := [], xva := 0, xvb := 0, mstatus := 0, octets := octets, machineCheck := none, latchCheck := [],
    cfgBad := none, pending := [], asyncs := [], handler := false, saved := none, record := none, held := false, parkedFor := false, evictNamed := false,
    evicted := false, ended := false, ctx := ctx, callBase := ctx + ctxBytes width + callBytes width, stuckSince := none }

/-- A group at the start of a phase. -/
def State.newGroup (s : State) (l : Launch) (ph : Phase) (k : Carried) (key : GroupKey) (die slot : Nat) (cohort : List Nat) (cohortNo : Nat)
    (site : PlaceSite) : Group :=
  let rf := rfOf l.rows
  let sc := scOf l.rows
  let acc := accOf l.rows
  { key := key, dom := l.dom, die := die, core := site.core, slot := slot, cohort := cohort, cohortNo := cohortNo, phase := ph.id, prio := l.prio,
    effPrio := l.prio, resident := l.code.resident, width := l.code.width, scRows := sc, accRows := acc, rfRows := rf,
    rowMap := backRows (fun _ => true) 0 (List.replicate (rf + sc + acc) none) (s.freeRowList die site.core),
    scratch := k.scratch sc, b0 := ⟨none, 0, [], []⟩, b1 := ⟨none, 0, [], []⟩, stages := List.replicate 8 ⟨0, false, false, false, false⟩,
    active := false, entered := s.now, waitSwaps := 0, placedAt := s.steps, rowsOut := false, area := site.area, recAt := site.recAt,
    warps := (List.range l.warps).map fun v =>
      l.newWarp ph k ⟨key.seq, key.grp, v⟩ cohortNo slot (site.area + v * warpArea l.code.width),
    firstLoad := none, aborted := false }

/-! ## The profile tables (R48) -/

/-- A group of a phase starts on a core: its entry counts it; with 64 others there, the one updated least recently makes way. Entries of
phases at work are updated on every ck (State.tick). -/
def noteProfile (phase tag now : Nat) (t : List Profile) : List Profile :=
  match t.find? (·.phase == phase) with
  | some _ => updFirst (·.phase == phase) (fun p => { p with tag := tag, groups := p.groups + 1, used := now }) t
  | none =>
    let p : Profile := ⟨phase, tag, 1, List.replicate 6 (0, 0), now⟩
    if t.length < 64 then t ++ [p]
    else
      match argMin (·.used) t with
      | some old => updFirst (·.phase == old.phase) (fun _ => p) t
      | none => [p]

/-! ## Placement (R327 to R331, R336) -/

/-- A workspace range is free: inside the workspace, past the fault queue, clear of every other allocation. -/
def State.areaFree (s : State) (dom at_ n : Nat) : Bool :=
  (match (s.domain dom).work with
   | some w => w.1 + Config.faultQueueBytes ≤ at_ && at_ + n ≤ w.1 + w.2
   | none => false) &&
  !(s.areas.any fun a => a.1 == dom && overlaps a.2.1 a.2.2 at_ n)

/-- The site gives a group all it needs. -/
def State.siteOk (s : State) (l : Launch) (ph : Phase) (die : Nat) (site : PlaceSite) : Bool :=
  let n := ph.carry.recordBytes l.warps l.code.width (scOf l.rows)
  site.core < Config.coresPerDie && l.need ≤ s.coreFree die site.core && site.area % 256 == 0 && site.recAt % 128 == 0 &&
    s.areaFree l.dom site.area l.areaBytes && s.areaFree l.dom site.recAt n && !(overlaps site.area l.areaBytes site.recAt n)

/-- The workspace without the record and the area that a phase before holds (R336). -/
def State.freed (s : State) (old : Option Task) : State :=
  match old with
  | none => s
  | some t => { s with
      areas := s.areas.filter fun a => !(some a.1 == (s.launch? t.g.seq).map (·.dom) && (a.2.1 == t.recAt || a.2.1 == t.area))
      tasks := s.tasks.filter (·.g != t.g) }

/-- Place one group: for a later phase the record of the phase before is read, and freed with its area. -/
def State.placeGroup (s : State) (l : Launch) (ph : Phase) (key : GroupKey) (die slot : Nat) (cohort : List Nat) (cohortNo : Nat)
    (site : PlaceSite) : Option State :=
  let old := s.task? key
  let k := match old with
    | some t => s.readCarried l.dom t.recAt l.warps l.code.width (scOf l.rows)
    | none => Carried.none
  let s1 := s.freed old
  if !(s1.siteOk l ph die site) then none
  else
    let n := ph.carry.recordBytes l.warps l.code.width (scOf l.rows)
    let s2 := { s1 with
      groups := s1.groups ++ [s1.newGroup l ph k key die slot cohort cohortNo site]
      areas := s1.areas ++ [(l.dom, site.area, l.areaBytes), (l.dom, site.recAt, n)]
      tasks := s1.tasks ++ [(⟨key, site.recAt, site.area, 1, 0, none, false, cohort, cohortNo, none⟩ : Task)]
      ready := s1.ready.filter (· != key) }
    let s3 := s2.modCore die site.core fun c =>
      { c with pending := c.pending ++ [key], profile := noteProfile ph.id (l.seq % 65536) s.now c.profile }
    some ((s3.vStore (die, site.core) l.dom site.recAt (newRecord key.grp ph.carry)).letIn die site.core)

/-- Place the members of a cohort, in ascending group number, with slots from 0. -/
def State.placeAll (s : State) (l : Launch) (ph : Phase) (die : Nat) (cohort : List Nat) (cohortNo : Nat) :
    Nat → List Nat → List PlaceSite → Option State
  | slot, g :: gs, x :: xs =>
    match s.placeGroup l ph ⟨l.seq, g⟩ die slot cohort cohortNo x with
    | some s1 => State.placeAll s1 l ph die cohort cohortNo (slot + 1) gs xs
    | none => none
  | _, [], [] => some s
  | _, _, _ => none

def distinct : List Nat → Bool
  | [] => true
  | x :: xs => !(xs.contains x) && distinct xs

/-- Place a group or cohort on the die the Crown chooses. -/
def State.place (s : State) (l : Launch) (ph : Phase) (die : Nat) (members : List Nat) (cohortNo : Nat) (home : Option Nat)
    (sites : List PlaceSite) : Option State :=
  let pref := s.preferred l (members.headD 0) home
  if s.placeDie l pref members.length != some die || !(distinct (sites.map (·.core))) ||
      4 < ((sites.map fun x => x.core / 24).eraseDups).length then none
  else
    (s.placeAll l ph die members cohortNo 0 members sites).map fun s1 =>
      s1.modLaunch l.seq fun l => { l with lastDie := if pref.isNone || l.lastDie.isSome then some die else l.lastDie }

/-- A resident launch reports once every group is placed (R324). -/
def State.reportResident (s : State) (seq : Nat) : State :=
  match s.launch? seq with
  | none => s
  | some l =>
    if l.code.resident && l.placed == l.groups && !l.reported then
      (s.completeRecord l.win l.k 0x0001 l.seq 0 l.cookie).modLaunch seq fun l => { l with reported := true, status := some 0x0001 }
    else s

/-! ## The order in which the Crown serves (R327, R334) -/

/-- What waits for placement: the next groups of a started launch, or the groups of a ready phase. -/
structure Work where
  launch : Launch
  phase : Phase
  members : List Nat
  cohortNo : Nat
  home : Option Nat
  later : Bool
deriving DecidableEq, Repr

/-- The groups of a launch that are placed next. -/
def Launch.firstWork (l : Launch) : Option Work :=
  if l.started && !l.ended && l.placed < l.groups then
    (l.code.phases.find? (·.id == l.firstPhase)).map fun ph =>
      ⟨l, ph, (List.range l.perCohort).map (l.placed + ·), l.placed / l.perCohort, none, false⟩
  else none

/-- A ready phase, named by the first group of its cohort, once all of them are ready. -/
def State.readyWork (s : State) (k : GroupKey) : Option Work :=
  match s.launch? k.seq, s.task? k with
  | some l, some t =>
    if !l.ended && t.phaseOver && t.cohort.head? == some k.grp && t.cohort.all (fun n => s.ready.contains ⟨k.seq, n⟩) then
      (l.code.phases.find? fun p => some p.id == t.next).map fun ph => ⟨l, ph, t.cohort, t.cohortNo, t.home, true⟩
    else none
  | _, _ => none

/-- Insert before the first that is served later: a higher priority, then the launch parsed earlier, then the place in the list (log 69). -/
def insertWork (x : Work) : List Work → List Work
  | [] => [x]
  | y :: ys =>
    let key (w : Work) : Nat := (7 - w.launch.prio) * 2 ^ 64 + w.launch.order
    if key x ≤ key y then x :: y :: ys else y :: insertWork x ys

/-- What waits for placement, in the order in which the Crown tries it. -/
def State.works (s : State) : List Work :=
  (s.launches.filterMap Launch.firstWork ++ s.ready.filterMap s.readyWork).foldr insertWork []

/-- Sizes of the workspace ranges that a piece of work needs. -/
def Work.ranges (w : Work) : List Nat :=
  w.members.flatMap fun _ => [w.launch.areaBytes, w.phase.carry.recordBytes w.launch.warps w.launch.code.width (scOf w.launch.rows)]

def alignUp (n a : Nat) : Nat := (n + a - 1) / a * a

/-- Take ranges one after the other, each at the lowest address where it fits; false when one does not. -/
def State.takeRanges (dom base : Nat) : List Nat → State → Bool
  | [], _ => true
  | n :: ns, s =>
    let starts := (base :: (s.areas.filter (·.1 == dom)).map fun a => a.2.1 + a.2.2).map (alignUp · 256)
    match argMin id (starts.filter fun x => s.areaFree dom x n) with
    | some x => State.takeRanges dom base ns { s with areas := (dom, x, n) :: s.areas }
    | none => false

/-- The workspace has room for a piece of work (R336; log 69). -/
def State.spaceFor (s : State) (w : Work) : Bool :=
  let olds := if w.later then w.members.map fun n => s.task? ⟨w.launch.seq, n⟩ else []
  match (s.domain w.launch.dom).work with
  | some r => State.takeRanges w.launch.dom (r.1 + Config.faultQueueBytes) w.ranges (olds.foldl State.freed s)
  | none => false

/-- The die that a piece of work would go to. -/
def State.dieFor (s : State) (w : Work) : Option Nat :=
  s.placeDie w.launch (s.preferred w.launch (w.members.headD 0) w.home) w.members.length

/-- It can be placed now. -/
def State.fits (s : State) (w : Work) : Bool := (s.dieFor w).isSome && s.spaceFor w

/-- CROWN_PLACE (R327, R334): the next groups of a started launch, or a ready phase, are placed where the Crown would place them, once nothing
that it serves before them fits. -/
def execCrownPlace (g : GroupKey) (die : Nat) (sites : List PlaceSite) (s : State) : Host.Outcome State Fault Refusal :=
  let mine (w : Work) : Bool := w.launch.seq == g.seq && w.members.head? == some g.grp
  match s.works.find? mine with
  | none => .next s
  | some w =>
    if (s.works.takeWhile fun v => !(mine v)).any s.fits then .next s
    else
      match s.place w.launch w.phase die w.members w.cohortNo w.home sites with
      | none => .next s
      | some s1 =>
        if w.later then .next s1
        else .next ((s1.modLaunch g.seq fun l => { l with placed := l.placed + l.perCohort }).reportResident g.seq)

/-! ## The start of a launch (R14, R320, R327) -/

/-- Complete for stream order (R14). -/
def Launch.streamDone (l : Launch) : Bool := l.ended || l.retired == l.groups || (l.code.resident && l.placed == l.groups)

/-- LAUNCH_START (R327): a dependence that failed ends the launch with 0x000C at once (R320); else, first in its stream with its
dependences met, it starts, or ends with 0x0011 when its domain has no workspace. -/
def execLaunchStart (seq : Nat) (s : State) : Host.Outcome State Fault Refusal :=
  match s.launch? seq with
  | none => .next s
  | some l =>
    if l.started || l.ended then .next s
    else
      let sts := l.deps.map fun d => s.recStatus d.1 d.2
      let bad (x : Option Nat) : Bool := match x with
        | some v => 1 < v
        | none => false
      if sts.any bad then .next ((s.endLaunch seq 0x000C 0).posted seq)
      else if sts.any Option.isNone || s.launches.any fun q => q.win == l.win && q.order < l.order && !q.streamDone then .next s
      else if (s.domain l.dom).work.isNone then .next ((s.endLaunch seq 0x0011 0).posted seq)
      else .next (s.modLaunch seq fun l => { l with started := true })

/-! ## Phase ends (R41 to R45, R248) -/

/-- A warp has executed PHASE. -/
def Warp.phased (w : Warp) : Bool := w.bothPhase && !w.handler && !w.held && !w.parkedFor && !w.evicted && w.pending.isEmpty

/-- A warp has exited in both strands, and no cause is left to be taken (R385). -/
def Warp.gone (w : Warp) : Bool :=
  (w.ended || (w.bothExited && !w.handler && !w.held && !w.parkedFor && !w.evicted)) && w.pending.isEmpty

def State.openWindow (s : State) (g : Group) : Bool := (s.core g.die g.core).windows.any fun w => w.open_ && w.owner == g.key

/-- What the end of a group's phase waits for (R248, R279): matrix operations, windows, copies with an end in its region or SUCC = 0 and what they
wrote, and every access but a load, performed at .pnl, with what the group sees of others' writes (R267). After the ABORT of such a copy it never
comes (R189). -/
def State.phaseWaits (s : State) (g : Group) : Bool :=
  g.aborted || !(s.seenWide g.agent 4) || (s.matOps.any fun o => o.w.group == g.key) || s.openWindow g ||
    (s.copies.any fun k => k.inRegion g.key || (k.g == g.key && !k.succ)) ||
    (((s.launch? g.key.seq).map (·.orphans)).getD []).any (fun o => o.w.group == g.key && !o.acc.nt) ||
    g.warps.any fun w => !w.longs.isEmpty || w.accs.any fun a => a.kind != .load && !a.finished

/-- The carried sections of a phase record, 0 for warps that have exited (R41, R44). -/
def State.carryBytes (s : State) (g : Group) (k : Carry) : List Byte :=
  let item (read : Lane → Word) : List Byte := g.warps.flatMap fun w =>
    (List.range g.width).flatMap fun l => bytesOfWord (if w.gone then 0 else read (w.lane l))
  (bitsOf k.f).flatMap (fun i => item fun ln => ln.f.getD i 0) ++ (bitsOf k.x).flatMap (fun i => item fun ln => ln.x.getD i 0) ++
    (k.rowList g.scRows).flatMap fun r => s.scratchRead g.key (148 * r) 148

/-- One group's phase ends: the carry set is written, the rows return, and the 1 of the phase end leaves the count. -/
def State.endPhase (s : State) (cohort : List Nat) (g : Group) : State :=
  let carry := (((s.launch? g.key.seq).bind fun l => l.code.phases.find? (·.id == g.phase)).map (·.carry)).getD ⟨0, 0, []⟩
  let s1 := s.vStore (g.die, g.core) g.dom (g.recAt + 0x80) (s.carryBytes g carry)
  let s2 := s1.modTask g.key fun t => { t with phaseOver := true, cohort := cohort, home := g.firstLoad }
  ((s2.removeGroup g.key true).letIn g.die g.core).taskSub g.key false

/-- PHASE_END_COMPLETE (R41): every warp of the cohort has executed PHASE or exited, and nothing is left to wait for. -/
def execPhaseEndComplete (g : GroupKey) (s : State) : Host.Outcome State Fault Refusal :=
  match s.group? g with
  | none => .next s
  | some g0 =>
    let ms := (g0.cohort.filterMap fun n => s.group? ⟨g.seq, n⟩)
    let on := ms.filter fun m => m.warps.any Warp.phased
    if on.isEmpty || !(ms.all fun m => m.warps.all fun w => w.phased || w.gone) || on.any s.phaseWaits then .next s
    else .next (on.foldl (fun s m => s.endPhase (on.map (·.key.grp)) m) s)

/-! ## Retirement and completion (R324, R335) -/

/-- GROUP_RETIRE (R335, R46): its successor task is discarded with it (R42). -/
def execGroupRetire (g : GroupKey) (s : State) : Host.Outcome State Fault Refusal :=
  match s.group? g with
  | none => .next s
  | some k =>
    let busy := s.copies.any (·.g == g) || s.openWindow k || k.warps.any fun w => w.accs.any fun a => a.kind == .atom || a.kind == .red
    if !(k.warps.all Warp.gone) || busy then .next s
    else .next (((s.removeGroup g false).modLaunch g.seq fun l => { l with retired := l.retired + 1 }).letIn k.die k.core)

/-- Dirty SC lines of some dies go to their homes. -/
def State.flushDies (s : State) (ds : List Nat) : State :=
  ds.foldl (fun s d => (((s.die d).lines.filter (·.sc)).foldl (fun s l => s.writeBack d l) s).modDie d fun k =>
    { k with lines := k.lines.map fun l => if l.sc then { l with dirty := 0 } else l }) s

/-- How the successor store ends (R321): it waits (R307, R311), it faults, or it is made. -/
inductive SuccStore where
  | wait
  | fault
  | made (s : State)
deriving Repr

/-- The successor store (R321). -/
def State.successorStore (s : State) (l : Launch) : SuccStore :=
  match s.resolve (l.dies.headD 0) 0 l.dom l.succAddr with
  | (_, .error _) => .fault
  | (s1, .ok p) =>
    if p.qz || s1.flipClosed edieReplica p then .wait
    else if !p.w || p.fx || p.cc == 2 || s.inWorkspace l.dom l.succAddr || s.inCode l.dom l.succAddr 8 then .fault
    else .made (((s1.chargeWalk l.dom l.succAddr).markLeaf l.dom p true).sysStore (s1.visible edieReplica p (p.at_ l.succAddr))
      (leBytes 8 l.succVal.toNat))

/-- What a launch's dies have sent to the homes of lines that are not HC is still on its way. -/
def State.flushing (s : State) (l : Launch) : Bool := s.memory.sent.any fun p => p.only.isSome && p.dom == l.dom && l.dies.contains p.src

/-- A write of a launch, or a matrix operation, is still to be performed (R282). -/
def State.launchBusy (s : State) (l : Launch) : Bool := !l.orphans.isEmpty || s.matOps.any fun o => o.w.seq == l.seq

/-- What follows the writes of a launch that was ended (R282, R324): its record; or the successor store of a resident launch that has reported,
which a fault leaves unmade. -/
def State.settleLaunch (s : State) (seq : Nat) : State :=
  match s.launch? seq with
  | none => s
  | some l =>
    if !l.owed || s.launchBusy l then s
    else
      let s1 := s.flushDies l.dies
      if s1.flushing l then s1
      else if !l.reported || l.succAddr == 0 then s1.posted seq
      else
        match s1.successorStore l with
        | .wait => s1
        | .fault => s1.posted seq
        | .made s2 => (s2.charge l.dom 3 8).posted seq

/-- LAUNCH_COMPLETE (R324, R282, R321): every group has retired, no phase is pending, and every write is performed at .sys; or, of a launch that
was ended, what is owed. -/
def execLaunchComplete (seq : Nat) (s : State) : Host.Outcome State Fault Refusal :=
  match s.launch? seq with
  | none => .next s
  | some l =>
    if l.ended then .next (s.settleLaunch seq)
    else if !l.started || l.retired != l.groups || s.launchBusy l || (s.tasks.any fun t => t.g.seq == seq) then .next s
    else
      let s1 := s.flushDies l.dies
      if s1.flushing l then .next s1
      else if l.succAddr == 0 then .next ((s1.endLaunch seq 0 0).posted seq)
      else
        match s1.successorStore l with
        | .wait => .next s1
        | .fault => .next ((s1.endLaunch seq 0x0013 0).posted seq)
        | .made s2 => .next (((s2.charge l.dom 3 8).endLaunch seq 0 0).posted seq)

end Sys2Proof.Machine
end

