-- ==== Sys2Proof/Machine/Issue.lean ====
section
/-! DEFINITION. Sys2Proof/Machine/Issue.lean: which gang may issue (R82, R337, R338, R348) and the word it fetches (R79, R98, R355). -/

namespace Sys2Proof.Machine

/-- The strand may issue: it is not stopped, parked on S with a long result outstanding, asleep, or waiting in PUBLISH, and no
instruction of the warp but its own waits for translations (R349). One that has issued goes on to its boundary even when the strand stops
there (R348). -/
def Warp.strandReady (w : Warp) (st : Strand) (gang : Nat) : Bool :=
  let t := w.strand st
  let mine := t.midway && t.walkGang == gang
  (mine || !w.midway) && (mine || !t.stopped) && !(t.parked && w.longs.any (·.strand == st)) && t.sleepEnd.isNone && t.publish.isNone

/-- The warp may issue: it is on its core, holds no record, and no asynchronous cause is due. -/
def Warp.ready (g : Group) (w : Warp) : Bool :=
  !w.held && !w.parkedFor && !w.evicted && !w.evictNamed && !w.ended && (w.asyncNow g).isEmpty

/-- A gang may issue its next instruction, of a group that has been swapped in for 4 ck (R339); matrix and vector issue, which is the C-strand's, may be withheld (R387, R388). -/
def State.mayIssue (s : State) (i : Issuer) : Bool :=
  match s.group? i.w.group with
  | none => false
  | some g =>
    match g.warp? i.w with
    | none => false
    | some w =>
      g.active && g.entered ≤ s.now && !g.rowsOut && s.isLive g.die && (i.strand == .a || (s.die g.die).withheldUntil ≤ s.now) && w.ready g && w.strandReady i.strand i.gang &&
        !(gangSlices (w.strand i.strand) i.gang).isEmpty

/-- The code segment of a strand: offset and size within its object. -/
def CodeObject.segment (o : CodeObject) : Strand → Nat × Nat
  | .c => o.cSeg
  | .a => o.aSeg

/-- What a fetch gives: a word, a fault with a walk result (0xFF for none) and an address, or a page in transition (R307). -/
inductive Fetched where
  | word (w : Word64)
  | fault (walk va : Nat)
  | wait
deriving DecidableEq, Repr

/-- Fetch from a segment of the handler's object. -/
def handlerFetch (img : List Byte) (st : Strand) (pc : Nat) : Fetched :=
  let base := if st == .c then 0x10 else 0x20
  let off := leAt img base 8
  if 8 * pc + 8 ≤ leAt img (base + 8) 8 then .word (BitVec.ofNat 64 (leAt img (off + 8 * pc) 8)) else .fault 0xFF (off + 8 * pc)

/-- The word at the PC of the issuing gang (R98): A is set in its page's leaf (R304), and it waits under QZ or a flip (R307, R311). That a page
with R = 0 or FX = 0 is read all the same is the model's choice (log 67): R98, R301 and R303 do not say. -/
def State.fetch (s : State) (c : Ctx) : State × Fetched :=
  let pc := (c.st.slice (c.slices.headD 0)).pc.toNat
  if c.warp.handler then (s, handlerFetch (s.handlerImage c.warp.width) c.iss.strand pc)
  else
    match s.launch? c.iss.w.seq with
    | none => (s, .fault 0xFF 0)
    | some l =>
      let (off, size) := l.code.segment c.iss.strand
      let va := l.code.base + off + 8 * pc
      if size < 8 * pc + 8 then (s, .fault 0xFF va)
      else
        match s.resolve c.grp.die c.grp.core c.grp.dom va with
        | (s', .error r) => (s', .fault r va)
        | (s', .ok p) =>
          if p.qz || s'.flipClosed c.grp.die p then (s', .wait)
          else
            let s1 := s'.markLeaf c.grp.dom p false
            (s1, .word (BitVec.ofNat 64 (s1.memory.nat (s1.visible c.grp.die p (p.at_ va)) 8)))

/-- What an issue does next. -/
inductive Issued where
  | idle (s : State)
  | run (i : Instr) (s : State)
deriving Repr

/-- Fetch and decode for a gang that may issue; a word that fails R80 step 2 traps with 0x21. -/
def State.issue (s : State) (i : Issuer) : Issued :=
  if !s.mayIssue i then .idle s
  else
    let s := { s with cur := some i, free := s.free + freeStep }
    match s.ctx? with
    | none => .idle s
    | some c =>
      match s.fetch c with
      | (s', .wait) => .idle s'
      | (s', .fault _ _) => .run .instructionFetchFault s'
      | (s', .word w) =>
        match decodeIn c.iss.strand w with
        | .instr i => .run i s'
        | .unassigned op => .run (.unassignedOpcode op) s'
        | .reserved _ => .idle (c.raise s' (c.cause 0x21 0))

/-! ## The two rows that stand for words with no instruction -/

/-- UNASSIGNED_OPCODE (R80, R97): 0x20 with OP in AUX. -/
def execUnassignedOpcode (op : BitVec 9) (s : State) : Host.Outcome State Fault Refusal :=
  withCtx s fun c => c.trap s 0x20 op.toNat

/-- INSTRUCTION_FETCH_FAULT (R98): 0x10 with the walk result of the fetch, access 3. -/
def execInstructionFetchFault (s : State) : Host.Outcome State Fault Refusal :=
  withCtx s fun c =>
    match s.fetch c with
    | (s', .fault r va) => .next (c.raise s' { c.cause 0x10 0 with walk := r, access := 3, va := va })
    | (s', _) => .next s'

end Sys2Proof.Machine
end

