-- ==== Sys2Proof/Machine/LoadStore.lean ====
section
/-! DEFINITION. Sys2Proof/Machine/LoadStore.lean: loads, stores and the prefetch (R161 to R166). -/

namespace Sys2Proof.Machine

/-- LD (R161): memory to x. -/
def execLd (h : Hdr) (m : FormM) (s : State) : Host.Outcome State Fault Refusal := loadMem false false h m s

/-- LDS (R161): scratch to x. -/
def execLds (h : Hdr) (m : FormM) (s : State) : Host.Outcome State Fault Refusal := loadScratch false h m s

/-- LDX (R163): memory to x, indexed by an IQ entry. -/
def execLdx (h : Hdr) (m : FormM) (s : State) : Host.Outcome State Fault Refusal := loadMem false true h m s

/-- LDC (R157): data segment to x. -/
def execLdc (h : Hdr) (m : FormM) (s : State) : Host.Outcome State Fault Refusal := loadData false h m s

/-- ST (R161): memory from x. -/
def execSt (h : Hdr) (m : FormM) (s : State) : Host.Outcome State Fault Refusal := storeMem false false h m s

/-- STS (R161): scratch from x. -/
def execSts (h : Hdr) (m : FormM) (s : State) : Host.Outcome State Fault Refusal := storeScratch false h m s

/-- STX (R163): memory from x, indexed by an IQ entry. -/
def execStx (h : Hdr) (m : FormM) (s : State) : Host.Outcome State Fault Refusal := storeMem false true h m s

/-- LD to LQ (R163). -/
def execLdLq (h : Hdr) (m : FormM) (s : State) : Host.Outcome State Fault Refusal := loadMem true false h m s

/-- LDS to LQ (R163). -/
def execLdsLq (h : Hdr) (m : FormM) (s : State) : Host.Outcome State Fault Refusal := loadScratch true h m s

/-- LDX to LQ (R163). -/
def execLdxLq (h : Hdr) (m : FormM) (s : State) : Host.Outcome State Fault Refusal := loadMem true true h m s

/-- LDC to LQ (R163). -/
def execLdcLq (h : Hdr) (m : FormM) (s : State) : Host.Outcome State Fault Refusal := loadData true h m s

/-- ST from SQ (R163). -/
def execStSq (h : Hdr) (m : FormM) (s : State) : Host.Outcome State Fault Refusal := storeMem true false h m s

/-- STS from SQ (R163). -/
def execStsSq (h : Hdr) (m : FormM) (s : State) : Host.Outcome State Fault Refusal := storeScratch true h m s

/-- STX from SQ (R163). -/
def execStxSq (h : Hdr) (m : FormM) (s : State) : Host.Outcome State Fault Refusal := storeMem true true h m s

/-! ## PF (R166) -/

/-- The page of an address when every check of a read would pass; no walk here homes a page or sets a bit. -/
def State.quietPage (s : State) (c : Ctx) (lane va : Nat) : Option Page :=
  let page? : Option Page := match s.cachedPage c.grp.die c.grp.core c.grp.dom va with
    | some p => some p
    | none =>
      match s.walk c.grp.dom va with
      | .leaf l at_ e => if unhomed e then none else some (pageOfLeaf l at_ e)
      | .fault _ _ => none
  match page? with
  | some p => if (s.pageBad c needLoad lane va 1 p).isEmpty && !p.qz && !(s.flipClosed c.grp.die p) then some p else none
  | none => none

/-- One lane's request for its line. -/
def State.prefetch (s : State) (c : Ctx) (m : FormM) (lane : Nat) : State :=
  let va := vaOf (c.eaOf m (sizeBytes m.size.toNat) false lane) 0
  match s.quietPage c lane va with
  | some p => (s.touch c.grp.die c.grp.dom p m.pol.toNat false (s.visible c.grp.die p (p.at_ va))).1
  | none => s

/-- PF (R166): it never faults and changes cache contents alone. -/
def execPf (h : Hdr) (m : FormM) (s : State) : Host.Outcome State Fault Refusal :=
  withCtx s fun c => c.done h ((c.execLanes h).foldl (fun s l => s.prefetch c m l) s) c.warp

end Sys2Proof.Machine
end

