-- ==== Sys2Proof/Machine/Matrix.lean ====
section
/-! DEFINITION. Sys2Proof/Machine/Matrix.lean: the matrix array (R192 to R218): checks and operands at issue, and the operations as the array
performs them, one after another for each warp. -/

namespace Sys2Proof.Machine

/-! ## Tiles and latches -/

def Latch.zero : Latch := ⟨none, 0, [], []⟩

def Octet.zero : Octet := ⟨Latch.zero, [], [], []⟩

/-- Replace element i of a list, which is padded to reach it. -/
def setPad {α : Type} (d : α) : Nat → α → List α → List α
  | 0, v, [] => [v]
  | 0, v, _ :: xs => v :: xs
  | n + 1, v, [] => d :: setPad d n v []
  | n + 1, v, x :: xs => x :: setPad d n v xs

def Warp.octet (w : Warp) (o : Nat) : Octet := w.octets.getD o Octet.zero

def Warp.modOctet (w : Warp) (o : Nat) (f : Octet → Octet) : Warp := { w with octets := setPad Octet.zero o (f (w.octet o)) w.octets }

def Group.bLatch (g : Group) (b : Bool) : Latch := if b then g.b1 else g.b0

def Group.setB (g : Group) (b : Bool) (l : Latch) : Group := if b then { g with b1 := l } else { g with b0 := l }

/-- T, the accumulator tiles of each octet; none when even T = 0 does not fit (R193). -/
def Group.tiles (g : Group) : Option Nat :=
  ((List.range 17).filter fun t => 56 + g.warps.length * (1 + 7 * (g.width / 8) * (t + 2)) ≤ g.accRows).getLast?

/-- Columns of a SHAPE (R192); a reserved one, which traps, touches at least what .c8 touches (R197; log 72). -/
def shapeN (shape : Nat) : Nat := if shape ≤ 2 then 8 * 2 ^ shape else 8

/-- Bytes of a latch row of a type (R199); of a type that no latch takes, which traps, 32 elements of its width (R197; log 89). -/
def latchBytes (ty : Nat) : Nat := 4 * elemWidth ty

/-- The types a latch takes (R199). -/
def latchType (ty : Nat) : Bool := [0, 4, 6, 7, 8, 9, 10, 13].contains ty

/-- Element k of a latch row under a type (R57). -/
def Latch.code (l : Latch) (ty r k : Nat) : Nat := leNat (l.rows.getD r []) / 2 ^ (elemWidth ty * k) % 2 ^ elemWidth ty

def Latch.codes (l : Latch) (ty r : Nat) : List Nat := (List.range 32).map (l.code ty r)

def Latch.vals (l : Latch) (ty r : Nat) : List Val := (l.codes ty r).map (elemVal false l.xv ty)

/-- Elements of w bits as bytes (R57). -/
def packCodes (w : Nat) (codes : List Nat) : List Byte := leBytes (w * codes.length / 8) (codes.foldr (fun c acc => c + 2 ^ w * acc) 0)

/-- The unit number of a bad row of the pool that some bytes of a latch lie in, 128 B of which are one latch row. -/
def Latch.badIn (l : Latch) (r bytes : Nat) : Option Nat :=
  (l.bad.find? fun b => overlaps (148 * b.1) 148 (128 * r) bytes).map (·.2)

/-- The unit number of the bad row that a latch's XV lies in, past its last row, for a row of it whose elements read XV (R193, R217). -/
def Latch.badXv (l : Latch) (ty r last : Nat) : Option Nat :=
  if ty == 8 && (l.codes ty r).contains 8 then (l.bad.find? (·.1 == last)).map (·.2) else none

/-- Rows of the pool lose their errors as they are written whole or in part. -/
def Latch.mend (l : Latch) (r bytes : Nat) : Latch := { l with bad := l.bad.filter fun b => !(overlaps (148 * b.1) 148 (128 * r) bytes) }

/-- Tile t, or the partial tile. -/
def Octet.tile (o : Octet) (t : Option Nat) : List (List Word) :=
  match t with
  | none => o.part
  | some t => o.tiles.getD t []

def Octet.word (o : Octet) (t : Option Nat) (r c : Nat) : Word := ((o.tile t).getD r []).getD c 0

/-- The pool row, counted from the partial tile's first, of a word of a tile. -/
def tileRow (t : Option Nat) (r c : Nat) : Nat :=
  7 * (match t with
    | none => 0
    | some t => t + 1) + (32 * r + c) / 37

def Octet.badAt (o : Octet) (t : Option Nat) (r c : Nat) : Option Nat := (o.bad.find? (·.1 == tileRow t r c)).map (·.2)

/-- Write the first words of a tile row. -/
def Octet.setRow (o : Octet) (t : Option Nat) (r : Nat) (ws : List Word) : Octet :=
  let row := (List.range 32).map fun c => ws.getD c (o.word t r c)
  let tile := setPad [] r row (o.tile t)
  let o' := match t with
    | none => { o with part := tile }
    | some k => { o with tiles := setPad [] k tile o.tiles }
  { o' with bad := o.bad.filter fun b => !((List.range ws.length).any fun c => b.1 == tileRow t r c) }

/-! ## Elements (R204 to R212) -/

/-- A word with the matrix-status bits its computing raised (R212) and the unit of a bad row it came from. -/
structure MRes where
  word : Word
  st : Word
  bad : Option Nat
deriving DecidableEq, Repr

/-- Status bits of an FP32 result's flags: IX, OF, IV. -/
def stOf (f : Byte) : Word :=
  (if f.getLsbD 4 || f.getLsbD 3 then 8 else 0) ||| (if f.getLsbD 2 then 4 else 0) ||| (if f.getLsbD 1 then 2 else 0)

/-- NA and IV of a K-block (R212): a NaN among the elements; a NaN that arises from none. -/
def blockSt (as bs : List Val) : Word :=
  let ps := products as bs
  let iv := ps.any (· == none) || (ps.any (· == some (.inf false)) && ps.any (· == some (.inf true)))
  (if as.any (· == .nan) || bs.any (· == .nan) then 1 else 0) ||| (if iv then 2 else 0)

/-- The exact sum of integer products (R72, R204). -/
def intSum (as bs : List Int) : Int := (List.zipWith (· * ·) as bs).foldl (· + ·) 0

/-- MMA's element (R204). -/
def mmaElem (ta tb : Nat) (part zero int : Bool) (acc : Word) (la lb : Latch) (r c : Nat) : MRes :=
  let as := la.vals ta r
  let bs := lb.vals tb c
  if int then
    let p := intSum ((la.codes ta r).map (elemInt ta)) ((lb.codes tb c).map (elemInt tb))
    ⟨(if zero then 0 else acc) + BitVec.ofInt 32 p, 0, none⟩
  else
    let p := blockSum (ta == 13 || tb == 13) as bs
    let st := stOf p.flags ||| blockSt as bs
    if part || zero then ⟨p.word, st, none⟩
    else
      let v := f32Add acc p.word
      ⟨v.word, st ||| stOf v.flags, none⟩

/-- MMAX's element (R205). -/
def mmaxElem (x3 zero int : Bool) (acc : Word) (la lb : Latch) (r c : Nat) : MRes :=
  let start := if zero then 0 else acc
  if int then ⟨i32Dot start ((la.codes 0 r).map (BitVec.ofNat 32)) ((lb.codes 0 c).map (BitVec.ofNat 32)), 0, none⟩
  else
    let as := la.vals 4 r
    let bs := lb.vals 4 c
    let v := f32Dot x3 start as bs
    ⟨v.word, stOf v.flags ||| (if as.all isFin && bs.all isFin then 0 else blockSt as bs), none⟩

/-- The conversion of MDR and MDRA (R210): the code, and the status bits. -/
def drainElem (ty ctl : Nat) (w : Word) : Nat × Word :=
  if ty == 0 || ty == 4 then (w.toNat, 0)
  else
    let x := convert 4 ty (BitVec.ofNat 2 ctl) (ctl / 4 % 2 == 1) false 0 w.toNat
    let na : Word := if f32Val w == .nan then 1 else 0
    (x.code, na ||| (if x.flags.getLsbD 4 || x.flags.getLsbD 3 then 8 else 0) ||| (if ty == 13 && x.flags.getLsbD 2 then 4 else 0) |||
      (if x.flags.getLsbD 1 then 2 else 0) ||| (if x.flags.getLsbD 5 then 16 else 0))

/-- What a word derived from a bad row holds (R217): the canonical NaN, or 0 for .i32 and bit copies. -/
def MRes.spoil (m : MRes) (int : Bool) (bad : Option Nat) : MRes :=
  match bad with
  | none => m
  | some u => ⟨if int then 0 else f32NaN, 0, some u⟩

def rowsOf (m : Byte) : List Nat := (List.range 8).filter fun r => m.getLsbD r

/-! ## Performing (R198, R214, R217) -/

/-- The machine under one operation: state, the operation's number, its scratch rows as they stood since issue, the warp; its group's latches come
from the state. -/
structure Perf where
  s : State
  id : Nat
  rows : List (Nat × List (List Byte))
  w : Warp
  st : Word
  bad : Option Nat
  badB : Option Nat
deriving Repr

/-- Compute one row of a tile in an octet. -/
def Perf.row (p : Perf) (o : Nat) (t : Option Nat) (r : Nat) (es : List MRes) : Perf :=
  { p with
      w := p.w.modOctet o fun k => k.setRow t r (es.map (·.word))
      st := es.foldl (fun m e => m ||| e.st) p.st
      bad := p.bad.or (es.findSome? (·.bad)) }

def Perf.octets (p : Perf) (os : List (Nat × Byte)) (f : Perf → Nat → Nat → Perf) : Perf :=
  os.foldl (fun p om => (rowsOf om.2).foldl (fun p r => f p om.1 r) p) p

/-- A multiply with its operands' bad rows as they are before it (R217): those of its B latch stand apart, since every warp of the group answers
them. -/
def Perf.multiply (p : Perf) (g : Group) (t : Option Nat) (n : Nat) (b : Bool) (keeps int : Bool) (ta tb : Nat)
    (os : List (Nat × Byte)) (f : Word → Latch → Latch → Nat → Nat → MRes) : Perf :=
  let lb := g.bLatch b
  let w0 := p.w
  let badB (c : Nat) : Option Nat := (lb.badIn c (latchBytes tb)).or (lb.badXv tb c 27)
  let p1 := p.octets os fun p o r =>
    let k := p.w.octet o
    p.row o t r ((List.range n).map fun c =>
      let own := (k.latch.badIn r (latchBytes ta)).or ((k.latch.badXv ta r 6).or (if keeps then (w0.octet o).badAt t r c else none))
      { (f (k.word t r c) k.latch lb r c).spoil int (own.or (badB c)) with bad := own })
  { p1 with badB := (List.range n).findSome? badB }

/-- Put drained codes of one row where they go. -/
def drainRow (k : Octet) (acc n ty ctl r : Nat) : List Nat × Word × Option Nat :=
  let es := (List.range n).map fun c =>
    match k.badAt (some acc) r c with
    | some u => (if ty == 0 || ty == 4 then ((0 : Nat), (0 : Word)) else drainElem ty ctl f32NaN, some u)
    | none => (drainElem ty ctl (k.word (some acc) r c), none)
  (es.map (·.1.1), es.foldl (fun m e => m ||| e.1.2) 0, es.findSome? (·.2))

/-- Row r of an operation's load, read from scratch: each word as it stood at issue, or after any write of it since (R215; log 22). A row without
an address fills with zero bits (R196). -/
def Perf.latchRow (p : Perf) (g : GroupKey) (ty r : Nat) (a : Option Nat) : List Byte :=
  match a with
  | some off =>
    let now := p.s.scratchSee g off (latchBytes ty)
    let past := now :: (tableGet off p.rows).getD []
    (List.range now.length).map fun i =>
      (past.getD ((Config.freeWord (2 ^ 64 * (p.id + 1) + 2 ^ 32 * (r + 1) + i / 4)).toNat % past.length) now).getD i 0
  | none => List.replicate (latchBytes ty) 0

/-- A latch takes the XV of a warp's configuration row with it; of a bad row, the canonical NaN (R203, R217). -/
def Perf.capture (p : Perf) (ty : Nat) (b : Bool) (l : Latch) : Latch × Perf :=
  if ty != 8 then (l, p)
  else
    match p.w.cfgBad with
    | some u => ({ l with xv := 0x7FC0 }, { p with bad := p.bad.or (some u) })
    | none => ({ l with xv := if b then p.w.xvb else p.w.xva }, p)

/-- An octet's A latch is written whole. -/
def Perf.fillA (p : Perf) (o ty : Nat) (rows : List (List Byte)) : Perf :=
  let (l, q) := p.capture ty false (p.w.octet o).latch
  { q with w := q.w.modOctet o fun k => { k with latch := { l with rows := rows, bad := [] } } }

/-- Multiply-accumulates of an operation (R396). -/
def MatKind.macs : MatKind → Nat
  | .mma _ n _ _ _ _ _ _ octs => octs.length * 8 * n * 32
  | .mmax _ n _ x3 _ int octs => octs.length * 8 * n * 32 * (if int then 10 else if x3 then 3 else 6)
  | _ => 0

/-- Perform one operation of a warp. -/
def Perf.run (p : Perf) (g : Group) (k : MatKind) : Perf :=
  match k with
  | .loadA ty octs => octs.foldl (fun p orows => p.fillA orows.1 ty (mapIdxList (fun r => p.latchRow g.key ty (8 * orows.1 + r)) orows.2)) p
  | .loadB b ty rows =>
    let (l0, q) := p.capture ty true (g.bLatch b)
    let l1 := (List.range rows.length).foldl (fun (l : Latch) c =>
      let bytes := p.latchRow g.key ty c (rows[c]?)
      { l.mend c bytes.length with rows := setPad [] c bytes l.rows }) l0
    { q with s := q.s.modGroup g.key fun g => g.setB b l1 }
  | .mma acc n ta tb b part zero int octs =>
    p.multiply g (if part then none else some acc) n b (!part && !zero) int ta tb octs fun a la lb r c => mmaElem ta tb part zero int a la lb r c
  | .mmax acc n b x3 zero int octs =>
    p.multiply g (some acc) n b (!zero) int 0 0 octs fun a la lb r c => mmaxElem x3 zero int a la lb r c
  | .mz acc part all octs =>
    let ts := (if all then (List.range (g.tiles.getD 0)).map some else [some acc]) ++ (if part then [none] else [])
    ts.foldl (fun p t => p.octets octs fun p o r => { p with w := p.w.modOctet o fun k => k.setRow t r (List.replicate 32 0) }) p
  | .mdr acc n ty ctl octs =>
    octs.foldl (fun p (orows : Nat × List (Option Nat)) => (List.range 8).foldl (fun p r =>
      match orows.2.getD r none with
      | none => p
      | some off =>
        let d := drainRow (p.w.octet orows.1) acc n ty ctl r
        { p with s := p.s.scratchWrite g.key off (packCodes (elemWidth ty) d.1), st := p.st ||| d.2.1, bad := p.bad.or d.2.2 }) p) p
  | .mdra acc n ty ctl octs =>
    octs.foldl (fun p om =>
      let k := p.w.octet om.1
      let ds := (List.range 8).map fun r => if om.2.getLsbD r then some (drainRow k acc n ty ctl r) else none
      let bytes (d : Option (List Nat × Word × Option Nat)) : List Byte :=
        match d with
        | some d => packCodes (elemWidth ty) (d.1 ++ List.replicate (32 - n) 0)
        | none => List.replicate (latchBytes ty) 0
      let q := p.fillA om.1 ty (ds.map bytes)
      { q with
          st := ds.foldl (fun m d => m ||| ((d.map (·.2.1)).getD 0)) q.st
          bad := q.bad.or (ds.findSome? fun d => d.bind (·.2.2)) }) p
  | .msca acc n octs =>
    let w0 := p.w
    octs.foldl (fun p (om : Nat × Byte × List Nat × List Nat) => (rowsOf om.2.1).foldl (fun p r =>
      let k := p.w.octet om.1
      p.row om.1 (some acc) r ((List.range n).map fun c =>
        let sa := om.2.2.1.getD r 0 % 256
        let sb := om.2.2.2.getD (c / 4) 0 / 2 ^ (8 * (c % 4)) % 256
        let v := mscaAcc (k.word (some acc) r c) (k.word none r c) sa sb
        (⟨v.word, stOf v.flags ||| (if sa == 255 || sb == 255 then 1 else 0), none⟩ : MRes).spoil false
          (((w0.octet om.1).badAt (some acc) r c).or ((w0.octet om.1).badAt none r c)))) p) p
  | .mcfg a b => { p with w := { p.w with
      xva := a.getD p.w.xva, xvb := b.getD p.w.xvb, cfgBad := if a.isSome && b.isSome then none else p.w.cfgBad } }

/-- The latch that a multiply reads. -/
def MatKind.bOf : MatKind → Option Bool
  | .mma _ _ _ _ b _ _ _ _ => some b
  | .mmax _ _ b _ _ _ _ => some b
  | _ => none

/-- It reads or writes scratch. -/
def MatKind.usesPool : MatKind → Bool
  | .loadA .. | .loadB .. | .mdr .. => true
  | _ => false

/-- What a warp's operation does to its group; one whose group has left its core (R326) has nothing left to change. -/
def State.performOp (s : State) (m : MatOp) : State :=
  match (s.group? m.w.group).bind fun g => (g.warp? m.w).map fun w => (g, w) with
  | none => s
  | some (g, w) =>
    let p := (⟨s, m.id, m.rows, w, 0, none, none⟩ : Perf).run g m.kind
    let w1 := { p.w with mstatus := p.w.mstatus ||| p.st, machineCheck := p.w.machineCheck.or p.bad }
    let s0 := (p.s.modWarp m.w fun _ => w1).coreSome g.die g.core 3 g.dom
    let s1 := if m.kind.usesPool then s0.somePasses g.die g.core g.dom else s0
    match p.badB, m.kind.bOf with
    | some u, some b => s1.modGroup g.key fun g => { g with warps := g.warps.map fun (v : Warp) => { v with latchCheck := if v.latchCheck.contains (b, u) then v.latchCheck else v.latchCheck ++ [(b, u)] } }
    | _, _ => s1

/-- MATRIX_OP_COMPLETE (R198, R214, R216, R217): the oldest operation of a warp is performed, indivisibly, and charged (R396). -/
def execMatrixOpComplete (op : Nat) (s : State) : Host.Outcome State Fault Refusal :=
  match s.matOps.find? (·.id == op) with
  | none => .next s
  | some m =>
    if ((s.matOps.find? (·.w == m.w)).map (·.id)) != some op then .next s
    else
      let s1 := (s.performOp m).charge m.dom 1 m.kind.macs
      .next { s1 with matOps := s1.matOps.filter (·.id != op) }

/-! ## Issue (R195 to R198) -/

/-- The scratch rows that an operation reads: offset and length (R215). -/
def MatKind.reads : MatKind → List (Nat × Nat)
  | .loadA ty octs => (octs.flatMap fun o => o.2.filterMap id).map fun off => (off, latchBytes ty)
  | .loadB _ ty rows => rows.map fun off => (off, latchBytes ty)
  | _ => []

/-- Row lanes of octet o that execute. -/
def Ctx.rowMask (c : Ctx) (h : Hdr) (o : Nat) : Byte := ((c.exec h) >>> (8 * o)).setWidth 8

/-- Octets with an executing lane. -/
def Ctx.acting (c : Ctx) (h : Hdr) : List (Nat × Byte) :=
  ((List.range (c.warp.width / 8)).map fun o => (o, c.rowMask h o)).filter (·.2 != 0)

/-- The gang does not hold every slice with a live lane (R196). -/
def Ctx.parted (c : Ctx) : Bool :=
  (List.range c.st.slices.length).any fun i => (c.st.slice i).live != 0 && !(c.slices.contains i)

/-- A 0x21 of the instruction's own rule, at the lowest slice. -/
def Ctx.ruleBad (c : Ctx) (ok : Bool) : List Bad := if ok then [] else [⟨0x21, 0, 4 * c.slices.headD 0, 0xFF, 0⟩]

/-- The checks of R197 on one row of scratch: 0x13, then 0x14. -/
def Ctx.rowBad (c : Ctx) (lane : Nat) (base : Word) (off bytes : Nat) : List Bad :=
  let slot := base.toNat / 2 ^ 24
  (if off % 4 == 0 then [] else [⟨0x13, 4, lane, 0xFF, 0⟩]) ++
  (if (slot == 0xFF || slot == c.grp.slot) && off + bytes ≤ c.grp.scBytes then [] else [⟨0x14, slot, lane, 0xFF, 0⟩])

/-- Offset of row r at a stride in words, computed exactly. -/
def rowOff (base : Word) (r stride : Nat) : Nat := base.toNat % 2 ^ 24 + r * stride * 4

/-- A pending machine check of the warp, or of a latch the instruction names (R217). -/
def Ctx.machine (c : Ctx) (b : Option Bool) : Option (MatCheck × Nat) :=
  (c.warp.machineCheck.map fun u => (.warp, u)).or ((c.warp.latchCheck.find? fun k => some k.1 == b).map fun k => (.latch k.1, k.2))

/-- Cause 0x01 for it. -/
def Ctx.trapCheck (c : Ctx) (s : State) (k : MatCheck × Nat) : Host.Outcome State Fault Refusal :=
  .next (c.raise s { c.cause 0x01 k.2 with check := some k.1 })

/-- SHAPE 3 to 7 (R192, R197). -/
def Ctx.shapeBad (c : Ctx) (x : FormX) : List Bad := c.ruleBad (x.shape.toNat ≤ 2)

/-- What an instruction asks of the array: its failures, the operation unless nothing acts, and the types recorded at issue. -/
structure MatAsk where
  bad : List Bad
  op : Option MatKind
  warp : Warp
  grp : Group → Group

/-- Issue a matrix instruction that queues an operation. The spec gives no order among a parted warp's 0x20, a pending machine check and the checks
of R197; here it is that one (log 90). -/
def matIssue (op : Nat) (b : Option Bool) (codes : List (BitVec 7)) (h : Hdr) (s : State) (ask : Ctx → (Nat → List Word) → MatAsk) :
    Host.Outcome State Fault Refusal :=
  withCtx s fun c =>
    c.gated s (c.lqGate (lqNeed codes)) <|
      if c.parted then c.trap s 0x20 op
      else
        match c.machine b with
        | some k => c.trapCheck s k
        | none =>
          let a := ask c (c.reads 0 codes)
          match worstBad (c.ruleBad c.grp.tiles.isSome ++ a.bad) with
          | some x => c.trapBad s 0xFF x
          | none =>
            match a.op with
            | none => c.done h s (c.popLq (lqPops codes) c.warp)
            | some k =>
              if Config.maxMatrixOps ≤ (s.matOps.filter (·.w == c.iss.w)).length then .next s
              else
                let m : MatOp := ⟨s.nextId, c.iss.w, k, none, c.grp.dom, k.reads.map fun r => (r.1, [s.scratchSee c.grp.key r.1 r.2])⟩
                c.done h ({ s with matOps := s.matOps ++ [m] }.modGroup c.grp.key a.grp).bumpId (c.popLq (lqPops codes) a.warp)

/-- An octet's addresses, row by row, for the row lanes that execute. -/
def octetRows (m : Byte) (f : Nat → Nat) : List (Option Nat) := (List.range 8).map fun r => if m.getLsbD r then some (f r) else none

/-- The lowest executing lane of an octet. -/
def leadLane (om : Nat × Byte) : Nat := 8 * om.1 + (rowsOf om.2).headD 0

def Warp.recordA (w : Warp) (os : List (Nat × Byte)) (ty : Nat) : Warp :=
  os.foldl (fun w om => w.modOctet om.1 fun k => { k with latch := { k.latch with ty := some ty } }) w

/-- The rows of a latch or drain instruction with what is wrong with them. -/
def Ctx.rowsFor (c : Ctx) (os : List (Nat × Byte)) (bytes : Nat) (base : Nat → Word) (off : Nat → Nat → Nat) :
    List (Nat × List (Option Nat)) × List Bad :=
  (os.map fun om => (om.1, octetRows om.2 (off (leadLane om))),
   os.flatMap fun om => (rowsOf om.2).flatMap fun r => c.rowBad (8 * om.1 + r) (base (leadLane om)) (off (leadLane om) r) bytes)

/-- MGA and MLA (R200): row offsets from the lead lane and the row lane. -/
def loadLatch (op : Nat) (codes : List (BitVec 7)) (x : FormX) (h : Hdr) (s : State) (off : (Nat → List Word) → Nat → Nat → Nat → Nat) :
    Host.Outcome State Fault Refusal :=
  matIssue op none codes h s fun c rd =>
    let ty := x.ta.toNat
    let os := c.acting h
    let rows := os.map fun om => (om.1, octetRows om.2 fun r => off rd (leadLane om) (8 * om.1 + r) r)
    let bad := os.flatMap fun om => (rowsOf om.2).flatMap fun r =>
      c.rowBad (8 * om.1 + r) (src (rd (leadLane om)) 0) (off rd (leadLane om) (8 * om.1 + r) r) (latchBytes ty)
    ⟨bad ++ c.ruleBad (latchType ty), if os.isEmpty then none else some (.loadA ty rows), c.warp.recordA os ty, id⟩

/-- MLA (R200). -/
def execMla (h : Hdr) (x : FormX) (s : State) : Host.Outcome State Fault Refusal :=
  loadLatch 0x181 [x.sa, x.sb] x h s fun rd lead _ r => rowOff (src (rd lead) 0) r (src (rd lead) 1).toNat

/-- MGA (R200): the row index comes from the row lane. -/
def execMga (h : Hdr) (x : FormX) (s : State) : Host.Outcome State Fault Refusal :=
  loadLatch 0x180 [x.sa, x.sb, x.sc] x h s fun rd lead lane _ => rowOff (src (rd lead) 0) (src (rd lane) 1).toNat (src (rd lead) 2).toNat

/-- MLB (R202). -/
def execMlb (h : Hdr) (x : FormX) (s : State) : Host.Outcome State Fault Refusal :=
  let b := x.imm8.getLsbD 0
  matIssue 0x182 (some b) [x.sa, x.sb] h s fun c rd =>
    let ty := x.tb.toNat
    let fields := c.ruleBad (latchType ty && x.imm8.toNat < 2) ++ c.shapeBad x
    match c.firstLane? h with
    | none => ⟨fields, none, c.warp, id⟩
    | some l =>
      let base := src (rd l) 0
      let rows := (List.range (shapeN x.shape.toNat)).map fun r => rowOff base r (src (rd l) 1).toNat
      ⟨(rows.flatMap fun off => c.rowBad l base off (latchBytes ty)) ++ fields, some (.loadB b ty rows), c.warp,
       fun g => g.setB b { g.bLatch b with ty := some ty }⟩

/-- A tile named by an instruction lies below T (R193). -/
def Ctx.tileBad (c : Ctx) (x : FormX) : List Bad := c.ruleBad (x.acc.toNat < c.grp.tiles.getD 0)

/-- The tile bound (R193), the shape and the types recorded (R197) of a multiply. -/
def Ctx.multiplyBad (c : Ctx) (x : FormX) (os : List (Nat × Byte)) : List Bad :=
  let b := x.imm8.getLsbD 0
  c.tileBad x ++ c.shapeBad x ++
  (if os.isEmpty then []
   else c.ruleBad ((c.grp.bLatch b).ty == some x.tb.toNat) ++
     os.flatMap fun om => if (c.warp.octet om.1).latch.ty == some x.ta.toNat then [] else [⟨0x21, 0, leadLane om, 0xFF, 0⟩])

/-- MMA (R204). -/
def execMma (h : Hdr) (x : FormX) (s : State) : Host.Outcome State Fault Refusal :=
  let b := x.imm8.getLsbD 0
  matIssue 0x183 (some b) [] h s fun c _ =>
    let os := c.acting h
    let part := x.ctl.getLsbD 0
    ⟨c.multiplyBad x os, if os.isEmpty then none
      else some (.mma x.acc.toNat (shapeN x.shape.toNat) x.ta.toNat x.tb.toNat b part (x.ctl.getLsbD 1) (x.ctl.getLsbD 2) os), c.warp, id⟩

/-- MMAX (R205). -/
def execMmax (h : Hdr) (x : FormX) (s : State) : Host.Outcome State Fault Refusal :=
  let b := x.imm8.getLsbD 0
  matIssue 0x184 (some b) [] h s fun c _ =>
    let os := c.acting h
    ⟨c.multiplyBad x os, if os.isEmpty then none
      else some (.mmax x.acc.toNat (shapeN x.shape.toNat) b (x.ctl.getLsbD 0) (x.ctl.getLsbD 1) (x.ta == 0) os), c.warp, id⟩

/-- MZ (R209). -/
def execMz (h : Hdr) (x : FormX) (s : State) : Host.Outcome State Fault Refusal :=
  matIssue 0x185 none [] h s fun c _ =>
    let os := c.acting h
    let all := x.ctl.getLsbD 1
    ⟨c.tileBad x, if os.isEmpty then none else some (.mz x.acc.toNat (x.ctl.getLsbD 0) all os), c.warp, id⟩

/-- MDR (R210): of a type that it refuses, a row is N elements of that type's width (R197; log 89). -/
def execMdr (h : Hdr) (x : FormX) (s : State) : Host.Outcome State Fault Refusal :=
  matIssue 0x186 none [x.sa, x.sb] h s fun c rd =>
    let os := c.acting h
    let n := shapeN x.shape.toNat
    let ty := x.ta.toNat
    let r := c.rowsFor os (n * elemWidth ty / 8) (fun l => src (rd l) 0) fun l r => rowOff (src (rd l) 0) r (src (rd l) 1).toNat
    ⟨r.2 ++ c.tileBad x ++ c.shapeBad x ++ c.ruleBad (drainOk x), if os.isEmpty then none else some (.mdr x.acc.toNat n ty x.ctl.toNat r.1), c.warp, id⟩

/-- MDRA (R211). -/
def execMdra (h : Hdr) (x : FormX) (s : State) : Host.Outcome State Fault Refusal :=
  matIssue 0x187 none [] h s fun c _ =>
    let os := c.acting h
    let ty := x.ta.toNat
    ⟨c.tileBad x ++ c.shapeBad x, if os.isEmpty then none else some (.mdra x.acc.toNat (shapeN x.shape.toNat) ty x.ctl.toNat os), c.warp.recordA os ty, id⟩

/-- MSCA (R208): the column scales of every row lane, whether or not it executes. -/
def execMsca (h : Hdr) (x : FormX) (s : State) : Host.Outcome State Fault Refusal :=
  matIssue 0x188 none [x.sa, x.sb] h s fun c rd =>
    let os := c.acting h
    let scales (o k : Nat) : List Nat := (List.range 8).map fun r => (src (rd (8 * o + r)) k).toNat
    ⟨c.tileBad x ++ c.shapeBad x, if os.isEmpty then none
      else some (.msca x.acc.toNat (shapeN x.shape.toNat) (os.map fun om => (om.1, om.2, scales om.1 0, scales om.1 1))), c.warp, id⟩

/-- MCFG (R203). -/
def execMcfg (h : Hdr) (x : FormX) (s : State) : Host.Outcome State Fault Refusal :=
  matIssue 0x18B none [x.sa, x.sb] h s fun c rd =>
    let half (l k : Nat) : Half := (src (rd l) k).setWidth 16
    ⟨[], (c.firstLane? h).map fun l =>
      .mcfg (if x.ctl.getLsbD 0 then some (half l 0) else none) (if x.ctl.getLsbD 1 then some (half l 1) else none), c.warp, id⟩

/-! ## Batches (R213) -/

/-- MFENCE and MWAIT: the checks they share, then a wait that is not outstanding. -/
def batch (op : Nat) (h : Hdr) (s : State) (busy : Ctx → MatOp → Bool) (after : Ctx → State) : Host.Outcome State Fault Refusal :=
  withCtx s fun c =>
    if c.parted then c.trap s 0x20 op
    else
      match c.machine none with
      | some k => c.trapCheck s k
      | none =>
        if c.grp.tiles.isNone then c.trap s 0x21 0
        else if s.matOps.any fun m => m.w == c.iss.w && busy c m then .next s
        else c.done h (after c) c.warp

/-- MFENCE (R213). -/
def execMfence (h : Hdr) (x : FormX) (s : State) : Host.Outcome State Fault Refusal :=
  let n := x.imm8.toNat
  batch 0x189 h s (fun _ m => m.slot == some n) fun c =>
    { s with matOps := s.matOps.map fun m => if m.w == c.iss.w && m.slot.isNone then { m with slot := some n } else m }

/-- MWAIT (R213). -/
def execMwait (h : Hdr) (x : FormX) (s : State) : Host.Outcome State Fault Refusal :=
  batch 0x18A h s (fun _ m => x.ctl.getLsbD 0 || m.slot == some x.imm8.toNat) fun _ => s

end Sys2Proof.Machine
end

