-- ==== Sys2Proof/Machine/FrontEnd.lean ====
section
/-! DEFINITION. Sys2Proof/Machine/FrontEnd.lean: which warp a strand front end issues next (R338). -/

namespace Sys2Proof.Machine

/-- What an instruction that may wait before it issues (R150) does now; none for the others, which only a coupling queue holds up. -/
def waitingRow (i : Instr) (s : State) : Option (Host.Outcome State Fault Refusal) :=
  match i with
  | .ld h m => some (execLd h m s)
  | .lds h m => some (execLds h m s)
  | .ldx h m => some (execLdx h m s)
  | .ldc h m => some (execLdc h m s)
  | .st h m => some (execSt h m s)
  | .sts h m => some (execSts h m s)
  | .stx h m => some (execStx h m s)
  | .ldLq h m => some (execLdLq h m s)
  | .ldsLq h m => some (execLdsLq h m s)
  | .ldxLq h m => some (execLdxLq h m s)
  | .ldcLq h m => some (execLdcLq h m s)
  | .stSq h m => some (execStSq h m s)
  | .stsSq h m => some (execStsSq h m s)
  | .stxSq h m => some (execStxSq h m s)
  | .atom h m => some (execAtom h m s)
  | .red h m => some (execRed h m s)
  | .mred h m => some (execMred h m s)
  | .fence h m => some (execFence h m s)
  | .rfence h m => some (execRfence h m s)
  | .drain h m => some (execDrain h m s)
  | .cwb h m => some (execCwb h m s)
  | .cinv h m => some (execCinv h m s)
  | .copy h m => some (execCopy h m s)
  | .copyg h m => some (execCopyg h m s)
  | .copys h m => some (execCopys h m s)
  | .publish h m => some (execPublish h m s)
  | .cpstat h m => some (execCpstat h m s)
  | .mga h x => some (execMga h x s)
  | .mla h x => some (execMla h x s)
  | .mlb h x => some (execMlb h x s)
  | .mma h x => some (execMma h x s)
  | .mmax h x => some (execMmax h x s)
  | .mz h x => some (execMz h x s)
  | .mdr h x => some (execMdr h x s)
  | .mdra h x => some (execMdra h x s)
  | .msca h x => some (execMsca h x s)
  | .mfence h x => some (execMfence h x s)
  | .mwait h x => some (execMwait h x s)
  | .mcfg h x => some (execMcfg h x s)
  | .route h e => some (execRoute h e s)
  | .rtake h e => some (execRtake h e s)
  | .rret h e => some (execRret h e s)
  | .rclosePort h e => some (execRclosePort h e s)
  | .rstat h e => some (execRstat h e s)
  | .epop h e => some (execEpop h e s)
  | .bar h e => some (execBar h e s)
  | .cbar h e => some (execCbar h e s)
  | .abar h e => some (execAbar h e s)
  | .await h e => some (execAwait h e s)
  | .ared h e => some (execAred h e s)
  | .signalHold h e => some (execSignalHold h e s)
  | .sys h e => some (execSys h e s)
  | .brx h b => some (execBrx h b s)
  | .callx h b => some (execCallx h b s)
  | .ret h b => some (execRet h b s)
  | .exit h b => some (execExit h b s)
  | .rett h e => some (execRett h e s)
  | _ => none

/-- An attempt has done something: its instruction has issued or raised a cause, its checks wait for walks, or PUBLISH has asked for its flip. -/
def State.moved (s t : State) (i : Issuer) : Bool :=
  match s.warp? i.w, t.warp? i.w with
  | some a, some b =>
    let x := a.strand i.strand
    let y := b.strand i.strand
    a.past.length != b.past.length || a.pending.length != b.pending.length || (!x.midway && y.midway) || x.publish != y.publish
  | _, _ => true

/-- A gang is issuable (R338): it may issue, nothing that it was found to wait for in the coupling queues or in EPOP still holds it up, and its
next instruction does not wait before issue. -/
def State.issuable (s : State) (i : Issuer) : Bool :=
  match s.warp? i.w with
  | none => false
  | some w =>
    let t := w.strand i.strand
    s.mayIssue i && (gangSlices t i.gang).all (fun k => (w.waitsFor t k).isNone) &&
      (match s.issue i with
       | .idle s' => s.moved s' i
       | .run j s' =>
         match waitingRow j s' with
         | some (.next s'') => s.moved s'' i
         | _ => true)

/-- Some gang of a strand of a warp is issuable. -/
def State.warpIssuable (s : State) (k : WarpKey) (st : Strand) : Bool :=
  (List.range (((s.warp? k).map (·.width)).getD 0 / 4)).any fun i => s.issuable ⟨k, st, i⟩

/-- Keys before the first k of a round that starts after last, or at the first key when last has left the round (log 78). -/
def roundBefore (last : Option WarpKey) (k : WarpKey) (ws : List WarpKey) : List WarpKey :=
  let n := match last.bind fun x => ws.findIdx? (· == x) with
    | some i => i + 1
    | none => 0
  (ws.drop n ++ ws.take n).takeWhile (· != k)

/-- The warps of a core's active set, in the order of a round. -/
def State.round (s : State) (k : CoreSt) : List WarpKey := (k.active.filterMap s.group?).flatMap fun g => g.warps.map (·.key)

/-- The front end of a strand is free, and no other warp that is issuable stands before this one in its round (R338). -/
def State.picks (s : State) (i : Issuer) : Bool :=
  match s.group? i.w.group with
  | none => false
  | some g =>
    let k := s.core g.die g.core
    let (busy, last) := match i.strand with
      | .c => (k.feUntil, k.lastC)
      | .a => (k.aUntil, k.lastA)
    busy ≤ s.now && !((roundBefore last i.w (s.round k)).any fun w => s.warpIssuable w i.strand)

end Sys2Proof.Machine
end

