-- ==== Sys2Proof/Machine/Traps.lean ====
section
/-! DEFINITION. Sys2Proof/Machine/Traps.lean: causes as events (R348 to R354), swaps and time slices (R337 to R341), eviction and restoration
(R364 to R367), and what RESUME, ABORT and HALT do (R363). -/

namespace Sys2Proof.Machine

/-! ## Causes -/

/-- A warp of a placed group. -/
def State.placed? (s : State) (k : WarpKey) : Option (Group × Warp) := (s.group? k.group).bind fun g => (g.warp? k).map fun w => (g, w)

/-- CAUSE_TAKEN (R350, R351): the lowest pending cause of a warp is taken once its results are in. -/
def execCauseTaken (w : WarpKey) (s : State) : Host.Outcome State Fault Refusal :=
  match s.placed? w with
  | none => .next s
  | some (g, k) =>
    if k.gone then .next s
    else
      match s.takeCause g k with
      | some s1 => .next s1
      | none => .next s

/-! ## The active set (R337 to R339) -/

/-- No warp of a group is issuable (R338). -/
def State.groupIdle (s : State) (g : Group) : Bool :=
  g.warps.all fun w => [Strand.c, Strand.a].all fun st => !(s.warpIssuable w.key st)

/-- A strand parks on S with a long result outstanding, or sleeps (R82, R258). -/
def Warp.parks (w : Warp) : Bool :=
  [Strand.c, Strand.a].any fun st => (w.strand st).sleepEnd.isSome || ((w.strand st).parked && w.longs.any (·.strand == st))

/-- Forget a time slice's end. -/
def Group.clearSlice (g : Group) : Group :=
  { g with warps := g.warps.map fun w => { w with asyncs := w.asyncs.filter (· != 0x51) } }

/-- GROUP_SWAP (R339, first case): an active group one of whose warps parks or sleeps and none of whose warps is issuable is swapped out,
while the pending set holds a group; else, the head of the pending set enters an active set with room (R337). -/
def execGroupSwap (die core : Nat) (s : State) : Host.Outcome State Fault Refusal :=
  let c := s.core die core
  if c.pending.isEmpty then .next s
  else if c.active.length < 8 then .next (s.letIn die core)
  else
    match (c.active.filterMap s.group?).find? fun g => g.warps.any Warp.parks && s.groupIdle g with
    | some g => .next ((s.modGroup g.key Group.clearSlice).swapOut g.key)
    | none => .next s

/-- TIME_SLICE_EXPIRY (R339, second case): 0x51 is raised in the group's warps; the part consumes it as they take it. -/
def execTimeSliceExpiry (g : GroupKey) (s : State) : Host.Outcome State Fault Refusal :=
  match s.group? g with
  | none => .next s
  | some k =>
    let due := k.active && s.sliceUnits != 0 && k.entered + 1024 * s.sliceUnits ≤ s.now && !(s.core k.die k.core).pending.isEmpty
    if !due then .next s
    else if k.warps.all fun w => w.gone || w.evicted then .next (s.swapOut g)
    else
      .next (s.modGroup g fun k => { k with warps := k.warps.map fun w =>
        if w.gone || w.evicted || w.asyncs.contains 0x51 then w else { w with asyncs := w.asyncs ++ [0x51] } })

/-! ## Pre-emption (R341) -/

/-- A warp that the Crown may name (R248, R358, R364). -/
def Warp.evictable (w : Warp) : Bool :=
  !w.handler && !w.evicted && !w.evictNamed && !w.gone && !w.bothPhase && !(w.asyncs.contains 0x50)

/-- Held on a record, or parked. -/
def Warp.onRecord (w : Warp) : Bool := w.held || w.parkedFor

/-- Warps of a core in the order in which the Crown names them (R341, R362): of groups below a priority, the lowest priority first; held warps
first among equals, and of either those of the group placed last. -/
def State.evictOrder (s : State) (die core prio : Nat) : List WarpKey :=
  let gs := (s.groupsOn die core).filter fun g => g.prio < prio
  (List.range prio).flatMap fun p =>
    let low := gs.filter (·.prio == p)
    let keys (f : Warp → Bool) (g : Group) : List WarpKey := (g.warps.filter fun w => w.evictable && f w).map (·.key)
    let late := low.foldr (fun g acc => (acc.takeWhile fun k => g.placedAt < k.placedAt) ++ g :: acc.dropWhile fun k => g.placedAt < k.placedAt) []
    late.flatMap (keys Warp.onRecord) ++ late.flatMap (keys fun w => !w.onRecord)

/-- Warps that have been named, or have left their rows. -/
def Warp.leaving (w : Warp) : Bool := w.evictNamed || w.evicted || w.asyncs.contains 0x50

/-- Rows of a core that are free, or will be once the warps already named and those of a list have left: a group none of whose warps stays gives
back all it holds, unless it has an open window (R233, R365). -/
def State.freeAfter (s : State) (die core : Nat) (ks : List WarpKey) : Nat :=
  s.coreFree die core + ((s.groupsOn die core).map fun g =>
    let goes (w : Warp) : Bool := w.leaving || ks.contains w.key
    if g.warps.any goes && g.warps.all (fun w => goes w || w.gone) && !(s.openWindow g) then g.held
    else (g.warps.countP fun w => goes w && !w.evicted) * rowsPerWarp g.width).sum

/-- The warps that a core must give up for a need, and the rows that come free with them; none when even all do not do. -/
def State.evictPlan (s : State) (die core prio need : Nat) : Option (List WarpKey × Nat) :=
  if (s.groupsOn die core).isEmpty then (if need ≤ Config.poolRows then some ([], 0) else none) else
  let order := s.evictOrder die core prio
  ((List.range (order.length + 1)).find? fun n => need ≤ s.freeAfter die core (order.take n)).map fun n =>
    (order.take n, s.freeAfter die core (order.take n) - s.freeAfter die core [])

/-- A core that could be cleared: what its warps would give up, and how many rows that is. -/
abbrev Clearing := Nat × List WarpKey × Nat

def insertClearing (x : Clearing) : List Clearing → List Clearing
  | [] => [x]
  | y :: ys => if x.2.2 ≤ y.2.2 then x :: y :: ys else y :: insertClearing x ys

/-- Rows that go with some cores. -/
def rowsGone (xs : List Clearing) : Nat := (xs.map (·.2.2)).sum

/-- The cheapest sets of cores by how many clusters they take, at most four, and how many cores they are: one more cluster, cheapest core first,
may give its first few. -/
def withCluster (n : Nat) (row : List Clearing) (best : List ((Nat × Nat) × List Clearing)) : List ((Nat × Nat) × List Clearing) :=
  (best.flatMap fun b => if b.1.1 < 4 then
      ((List.range row.length).filter fun j => b.1.2 + j + 1 ≤ n).map fun j => ((b.1.1 + 1, b.1.2 + j + 1), b.2 ++ row.take (j + 1))
    else []).foldl (fun (acc : List ((Nat × Nat) × List Clearing)) x =>
      if acc.any fun y => y.1 == x.1 && rowsGone y.2 ≤ rowsGone x.2 then acc else x :: acc.filter (·.1 != x.1)) best

/-- Cores of a die for n groups, those that need the fewest rows evicted (R341), on at most four clusters (R329). -/
def State.evictCores (s : State) (die prio need n : Nat) : List Clearing :=
  let all := (List.range Config.coresPerDie).filterMap fun c => (s.evictPlan die c prio need).map fun p => (c, p)
  let row (u : Nat) : List Clearing := (all.filter fun x => x.1 / 24 == u).foldr insertClearing []
  let best := (List.range 92).foldl (fun b u => withCluster n (row u) b) [((0, 0), [])]
  ((argMin (fun b => rowsGone b.2) (best.filter fun b => b.1.2 == n)).map (·.2)).getD []

/-- Where room is made for a piece of work: the die on which the fewest rows must go, and its cores. -/
def State.evictFor (s : State) (w : Work) : Option (Nat × List Clearing) :=
  let n := w.members.length
  let plans := (s.candidates w.launch).filterMap fun d =>
    let cs := s.evictCores d w.launch.prio w.launch.need n
    if cs.isEmpty then none else some (d, cs)
  argMin (fun x => rowsGone x.2) plans

/-- PREEMPTION_REQUEST (R341): 0x50 for the next warp to go on a core where room is made for work that no candidate die has room for. -/
def execPreemptionRequest (die core : Nat) (w : WarpKey) (s : State) : Host.Outcome State Fault Refusal :=
  let calls := s.works.any fun x => (s.dieFor x).isNone && (match s.evictFor x with
    | some (d, cs) => d == die && cs.any fun c => c.1 == core && c.2.1.head? == some w
    | none => false)
  if calls then .next (s.modWarp w fun k => { k with asyncs := k.asyncs ++ [0x50] }) else .next s

/-! ## Eviction (R364, R365) -/

/-- Rows i to i + n − 1 of a row map are no longer backed. -/
def dropRows (lo n : Nat) (rows : List (Option Nat)) : List (Option Nat) :=
  mapIdxList (fun i r => if covers lo n i then none else r) rows

def Warp.rfFirst (w : Warp) : Nat := w.key.warp * rowsPerWarp w.width

/-- An evicted warp as it stands in its context block. -/
def State.evictWarp (s : State) (g : Group) (w : Warp) : State :=
  let w1 : Warp := { w with
    evicted := true
    evictNamed := false
    asyncs := w.asyncs.filter fun c => c != 0x50 && c != 0x51
    clkHi := 0
    perfHi := 0
    stuckSince := none
    pending := []
    saved := if w.onRecord then w.saved else some (w.keep 0 none (w.pending.filter (·.done)) s.nextId)
    c := { w.c with slices := w.c.slices.map Slice.stop, stopped := true, sleepEnd := none }
    a := { w.a with slices := w.a.slices.map Slice.stop, stopped := true, sleepEnd := none } }
  let s1 := if w.onRecord then
      (s.vStore (g.die, g.core) g.dom (w.ctx + 5) [6]).faultHeld g.dom (w.record.getD 0) 1
    else s.saveContext g w 4 noRecord
  (s1.modWarp w.key fun _ => w1).modGroup g.key fun k => { k with rowMap := dropRows w.rfFirst (rowsPerWarp w.width) k.rowMap }

/-- WARP_EVICT (R364): a named warp that has stopped and waited. A warp held on a record has stopped already. -/
def execWarpEvict (w : WarpKey) (s : State) : Host.Outcome State Fault Refusal :=
  match s.placed? w with
  | none => .next s
  | some (g, k) =>
    let named := k.evictNamed || (k.onRecord && k.asyncs.contains 0x50)
    if !named || k.evicted || k.handler || !k.quiet || (s.matOps.any fun o => o.w == w) then .next s
    else .next ((s.evictWarp g k).barriers g.key)

/-- A copy between memory and a region has no chunk written in part. -/
def Copy.atBoundary (k : Copy) : Bool := k.done.all fun d => d.2 == k.chunkLen d.1 || d.2 == 0

/-- A latch as 28 rows of 148 bytes: 32 rows of 128, then its type and XV. -/
def Latch.image (l : Latch) : List Byte :=
  padTo 4144 ((List.range 32).flatMap (fun r => padTo 128 (l.rows.getD r [])) ++ leBytes 4 (l.ty.getD 0xFF) ++ leBytes 2 l.xv.toNat)

/-- A tile in seven rows. -/
def tileImage (t : List (List Word)) : List Byte :=
  padTo 1036 ((List.range 8).flatMap fun r => (List.range 32).flatMap fun c => bytesOfWord ((t.getD r []).getD c 0))

/-- The accumulator rows in the order of R193. -/
def Group.accImage (g : Group) : List Byte :=
  let n := (g.tiles).getD 0
  let octet (w : Warp) (o : Nat) : List Byte :=
    let k := w.octet o
    padTo 1036 ((List.range 8).flatMap (fun r => padTo 128 (k.latch.rows.getD r [])) ++ leBytes 4 (k.latch.ty.getD 0xFF) ++ leBytes 2 k.latch.xv.toNat) ++
      tileImage k.part ++ (List.range n).flatMap fun t => tileImage (k.tiles.getD t [])
  let warp (w : Warp) : List Byte :=
    padTo 148 (leBytes 2 w.xva.toNat ++ leBytes 2 w.xvb.toNat ++ bytesOfWord w.mstatus) ++ (List.range (g.width / 8)).flatMap (octet w)
  if g.tiles.isNone then List.replicate (148 * g.accRows) 0
  else padTo (148 * g.accRows) (g.b0.image ++ g.b1.image ++ g.warps.flatMap warp)

/-- Where a group's save area starts (R365). -/
def Group.saveArea (g : Group) : Nat := g.area + g.warps.length * warpArea g.width

/-- GROUP_ROWS_EVICT (R365, R342): the region, the accumulator rows and the stage counters are saved, and the rows return. -/
def execGroupRowsEvict (g : GroupKey) (s : State) : Host.Outcome State Fault Refusal :=
  match s.group? g with
  | none => .next s
  | some k =>
    let mine := s.copies.filter fun c => c.inRegion g
    if k.rowsOut || !(k.warps.all fun w => w.evicted || w.gone) || !(k.warps.any (·.evicted)) || s.openWindow k ||
        (s.matOps.any fun o => o.w.group == g) ||
        !(mine.all fun c => c.run != .running || c.atBoundary) then .next s
    else
      let stop (c : Copy) : Copy := if c.inRegion g && c.run == .running then { c with run := .evictHold, done := [] } else c
      let stages := (List.range 8).flatMap fun i =>
        let t := k.stages.getD i Stage.zero
        bytesOfWord t.count ++ bytesOfWord (stageStatus t ((s.copies.map stop).filter fun c => c.g == g && c.stage == some i))
      let s1 := s.vStore (k.die, k.core) k.dom k.saveArea (s.scratchRead g 0 k.scBytes ++ k.accImage ++ stages)
      let s2 := { s1 with copies := s1.copies.map stop }
      let s3 := mine.foldl (fun (s : State) c =>
        match c.run with
        | .suspended (some idx) _ => s.faultHeld k.dom idx 1
        | _ => s) s2
      let s4 := s3.modGroup g fun k => { k with rowsOut := true, active := false, scratch := [], rowMap := k.rowMap.map fun _ => none }
      .next ((s4.modCore k.die k.core fun c =>
        { c with active := c.active.filter (· != g), pending := c.pending.filter (· != g) }).letIn k.die k.core)

/-! ## RESUME (R363) -/

/-- The warp held on a record of kind 0 enters the handler with the recorded cause and index. -/
def State.deliverCause (s : State) (g : Group) (w : Warp) (idx : Nat) : State :=
  match w.saved with
  | none => s
  | some v =>
    let w1 := s.reload g.dom w false
    let v1 := { v with c := w1.c.slices.map Slice.stop, a := w1.a.slices.map Slice.stop }
    (s.modWarp w.key fun _ => w1).enterHandler g w1 w.cause (some idx) v1

/-- What a RESUME of a pending record with a legal DISP does. -/
def State.resumeRecord (s : State) (r : FaultRec) (disp : Nat) : State :=
  let s1 := (s.faultHeld r.dom r.idx 0).setFault r.dom r.idx 0
  match r.copy, r.w with
  | some id, _ => s1.modCopy id fun k => { k with run := .running, resumePending := false, done := [] }
  | none, some w =>
    match s1.placed? w with
    | none => s1
    | some (g, k) =>
      if r.kind == 0 && disp == 1 then s1.deliverCause g k r.idx else s1.returnFrom g k (r.kind == 2 && disp == 1)
  | none, none => s1

/-- DISP values of a kind. -/
def dispOk (kind disp : Nat) : Bool := if kind == 1 then disp == 0 else disp ≤ 1

/-- The record's warp, or its copy's region, is evicted. -/
def State.recordEvicted (s : State) (r : FaultRec) : Bool :=
  match r.copy, r.w with
  | some id, _ => ((s.copy? id).map fun k => s.groups.any fun g => g.rowsOut && k.inRegion g.key).getD false
  | none, some w => ((s.warp? w).map (·.evicted)).getD false
  | none, none => false

/-- RESUME of a record: none when the record is not pending or its DISP is not legal. -/
def State.resume (s : State) (dom idx : Nat) : Option State :=
  match s.faultRec? dom idx with
  | none => none
  | some r =>
    let disp := s.disp dom idx
    if r.state != 1 || !(dispOk r.kind disp) then none
    else if s.recordEvicted r then
      let s1 := { s with faultRecs := updFirst (fun q => q.dom == dom && q.idx == idx) (fun q => { q with resume := some disp }) s.faultRecs }
      let s2 := match r.copy with
        | some id => s1.modCopy id fun k => { k with resumePending := true }
        | none => s1
      some (s2.faultHeld dom idx 3)
    else some (s.resumeRecord r disp)

/-- ABORT (R189, R190, R363): of a pending record of kind 1. -/
def State.abortCopy (s : State) (dom idx : Nat) : Option State :=
  match s.faultRec? dom idx with
  | none => none
  | some r =>
    match r.state == 1 && r.kind == 1, r.copy.bind s.copy? with
    | true, some k =>
      let s1 := (s.faultHeld dom idx 0).setFault dom idx 0
      let s2 := { s1 with copies := s1.copies.filter (·.id != k.id) }
      let s3 := if k.succ && !(k.inRegion k.g) then s2 else s2.modGroup k.g fun g => { g with aborted := true }
      some (match k.stage with
        | some i => s3.modGroup k.g (·.setStage i fun t => { t with abortBit := true, poisonAbort := t.poisonAbort || r.code == 0x08 })
        | none => s3)
    | _, _ => none

/-! ## Restoration (R366) -/

/-- The shared rows of a group come back: scratch from the save area; its copies go on from their cursors, and RESUMEs that waited act. -/
def State.restoreRows (s : State) (g : Group) : State :=
  let warpRows := g.warps.length * rowsPerWarp g.width
  let bytes := s.vBytes g.dom g.saveArea g.scBytes
  let s1 := s.modGroup g.key fun k => { k with
    rowsOut := false
    scratch := cellWrites [] 0 bytes
    rowMap := backRows (fun i => warpRows ≤ i) 0 k.rowMap (s.freeRowList g.die g.core) }
  let s2 := { s1 with copies := s1.copies.map fun c => if c.inRegion g.key && c.run == .evictHold then { c with run := .running } else c }
  (s.copies.filter (·.inRegion g.key)).foldl (fun (s : State) c =>
    match c.run with
    | .suspended (some idx) _ =>
      match s.faultRec? c.dom idx with
      | some r =>
        match r.resume with
        | some d => s.resumeRecord r d
        | none => s.faultHeld c.dom idx 0
      | none => s
    | _ => s) s2

/-- One warp comes back: its rows, and its state from its context block; held on a record it stays so, unless a RESUME has waited. -/
def State.restoreWarp (s : State) (g : Group) (w : Warp) : State :=
  let lo := w.rfFirst
  let s1 := s.modGroup g.key fun k => { k with
    rowMap := backRows (fun i => covers lo (rowsPerWarp w.width) i) 0 k.rowMap (s.freeRowList g.die g.core) }
  if w.onRecord then
    let idx := w.record.getD 0
    let s2 := (s1.modWarp w.key fun k => { k with evicted := false }).vStore (g.die, g.core) g.dom (w.ctx + 5) [2]
    match s2.faultRec? g.dom idx with
    | some r =>
      match r.resume with
      | some d => s2.resumeRecord r d
      | none => s2.faultHeld g.dom idx 0
    | none => s2
  else ({ s1 with free := s1.free + 2 * freeStep }).modWarp w.key fun _ => s1.resumed g.dom w false

/-- Restore evicted warps in ascending number, each when its rows are free. -/
def State.restoreWarps (g : Group) : List Warp → State → State
  | [], s => s
  | w :: ws, s =>
    if !w.evicted then State.restoreWarps g ws s
    else if s.coreFree g.die g.core < rowsPerWarp w.width then s
    else State.restoreWarps g ws (s.restoreWarp g w)

/-- The group competes again, at its launch's priority (R337). -/
def State.enqueue (s : State) (g : Group) : State :=
  let c := s.core g.die g.core
  if c.active.contains g.key || c.pending.contains g.key then s
  else
    let s1 := s.modGroup g.key fun g => { g with active := false, entered := s.now, effPrio := g.prio, waitSwaps := 0 }
    (s1.modCore g.die g.core fun c => { c with pending := c.pending ++ [g.key] }).letIn g.die g.core

/-- Work of a higher priority waits for a core of the die (R341). -/
def State.waitedFor (s : State) (g : Group) : Bool :=
  s.works.any fun w => g.prio < w.launch.prio && (s.candidates w.launch).contains g.die && ((s.dieFor w).getD g.die == g.die)

/-- GROUP_RESTORE (R366), when no placement of higher priority waits for the core. -/
def execGroupRestore (g : GroupKey) (s : State) : Host.Outcome State Fault Refusal :=
  match s.group? g with
  | none => .next s
  | some k =>
    if !(k.warps.any (·.evicted)) || !(s.isLive k.die) || s.waitedFor k then .next s
    else
      let shared := k.rowMap.length - k.warps.length * rowsPerWarp k.width
      if k.rowsOut && s.coreFree k.die k.core < shared then .next s
      else
        let s1 := if k.rowsOut then s.restoreRows k else s
        .next (((State.restoreWarps k k.warps s1).barriers g).enqueue k)

end Sys2Proof.Machine
end

