-- ==== Sys2Proof/Machine/Commands.lean ====
section
/-! DEFINITION. Sys2Proof/Machine/Commands.lean: launch-window records: the launch record and its checks (R104, R316 to R322), and the host
commands (R325, R326, R299, R305 to R309, R323, R332, R336, R339, R343, R363). -/

namespace Sys2Proof

/-! ## Fields of a record -/

/-- The reserved bits of a launch record, as (offset, value). -/
def Record.reserved (r : Record) : List (Nat × Nat) :=
  [(0x01, r.nat 1 1 / 8), (0x03, r.nat 3 1), (0x25, r.nat 0x25 3), (0x7C, r.nat 0x7C 4 / 2), (0x8C, r.nat 0x8C 4 / 2), (0x91, r.nat 0x91 7)] ++
  (List.range 6).map (fun i => (0x9A + 8 * i, r.nat (0x9A + 8 * i) 2)) ++ [(0xD8, r.nat 0xD8 39)]

/-- The dies of a mask. -/
def Record.dieMask (r : Record) : List Nat := (List.range 512).filter fun d => (r.nat (0x30 + d / 8) 1).testBit (d % 8)

/-- A valid home-die hint: base and stride (R319). -/
def Record.hint (r : Record) (at_ : Nat) : Option (Nat × Nat) :=
  if r.nat (at_ + 12) 4 % 2 == 1 then some (r.nat at_ 8, r.nat (at_ + 8) 4) else none

/-- The cookie of a record (R318). -/
def Record.cookie (r : Record) : Word := BitVec.ofNat 32 (r.nat 4 4)

/-- The first byte of a command at fault: one outside its operands that is not 0, or its domain. -/
def Record.cmdFault (r : Record) (hasDom : Bool) (fields : List (Nat × Nat)) : Option Nat :=
  let used (i : Nat) : Bool := i == 0 || (i == 2 && hasDom) || (3 ≤ i && i ≤ 7) || i == 255 || fields.any fun f => (f.1 ≤ i && i < f.1 + f.2)
  match ((List.range 256).zip r.bytes).find? fun x => !(used x.1) && x.2 != 0 with
  | some (i, _) => some (if hasDom && 63 < r.nat 2 1 && 2 < i then 2 else i)
  | none => if hasDom && 63 < r.nat 2 1 then some 2 else none

/-- The domain that a command names (R325). -/
def Record.dom (r : Record) : Nat := r.nat 2 1

end Sys2Proof

namespace Sys2Proof.Machine

/-! ## Code objects (R28, R104) -/

/-- n bytes that a domain can read; none of them is always readable. -/
def State.readableRange (s : State) (dom va n : Nat) : Bool := n == 0 || s.readable dom va n

/-- A phase-table entry with its carry descriptor; none when a check of R104 fails. -/
def State.phaseEntry (s : State) (dom : Nat) (cSize aSize tAt tSize : Nat) (b : List Byte) : Option Phase :=
  let mode := leAt b 4 4
  let c := leAt b 8 4
  let a := leAt b 12 4
  let co := leAt b 16 4
  if leAt b 2 2 != 0 || leAt b 20 12 != 0 || 16 ≤ mode || c % 8 != 0 || a % 8 != 0 || cSize ≤ c || aSize ≤ a || co % 4 != 0 || tSize < co + 76 then
    none
  else
    (s.tableBytes dom (tAt + co) 76).bind fun d =>
      if 16 < leAt d 8 4 then none else some ⟨leAt b 0 2, BitVec.ofNat 32 mode, c, a, carryOf d⟩

/-- The Crown reads a code object: its header, and when that has the magic number its phase table and the carry descriptors; none while it waits
for a page (R307, R311). -/
def State.codeReach (s : State) (dom va : Nat) : Option State :=
  if va % 256 != 0 then some s else
  (s.touchRead panelSite dom va 128).bind fun s1 =>
    let b := (s1.tableBytes dom va 128).getD []
    if leAt b 0 4 != 0x4E42454D then some s1
    else
      let n := leAt b 7 1
      let at_ := va + leAt b 0x50 8
      (s1.touchRead panelSite dom at_ (32 * n)).bind fun s2 =>
        (List.range n).foldl (fun o i => o.bind fun s =>
          s.touchRead panelSite dom (va + leAt b 0x30 8 + leAt ((s.tableBytes dom (at_ + 32 * i) 32).getD []) 16 4) 76) (some s2)

/-- The code object at an address of a domain, when it passes the checks of R104. -/
def State.codeObject (s : State) (dom va : Nat) : Option CodeObject :=
  if va % 256 != 0 || (s.tableBytes dom va 128).isNone then none
  else
    let b := (s.tableBytes dom va 128).getD []
    let seg (at_ : Nat) : Nat × Nat := (leAt b at_ 8, leAt b (at_ + 8) 8)
    let segs := [seg 0x10, seg 0x20, seg 0x30, seg 0x40]
    let width := leAt b 6 1
    let n := leAt b 7 1
    let ptab := leAt b 0x50 8
    let header := leAt b 0 4 == 0x4E42454D && leAt b 4 2 == 1 && leAt b 8 4 < 2 ^ 30 && leAt b 0xC 4 < 2 && leAt b 0x58 40 == 0 &&
      (width == 16 || width == 32 || width == 64) && n != 0 && segs.all (fun g => g.1 % 128 == 0) && ptab % 8 == 0
    if !(header && segs.all (fun g => s.readableRange dom (va + g.1) g.2) && s.readableRange dom (va + ptab) (32 * n)) then none
    else
      let t := seg 0x30
      let entry (i : Nat) : Option Phase :=
        (s.tableBytes dom (va + ptab + 32 * i) 32).bind (s.phaseEntry dom (seg 0x10).2 (seg 0x20).2 (va + t.1) t.2)
      match allSome ((List.range n).map entry) with
      | none => none
      | some ps => if distinct (ps.map (·.id)) then
          some ⟨va, width, leAt b 0xC 4 % 2 == 1, seg 0x10, seg 0x20, t, seg 0x40, ps⟩
        else none

/-! ## The launch record (R318 to R322) -/

def widthOk (w : Nat) : Bool := w == 16 || w == 32 || w == 64

/-- A window that takes records: 0, or one bound by WCONF (R313). -/
def State.bound (s : State) (win : Nat) : Bool := win == 0 || (win < 256 && (s.window win).dom.isSome)

/-- The first of some checks that fails, as error code and detail. -/
def firstFail : List (Bool × Nat × Nat) → Option (Nat × Nat)
  | [] => none
  | (ok, e) :: rest => if ok then firstFail rest else some e

/-- The checks of R322 on a launch record; the code object is read where the domain allows it. -/
def State.launchError (s : State) (win : Nat) (r : Record) (code : Option CodeObject) : Option (Nat × Nat) :=
  let dom := r.nat 2 1
  let pw := BitVec.ofNat 32 (r.nat 0x1C 4)
  let width := r.nat 0x1A 1
  let warps := r.nat 0x1B 1
  let groups := r.nat 0x20 4
  let per := r.nat 0x24 1
  let deps := r.nat 0x90 1
  let phase := code.bind fun k => k.phases.find? (·.id == r.nat 0x18 2)
  let readable := dom < 64
  let res := r.reserved.find? (·.2 != 0)
  firstFail (
    [(res.isNone, 0x0002, (res.map (·.1)).getD 0),
     (pw.toNat < 2 ^ 30 && rfOf pw + scOf pw + accOf pw ≤ Config.poolRows &&
       (!(widthOk width && 1 ≤ warps && warps ≤ 8) || warps * rowsPerWarp width ≤ rfOf pw), 0x0003, 0x1C),
     (widthOk width && (match code with
       | some k => k.width == width
       | none => true), 0x0004, 0x1A),
     (1 ≤ warps && warps ≤ 8, 0x0004, 0x1B),
     (code.isSome || (!readable && r.nat 8 8 % 256 == 0), 0x0005, 0x08),
     (code.isNone || phase.isSome, 0x0006, 0x18),
     ((phase.map (·.c == r.nat 0x10 4)).getD true, 0x0006, 0x10),
     ((phase.map (·.a == r.nat 0x14 4)).getD true, 0x0006, 0x14),
     ((code.map fun k => k.phases.all fun p => p.carry.runs.all fun x => x.2 == 0 || x.1 + x.2 ≤ scOf pw).getD true, 0x0006, 0x1C),
     (groups != 0, 0x0007, 0x20),
     (1 ≤ per && per ≤ 96, 0x0007, 0x24),
     (groups % per == 0, 0x0007, 0x20),
     (r.dieMask.any s.isLive, 0x0008, 0x30),
     (dom < 64 && (win == 0 || (s.window win).dom == some dom), 0x0009, 0x02),
     (deps ≤ 6, 0x000B, 0x90)] ++
    (List.range (min deps 6)).map (fun i => (s.bound (r.nat (0x98 + 8 * i) 2), 0x000B, 0x98 + 8 * i)) ++
    [(r.nat 0xC8 8 % 8 == 0, 0x000D, 0xC8)])

/-- The launch that a record asks for. -/
def launchOf (r : Record) (win k seq order : Nat) (code : CodeObject) : Launch :=
  { seq := seq, win := win, k := k, order := order, dom := r.nat 2 1, prio := r.nat 1 1 % 8, cookie := BitVec.ofNat 32 (r.nat 4 4),
    code := code, firstPhase := r.nat 0x18 2, warps := r.nat 0x1B 1, rows := BitVec.ofNat 32 (r.nat 0x1C 4), groups := r.nat 0x20 4,
    perCohort := r.nat 0x24 1, param := BitVec.ofNat 64 (r.nat 0x28 8), dies := r.dieMask, hint0 := r.hint 0x70, hint1 := r.hint 0x80,
    deps := (List.range (r.nat 0x90 1)).map fun i => (r.nat (0x98 + 8 * i) 2, r.nat (0x9C + 8 * i) 4),
    succAddr := r.nat 0xC8 8, succVal := BitVec.ofNat 64 (r.nat 0xD0 8), started := false, placed := 0, retired := 0, lastDie := none,
    status := none, detail := 0, reported := false, ended := false, owed := false, cancelBy := none, orphans := [] }

/-- The next record of a window is parsed (R315). -/
def State.parsed (s : State) (win : Nat) : Nat × State :=
  let k := (s.window win).next
  (k, { s.modWindow win (fun w => { w with next := k + 1 }) with parseCount := s.parseCount + 1 })

/-- The sequence number after seq (R317). -/
def nextSeqOf (seq : Nat) : Nat := if seq == 0xFFFFFFFF then 1 else seq + 1

/-- LAUNCH (R318, R322): accepted, the launch takes its number; rejected, its completion record says why. It waits while a page of its code object
does. -/
def execLaunch (win : Nat) (r : Record) (s : State) : Host.Outcome State Fault Refusal :=
  let dom := r.nat 2 1
  match (if s.bound win then (if dom < 64 then s.codeReach dom (r.nat 8 8) else some s) else none) with
  | none => .next s
  | some s0 =>
    let p := s0.parsed win
    let s1 := p.2
    let code := if dom < 64 then s1.codeObject dom (r.nat 8 8) else none
    match s1.launchError win r code, code with
    | none, some k =>
      let seq := s1.nextSeq
      let l := launchOf r win p.1 seq s1.parseCount k
      let s2 := { s1 with launches := (s1.launches.filter fun (q : Launch) => q.seq != seq) ++ [l], nextSeq := nextSeqOf seq }
      .next ((s2.modWindow win fun w => { w with recs := putFirst (·.k == p.1) ⟨p.1, none, seq⟩ w.recs }).charge dom 7 1)
    | some e, _ => .next (s1.completeRecord win p.1 e.1 0 e.2 r.cookie)
    | none, none => .next (s1.completeRecord win p.1 0x0005 0 0x08 r.cookie)

/-- UNKNOWN_RECORD (R316): a kind other than 1 and 2; a command outside window 0 or with an unknown code. -/
def execUnknownRecord (win : Nat) (r : Record) (s : State) : Host.Outcome State Fault Refusal :=
  if !(s.bound win) then .next s
  else
    let p := s.parsed win
    if r.nat 0 1 == 2 then .next (p.2.completeRecord win p.1 0x000A 0 (if win == 0 then 3 else 0) r.cookie)
    else .next (p.2.completeRecord win p.1 0x0001 0 0 r.cookie)

/-! ## Commands (R325) -/

/-- Run a command: its state and detail, or the offset of the field at fault, on which nothing changes; then its completion record. -/
def State.command (s : State) (r : Record) (hasDom : Bool) (fields : List (Nat × Nat)) (run : State → Except Nat (State × Nat)) :
    Host.Outcome State Fault Refusal :=
  let p := s.parsed 0
  match r.cmdFault hasDom fields with
  | some off => .next (p.2.completeRecord 0 p.1 0x0020 0 off r.cookie)
  | none =>
    match run p.2 with
    | .error off => .next (p.2.completeRecord 0 p.1 0x0020 0 off r.cookie)
    | .ok (s1, detail) => .next (s1.completeRecord 0 p.1 0 0 detail r.cookie)

/-- ROOT (R299). -/
def execRoot (r : Record) (s : State) : Host.Outcome State Fault Refusal :=
  s.command r true [(8, 8)] fun s =>
    let pa := r.nat 8 8
    if pa % 4096 != 0 || !(paExists pa) then .error 8
    else .ok (s.modDomain r.dom fun d => { d with root := some pa }, 0)

/-- A cached translation that an invalidation names. -/
def inRange (dom base size : Nat) (e : (Nat × Nat) × Page) : Bool := e.1.1 == dom && (size == 0 || overlaps e.1.2 e.2.size base size)

/-- A unit of an access to a page that an invalidation names, not yet performed. -/
def AUnit.pendingOn (dom base size : Nat) (u : AUnit) : Bool :=
  u.level != .panel && (match u.place with
    | .mem _ p => inRange dom base size ((dom, u.va / p.size * p.size), p)
    | _ => false)

/-- An access that used a translation to be dropped, cached or a copy's, has still to be performed (R306). -/
def State.invalWaits (s : State) (dom base size : Nat) : Bool :=
  (s.groups.any fun g => g.dom == dom && g.warps.any fun w => w.accs.any fun a => a.units.any (·.pendingOn dom base size)) ||
    s.launches.any fun l => l.orphans.any fun o => o.dom == dom && o.acc.units.any (·.pendingOn dom base size)

/-- Every translation cache drops the entries that an invalidation names. -/
def State.dropEntries (s : State) (dom base size : Nat) : State :=
  let stays (e : (Nat × Nat) × Page) : Bool := !(inRange dom base size e)
  { s with
    dies := s.dies.map fun d => { d with tlb := d.tlb.filter stays }
    cores := s.cores.map fun k => { k with tlb := k.tlb.filter stays } }

/-- INVAL (R306): every cache drops the entries, and it completes when the accesses that used them are performed. -/
def execInval (r : Record) (s : State) : Host.Outcome State Fault Refusal :=
  if (r.cmdFault true [(8, 8), (16, 8)]).isNone && s.invalWaits r.dom (r.nat 8 8) (r.nat 16 8) then
    .next (s.dropEntries r.dom (r.nat 8 8) (r.nat 16 8))
  else s.command r true [(8, 8), (16, 8)] fun s => .ok (s.dropEntries r.dom (r.nat 8 8) (r.nat 16 8), 0)

/-- RING (R305). -/
def execRing (r : Record) (s : State) : Host.Outcome State Fault Refusal :=
  s.command r false [(8, 4), (12, 4), (16, 8)] fun s =>
    if Config.dies ≤ r.nat 8 4 then .error 8
    else if 2 < r.nat 12 4 then .error 12
    else if !(paExists (r.nat 16 8)) then .error 16
    else .ok ({ s with rings := tableSet (r.nat 8 4, r.nat 12 4) (r.nat 16 8) s.rings }, 0)

/-- The page that a command names. -/
def State.pageAt (s : State) (dom va : Nat) : Option Page :=
  match s.walk dom va with
  | .leaf l at_ e => some (pageOfLeaf l at_ e)
  | .fault _ _ => none

/-- Bytes of memory that a page maps: both copies of a publish pair. -/
def Page.span (p : Page) : Nat := if p.pp.isSome then 2 * p.size else p.size

/-- The dies that hold byte i of an SC or CP line dirty, with its value and who is charged for it. -/
def State.dirtyHolders (s : State) (line i : Nat) : List (Byte × Nat) :=
  s.dies.flatMap fun d => (d.lines.filter fun l => l.sc && l.line == line && l.dirty.getLsbD i).map fun l => (l.data.getD i 0, l.dom)

/-- Each dirty byte of a line reaches its home; of several dies' values, whichever (R308). -/
def State.mergeLine (s : State) (line : Nat) : State :=
  (List.range 128).foldl (fun s0 i =>
    match s.dirtyHolders line i with
    | [] => s0
    | x :: xs =>
      let hs := x :: xs
      let v := hs.getD ((Config.freeWord (2 ^ 64 * (s.nextId + 1) + 128 * line + i)).toNat % hs.length) x
      let full := (List.range 16).all fun j => !(s.dirtyHolders line (i - i % 16 + j)).isEmpty
      let s1 := s0.sysStore (128 * line + i) [v.1]
      { s1 with memory := s1.memory.heal full (128 * line + i) 1 }.charge v.2 3 1) s

/-- The write-back step for n bytes at pa (R307): dirty bytes go home, every copy is dropped, the directory entries are cleared. -/
def State.cleanPage (s : State) (pa n : Nat) : State :=
  let inside (line : Nat) : Bool := overlaps (128 * line) 128 pa n
  let s0 := ((s.memory.dir.map (·.line)).filter inside).foldl State.recall s
  let dirty := ((s0.dies.flatMap fun d => (d.lines.filter fun l => l.sc && inside l.line && l.dirty != 0).map (·.line))).eraseDups
  let s1 := (dirty.foldl State.mergeLine s0).bumpId
  let settled (q : Packet) : Packet := if overlaps q.pa q.bytes.length pa n then { q with all := true } else q
  { s1 with
      dies := s1.dies.map fun d => { d with lines := d.lines.filter fun l => !(inside l.line) }
      memory := ({ s1.memory with log := s1.memory.log.map settled } : Memory).gc }

/-- CLEAN (R307): it waits for HC writes that are on their way to the page's home. -/
def execClean (r : Record) (s : State) : Host.Outcome State Fault Refusal :=
  let page := s.pageAt r.dom (r.nat 8 8)
  let waits := match page with
    | some p => s.memory.sent.any fun q => overlaps q.pa q.bytes.length p.pa p.span
    | none => false
  if (r.cmdFault true [(8, 8)]).isNone && waits then .next s
  else
    s.command r true [(8, 8)] fun s =>
      match page with
      | none => .error 8
      | some p => .ok (s.cleanPage p.pa p.span, 0)

/-- Bytes of staging that a table's ports need (R343); none when a port entry cannot be read. -/
def State.stagingNeed (s : State) (dom addr ports : Nat) : Option Nat :=
  (allSome ((List.range ports).map fun p => (s.tableBytes dom (addr + 0x40 + 16 * p) 16).map entryOf)).map fun es =>
    (es.map fun e => 16 * e.cap * e.rowBytes).sum

/-- Ports of bound tables whose resident groups are placed on a die. -/
def State.portsOn (s : State) (die : Nat) : Nat :=
  (s.tables.map fun t => (List.range (((s.header t.dom t.num).map (·.ports)).getD 0)).countP fun p =>
    match (s.entry t.dom t.num p).bind fun e => if e.valid then s.residentOf t.dom e else none with
    | some g => g.die == die
    | none => false).sum

def State.dropTable (s : State) (dom num : Nat) : State :=
  { s with
      tables := s.tables.filter fun t => !(t.dom == dom && t.num == num)
      ports := s.ports.filter fun p => !(p.dom == dom && p.table == num) }

/-- BINDR reads the table that it names: none while it waits for a page. -/
def State.bindReach (s : State) (r : Record) : Option State :=
  if (r.cmdFault true [(8, 4), (16, 8), (24, 8), (32, 8)]).isSome || r.nat 16 8 % 128 != 0 then some s
  else
    (s.touchRead panelSite r.dom (r.nat 16 8) 64).bind fun s1 =>
      s1.touchRead panelSite r.dom (r.nat 16 8 + 0x40) (16 * min 256 (leAt ((s1.tableBytes r.dom (r.nat 16 8) 64).getD []) 4 2))

/-- BINDR (R221, R343): the claim counts of the table start at 0. -/
def execBindr (r : Record) (s0 : State) : Host.Outcome State Fault Refusal :=
  match s0.bindReach r with
  | none => .next s0
  | some s =>
  s.command r true [(8, 4), (16, 8), (24, 8), (32, 8)] fun s =>
    let num := r.nat 8 4
    let addr := r.nat 16 8
    if 15 < num then .error 8
    else if addr % 128 != 0 then .error 16
    else
      match s.tableBytes r.dom addr 64 with
      | none => .error 16
      | some h =>
        let ports := leAt h 4 2
        if ports == 0 || 256 < ports || leAt h 6 58 != 0 then .error 16
        else
          match s.stagingNeed r.dom addr ports with
          | none => .error 16
          | some need =>
            if r.nat 24 8 % 128 != 0 then .error 24
            else if r.nat 32 8 < need then .error 32
            else
              let s0 := s.dropTable r.dom num
              let s1 := { s0 with tables := s0.tables ++ [⟨r.dom, num, addr, r.nat 24 8, r.nat 32 8⟩] }
              if (List.range Config.dies).any fun d => 256 < s1.portsOn d then .error 16 else .ok (s1, 0)

/-- UNBINDR (R343). -/
def execUnbindr (r : Record) (s : State) : Host.Outcome State Fault Refusal :=
  s.command r true [(8, 4)] fun s =>
    let num := r.nat 8 4
    let open_ := s.cores.any fun k => k.windows.any fun w => w.open_ && w.table == num && ((s.group? w.owner).map (·.dom)) == some r.dom
    if 15 < num || (s.table? r.dom num).isNone || open_ then .error 8 else .ok (s.dropTable r.dom num, 0)

/-- FLIPS (R309): the entries' visible copies are 0. -/
def execFlips (r : Record) (s : State) : Host.Outcome State Fault Refusal :=
  s.command r true [(8, 4), (12, 4)] fun s =>
    let first := r.nat 8 4
    let n := r.nat 12 4
    if 4096 ≤ first then .error 8
    else if 4096 < first + n then .error 12
    else
      let mine (e : Nat) : Bool := covers first n e
      .ok ({ s with
        flipOwner := (List.range n).map (fun i => (first + i, r.dom)) ++ s.flipOwner.filter fun p => !(mine p.1)
        dies := s.dies.map fun d => { d with flips := d.flips.filter fun p => !(mine p.1) } }, 0)

/-- WORK (R336): a workspace at another base has a fault queue of its own. -/
def execWork (r : Record) (s : State) : Host.Outcome State Fault Refusal :=
  s.command r true [(8, 8), (16, 8)] fun s =>
    let base := r.nat 8 8
    let size := r.nat 16 8
    if base % 2097152 != 0 || !(canonical base) then .error 8
    else if size % 2097152 != 0 || size == 0 then .error 16
    else if ((s.domain r.dom).work.map (·.1)) == some base then .ok (s.modDomain r.dom fun d => { d with work := some (base, size) }, 0)
    else
      .ok ({ s.modDomain r.dom (fun d => { d with work := some (base, size), faults := 0 }) with
        faultRecs := s.faultRecs.filter (·.dom != r.dom) }, 0)

/-- CRING (R323). -/
def execCring (r : Record) (s : State) : Host.Outcome State Fault Refusal :=
  s.command r false [(8, 4), (16, 8), (24, 4), (28, 4)] fun s =>
    let ring : Ring := ⟨BitVec.ofNat 64 (r.nat 16 8), BitVec.ofNat 32 (r.nat 24 4), BitVec.ofNat 32 (r.nat 28 4)⟩
    if 255 < r.nat 8 4 then .error 8 else .ok (s.modWindow (r.nat 8 4) fun w => { w with ring := some ring }, 0)

/-- WCONF (R313, R314). -/
def execWconf (r : Record) (s : State) : Host.Outcome State Fault Refusal :=
  s.command r true [(8, 4), (12, 4)] fun s =>
    let win := r.nat 8 4
    if win == 0 || 255 < win then .error 8
    else .ok (s.modWindow win fun w => { w with dom := some r.dom, qp := r.nat 12 4, bytes := [], next := 1, written := 0, recs := [] }, 0)

/-- The launch of record k of a window that has not ended. -/
def State.launchAt (s : State) (win k : Nat) : Option Launch := (s.launches.reverse).find? fun l => l.win == win && l.k == k && !l.ended

/-- What a CANCEL names: the latest launch that took the record's place. -/
def State.cancelTarget (s : State) (r : Record) : Option Launch :=
  if (r.cmdFault false [(8, 4), (12, 4)]).isNone && s.bound (r.nat 8 4) then
    (s.launches.reverse).find? fun l => l.win == r.nat 8 4 && l.k == r.nat 12 4
  else none

/-- CANCEL begins to act: the launch ends, and is over at once when nothing of it is in flight. -/
def State.cancelBegin (s : State) (l : Launch) : State :=
  if l.ended then s
  else ((s.endLaunch l.seq 0x0010 0).modLaunch l.seq fun q => { q with cancelBy := some (s.window 0).next }).settleLaunch l.seq

/-- CANCEL (R326): its own record follows that of the launch, or the successor store of a resident launch that has reported; one that another
event is ending has ended once that is over. -/
def execCancel (r : Record) (s : State) : Host.Outcome State Fault Refusal :=
  let s1 := match s.cancelTarget r with
    | some l => s.cancelBegin l
    | none => s
  if ((s1.cancelTarget r).map (·.owed)).getD false then .next s1
  else
    s1.command r false [(8, 4), (12, 4)] fun s =>
      if !(s.bound (r.nat 8 4)) then .error 8
      else
        match s1.cancelTarget r with
        | none => .error 12
        | some l => if l.cancelBy == some (s1.window 0).next then .ok (s, if l.reported then 1 else 0) else .error 12

/-- RESUME (R363). -/
def execResume (r : Record) (s : State) : Host.Outcome State Fault Refusal :=
  s.command r true [(8, 4)] fun s =>
    match s.resume r.dom (r.nat 8 4) with
    | some s1 => .ok (s1, 0)
    | none => .error 8

/-- ABORT (R189, R363). -/
def execAbort (r : Record) (s : State) : Host.Outcome State Fault Refusal :=
  s.command r true [(8, 4)] fun s =>
    match s.abortCopy r.dom (r.nat 8 4) with
    | some s1 => .ok (s1, 0)
    | none => .error 8

/-- 0x41 asked of a warp (R325). -/
def Warp.halted (w : Warp) : Warp :=
  if w.asyncs.contains 0x41 then w else { w with asyncs := w.asyncs ++ [0x41] }

/-- HALT (R325): 0x41 becomes pending in every warp of the group. -/
def execHalt (r : Record) (s : State) : Host.Outcome State Fault Refusal :=
  s.command r false [(8, 4), (12, 4), (16, 4)] fun s =>
    if !(s.bound (r.nat 8 4)) then .error 8
    else
      match s.launchAt (r.nat 8 4) (r.nat 12 4) with
      | none => .error 12
      | some l =>
        if l.groups ≤ r.nat 16 4 then .error 16
        else
          .ok (s.modGroup ⟨l.seq, r.nat 16 4⟩ fun g => { g with warps := g.warps.map Warp.halted }, 0)

/-- A profile entry (R48); only timing decides its busy and idle counts. -/
def Profile.bytes (p : Profile) (free : Nat) : List Byte :=
  leBytes 2 p.phase ++ leBytes 2 p.tag ++ leBytes 4 (min 0xFFFFFFFF p.groups) ++
    (List.range 12).flatMap (fun i => leBytes 4 (Config.freeCount (free + i)).toNat) ++ List.replicate 8 0

/-- PROF (R332): the tables of every core of a die, 4096 B each. -/
def execProf (r : Record) (s : State) : Host.Outcome State Fault Refusal :=
  s.command r false [(8, 8), (16, 4), (20, 4), (24, 4)] fun s =>
    let die := r.nat 24 4
    if Config.dies ≤ die then .error 24
    else
      let table (c : Nat) : List Byte :=
        padTo 4096 ((mapIdxList (fun i (p : Profile) => p.bytes (2 ^ 64 * (s.nextId + 1) + 1024 * c + 16 * i)) (s.core die c).profile).flatten)
      let write (s1 : State) (c : Nat) : State :=
        s1.post (BitVec.ofNat 32 (r.nat 20 4)) (BitVec.ofNat 32 (r.nat 16 4)) (BitVec.ofNat 64 (r.nat 8 8 + 4096 * c)) (table c)
      .ok ((List.range Config.coresPerDie).foldl write s.bumpId, 0)

/-- SLICE (R339). -/
def execSlice (r : Record) (s : State) : Host.Outcome State Fault Refusal :=
  s.command r false [(8, 4)] fun s => .ok ({ s with sliceUnits := r.nat 8 4 }, 0)

end Sys2Proof.Machine
end

