-- ==== Sys2Proof/Machine/Fabric.lean ====
section
/-! DEFINITION. Sys2Proof/Machine/Fabric.lean: links and ports (R373, R380, R381), RDMA (R313, R382), unresponsive dies (R379), TOFS (R377), power
and temperature (R387, R388). -/

namespace Sys2Proof.Machine

/-- The module has booted and runs. -/
def State.running (s : State) : Bool := s.module.boot == .running

/-- Add to a count kept by number. -/
def countAt (k : Nat) (n : Nat) (l : List (Nat × Nat)) : List (Nat × Nat) := tableSet k ((tableGet k l).getD 0 + n) l

/-- Report to the host. Kinds: 0 link down, 1 unresponsive die, 2 issue withheld for temperature, 3 trip on a die, 4 trip on a stack. -/
def State.report (s : State) (kind arg : Nat) : State := s.send (.report kind arg)

/-! ## Links (R373, R380) -/

/-- K-dies at the sites that E-die e has a link to: half an edge of the panel (R380). -/
def edieSites (e : Nat) : List Nat :=
  (List.range Config.dies).filter fun d =>
    let (row, col) := siteOf d
    match e with
    | 0 => row == 0 && col < 16
    | 1 => row == 0 && 16 ≤ col
    | 2 => col == 31 && row < 16
    | 3 => col == 31 && 16 ≤ row
    | 4 => row == 31 && col < 16
    | 5 => row == 31 && 16 ≤ col
    | 6 => col == 0 && row < 16
    | _ => col == 0 && 16 ≤ row

/-- Link 4d + e is edge e of K-die d: north, east, south, west; link 2048 + 8e + i is E-die e's to the i-th of its sites. The K-die at its end,
none where there is no such link. -/
def linkDie (link : Nat) : Option Nat :=
  if 2048 ≤ link then (if link < 2112 then (edieSites ((link - 2048) / 8))[(link - 2048) % 8]? else none)
  else
    let (row, col) := siteOf (link / 4)
    let faces : List Bool := [0 < row, col < 31, row < 31, 0 < col]
    if faces.getD (link % 4) false then some (link / 4) else none

/-- LINK_RETRY (R373, R400, R401): a retry of a flit, which succeeded if the link next retries another; counted and logged. -/
def execLinkRetry (at_ : LinkFlit) (s : State) : Host.Outcome State Fault Refusal :=
  let ⟨link, flit⟩ := at_
  match linkDie link with
  | none => .next s
  | some die =>
    if !s.running || s.module.linksDown.contains link then .next s
    else
      let n := match tableGet link s.module.retries with
        | some (f, n) => if f == flit then n + 1 else 1
        | none => 1
      let s1 := { s with module := { s.module with
        retries := tableSet link (flit, n) s.module.retries
        soft := tableSet (die, link) ((tableGet (die, link) s.module.soft).getD 0 + 1) s.module.soft } }
      .next ((s1.dieEvent die 6 64 1).logError die 3 0 link)

/-- LINK_DOWN (R373): 16 successive retries of one flit have failed. -/
def execLinkDown (link : Nat) (s : State) : Host.Outcome State Fault Refusal :=
  match linkDie link, tableGet link s.module.retries with
  | some die, some (_, n) =>
    if !s.running || s.module.linksDown.contains link || n < 16 then .next s
    else
      let s1 := { s with module := { s.module with
        linksDown := s.module.linksDown ++ [link], retries := s.module.retries.filter (·.1 != link) } }
      .next ((s1.logError die 3 1 link).report 0 link)
  | _, _ => .next s

/-- ck of 1 ms. -/
def unansweredLimit : Nat := 1800000

/-- An Arbor operation has waited for the die for 1 ms, and it has answered none in that time (R379; log 74). -/
def State.silent (s : State) (die : Nat) : Bool :=
  (s.die die).answeredAt + unansweredLimit ≤ s.now &&
  ((s.flips.any fun f => f.started + unansweredLimit ≤ s.now &&
      ((f.stage == 1 && !(f.closed.contains die)) || (f.stage == 2 && !(f.taken.contains die)))) ||
   s.eops.any fun o => o.issued + unansweredLimit ≤ s.now && o.due.contains die)

/-- DIE_UNRESPONSIVE (R379): a live die is reported; its mask bit stays clear. -/
def execDieUnresponsive (die : Nat) (s : State) : Host.Outcome State Fault Refusal :=
  if !s.running || !(s.isLive die) || (s.die die).unresponsive || !(s.silent die) then .next s
  else .next ((s.modDie die fun d => { d with unresponsive := true }).report 1 die)

/-! ## Ethernet ports (R380, R381) -/

/-- E-die of a port. -/
def edieOf (port : Nat) : Nat := port / 4

/-- The live K-die of an E-die's half edge from which its walks home pages. -/
def State.edieSite (s : State) (e : Nat) : Nat := ((edieSites e).find? s.isLive).getD ((edieSites e).headD 0)

/-- Ports of the module. -/
def portCount : Nat := 32

/-- PFC_PAUSE_FRAME (R381): a class of a port pauses for so many quanta of 512 bit times (0.64 ns), or goes on for 0; at most four classes of
a port pause. -/
def execPfcPauseFrame (port cls quanta : Nat) (s : State) : Host.Outcome State Fault Refusal :=
  let m := s.module
  let known := (m.paused.filter fun p => p.1.1 == port && p.1.2 != cls).length
  if !s.running || portCount ≤ port || 8 ≤ cls || 65536 ≤ quanta || 4 ≤ known then .next s
  else
    let rest := m.paused.filter fun p => p.1 != (port, cls)
    .next ({ s with module := { m with
      paused := if quanta == 0 then rest else rest ++ [((port, cls), s.now + (quanta * 144 + 124) / 125)] } }.frames 64 4 0 1)

/-- A frame is discarded and counted; its bytes have no queue pair. -/
def State.discard (s : State) (port : Nat) : State :=
  { s with module := { s.module with discarded := countAt port 1 s.module.discarded } }.frames 64 4 0 1

/-- ETHERNET_FRAME_DISCARD (R381): a frame that is neither RoCEv2 nor flow control. -/
def execEthernetFrameDiscard (port etherType udpPort : Nat) (s : State) : Host.Outcome State Fault Refusal :=
  let roce := (etherType == 0x0800 || etherType == 0x86DD) && udpPort == 4791
  .next (if !s.running || portCount ≤ port || roce || etherType == 0x8808 then s else s.discard port)

/-! ## RDMA (R313 to R315, R382) -/

/-- Count an error of an E-die (R313). -/
def State.edieError (s : State) (port : Nat) : State :=
  { s with module := { s.module with edErrors := countAt (edieOf port) 1 s.module.edErrors } }

/-- NAK codes of the InfiniBand transport: 1 invalid request, 2 remote access error. -/
def State.nak (s : State) (r : RdmaReq) (code : Nat) : State := (s.sends r.qp 0).send (.nak r.port r.qp code)

def State.rdmaAck (s : State) (port qp : Nat) : State := (s.sends qp 0).send (.rdmaAck port qp)

/-- Start of the launch region and its bytes (R313). -/
def launchRegion : Nat := 0x0100000000000000
def launchBytes : Nat := 0x400000

/-- The launch-region offset of a request, when it falls there. -/
def regionOffset? (r : RdmaReq) : Option Nat :=
  if launchRegion ≤ r.va.toNat && r.va.toNat < launchRegion + launchBytes then some (r.va.toNat - launchRegion) else none

/-- The request comes from the queue pair that the window is bound to. -/
def State.boundTo (s : State) (win qp : Nat) : Bool := win != 0 && (s.window win).dom.isSome && (s.window win).qp == qp

/-- Bytes of a window, slot by slot, in ascending address order (R315). -/
def writeSlots (at_ : Nat) (data : List Byte) (slots : List (Nat × List Byte)) : List (Nat × List Byte) :=
  (List.range ((at_ % 256 + data.length + 255) / 256)).foldl (fun (t : List (Nat × List Byte)) i =>
    let slot := at_ / 256 + i
    let old := (tableGet slot t).getD (List.replicate 256 0)
    let from_ := if i == 0 then at_ % 256 else 0
    let skip := if i == 0 then 0 else 256 * i - at_ % 256
    tableSet slot ((overlay old from_ ((data.drop skip).take (256 - from_))).take 256) t) slots

/-- A WRITE into the launch region: the binding first, then the key; a write that runs past its window carries a wrong key there. -/
def State.windowWrite (s : State) (r : RdmaReq) (off : Nat) (data : List Byte) : State :=
  let win := off / 16384
  if !(s.boundTo win r.qp) then s.edieError r.port
  else if r.rkey.toNat != 0x4C570000 + win || 16384 < off % 16384 + data.length then (s.edieError r.port).nak r 2
  else (s.modWindow win fun w => { w with bytes := writeSlots (off % 16384) data w.bytes }).rdmaAck r.port r.qp

/-- How an RDMA access goes: it waits at a page in transition (R307) or a flip (R311), is answered with a NAK, or reaches its ranges. -/
inductive RdmaWay where
  | wait
  | nak
  | go (s : State) (at_ : List (Nat × Nat))
deriving Repr

/-- Pieces of a range that lie in one 64 KiB page each. -/
def rdmaPieces (va n : Nat) : List (Nat × Nat) :=
  ((List.range (n / 65536 + 2)).foldl (fun (t : List (Nat × Nat) × Nat × Nat) _ =>
    let k := min t.2.2 (65536 - t.2.1 % 65536)
    if k == 0 then t else (t.1 ++ [(t.2.1 % 2 ^ 64, k)], t.2.1 + k, t.2.2 - k)) ([], va, n)).1

/-- Translate the pieces in the queue pair's domain (R382): no page of a core (R303), and the permission the request needs. -/
def State.rdmaWay (s : State) (dom die : Nat) (write : Bool) : List (Nat × Nat) → List (Nat × Nat) → RdmaWay
  | [], acc => .go s acc
  | (va, n) :: rest, acc =>
    match s.resolve die 0 dom va with
    | (_, .error _) => .nak
    | (s1, .ok p) =>
      if p.qz || s1.flipClosed edieReplica p then .wait
      else if p.cc == 2 || (if write then !p.w || p.fx else !p.r) then .nak
      else ((s1.chargeWalk dom va).markLeaf dom p write).rdmaWay dom die write rest (acc ++ [(s1.visible edieReplica p (p.at_ va), n)])

/-- The domain that a request to memory runs under; none when its queue pair has none. -/
def State.rdmaDomain (s : State) (qp : Nat) : Option Nat := if s.qpDomain qp < 64 then some (s.qpDomain qp) else none

/-- Store data into the ranges in order, charged to the domain. -/
def State.rdmaStore (s : State) (dom : Nat) (at_ : List (Nat × Nat)) (data : List Byte) : State :=
  (at_.foldl (fun (t : State × List Byte) p => ((t.1.sysStore p.1 (t.2.take p.2)).charge dom 3 p.2, t.2.drop p.2)) (s, data)).1

/-- What a read of a range returns: bytes at the home; the spec states none for a poisoned sector. -/
def State.rdmaBytes (s : State) (p : Nat × Nat) : List Byte :=
  mapIdxList (fun i b => if s.memory.poisoned (p.1 + i) 1 then (Config.freeWord (2 ^ 64 * (s.nextId + 1) + p.1 + i)).setWidth 8 else b)
    (s.memory.bytes p.1 p.2)

/-- A WRITE is performed and answered, unless it must wait. -/
def State.doWrite (s : State) (r : RdmaReq) (data : List Byte) : Option State :=
  match regionOffset? r, s.rdmaDomain r.qp with
  | some off, _ => some (s.windowWrite r off data)
  | none, none => some (s.nak r 2)
  | none, some d =>
    match s.rdmaWay d (s.edieSite (edieOf r.port)) true (rdmaPieces r.va.toNat data.length) [] with
    | .wait => none
    | .nak => some (s.nak r 2)
    | .go s1 at_ => some ((s1.rdmaStore d at_ data).rdmaAck r.port r.qp)

/-- A READ is performed and answered, unless it must wait. -/
def State.doRead (s : State) (r : RdmaReq) (len : Nat) : Option State :=
  match regionOffset? r, s.rdmaDomain r.qp with
  | some off, _ => some (if s.boundTo (off / 16384) r.qp then (s.edieError r.port).nak r 2 else s.edieError r.port)
  | none, none => some (s.nak r 2)
  | none, some d =>
    match s.rdmaWay d (s.edieSite (edieOf r.port)) false (rdmaPieces r.va.toNat len) [] with
    | .wait => none
    | .nak => some (s.nak r 2)
    | .go s1 at_ =>
      let s2 := (s1.charge d 2 len).sends r.qp len
      some (s2.bumpId.send (.rdmaRead r.port r.qp (at_.flatMap s2.rdmaBytes)))

/-- A request is performed, unless it must wait (R307, R311). -/
def State.doRdma (s : State) (j : RdmaJob) : Option State :=
  match j.op with
  | .write data => s.doWrite j.req data
  | .read len => s.doRead j.req len
  | .atomic => some (s.nak j.req 1)
  | .send _ => some (s.rdmaAck j.req.port j.req.qp)

def RdmaJob.sameQueue (a b : RdmaJob) : Bool := a.req.port == b.req.port && a.req.qp == b.req.qp

/-- Requests of one queue pair are performed in the order posted (R382): one that waits holds back those behind it. -/
def State.rdmaDrain (s : State) : State :=
  s.rdmaWaits.foldl (fun (t : State) i =>
    if t.rdmaWaits.any (·.sameQueue i) then { t with rdmaWaits := t.rdmaWaits ++ [i] }
    else
      match t.doRdma i with
      | some t1 => t1
      | none => { t with rdmaWaits := t.rdmaWaits ++ [i] }) { s with rdmaWaits := [] }

/-- A queue pair joins the at most 4 096 of its port (R381). -/
def State.connect (s : State) (port qp : Nat) : Option State :=
  let m := s.module
  if m.connected.contains (port, qp) then some s
  else if 4096 ≤ m.connected.countP (·.1 == port) then none
  else some { s with module := { m with connected := (port, qp) :: m.connected } }

/-- A request arrives on a port, with n bytes of data: it is performed behind those of its queue pair that wait. -/
def State.arrive (s : State) (j : RdmaJob) (n : Nat) : Host.Outcome State Fault Refusal :=
  if !s.running || portCount ≤ j.req.port then .next s
  else
    match s.connect j.req.port j.req.qp with
    | none => .next (s.discard j.req.port)
    | some s1 => .next ({ s1.received j.req.qp n with rdmaWaits := s1.rdmaWaits ++ [j] }.rdmaDrain)

/-- RDMA_WRITE (R313 to R315, R382). -/
def execRdmaWrite (r : RdmaReq) (data : List Byte) (s : State) : Host.Outcome State Fault Refusal := s.arrive ⟨r, .write data⟩ data.length

/-- RDMA_READ (R313, R382). -/
def execRdmaRead (r : RdmaReq) (len : Nat) (s : State) : Host.Outcome State Fault Refusal := s.arrive ⟨r, .read len⟩ 0

/-- RDMA_SEND (R381): received and acknowledged. -/
def execRdmaSend (port qp : Nat) (data : List Byte) (s : State) : Host.Outcome State Fault Refusal :=
  s.arrive ⟨⟨port, qp, 0, 0⟩, .send data⟩ data.length

/-- RDMA_ATOMIC_REQUEST (R381): an invalid-request NAK. -/
def execRdmaAtomicRequest (r : RdmaReq) (s : State) : Host.Outcome State Fault Refusal := s.arrive ⟨r, .atomic⟩ 0

/-! ## TOFS (R377) -/

/-- A measurement: 16 entries, zero with itself, opposite in the other order, each within 4 ns of the true offset. -/
def tofsOk (t : List Int) : Bool :=
  t.length == 16 && (List.range 4).all fun i => (List.range 4).all fun j =>
    let e := t.getD (4 * i + j) 0
    let true_ := Config.regionOffset j - Config.regionOffset i
    (i != j || e == 0) && t.getD (4 * j + i) 0 == -e && decide (e - true_ ≤ 4) && decide (true_ - e ≤ 4)

/-- TOFS_MEASURE (R377): 2³⁰ ns after the last, all 16 entries in one action. -/
def execTofsMeasure (offsets : List Int) (s : State) : Host.Outcome State Fault Refusal :=
  if !s.running || !(tofsOk offsets) || nsOf s.now < s.module.tofsAt + 2 ^ 30 then .next s
  else .next { s with module := { s.module with tofs := mapIdxList (fun i e => (i, e)) offsets, tofsAt := nsOf s.now } }

/-! ## Power and temperature (R387, R388) -/

/-- Withhold matrix and vector issue on a die until a ck. -/
def State.withhold (s : State) (die until_ : Nat) : State :=
  s.modDie die fun d => { d with withheldUntil := max d.withheldUntil until_ }

/-- The maximum total of the module's grade in W, which is mJ in a millisecond (R3, R4). -/
def Module.powerLimit (m : Module) : Nat := if m.gradeB then 64000 else 68000

/-- POWER_LIMIT_WITHHOLD (R387): the draws of the dies and the rest of the module's pass the maximum, and every die that draws more than this one
is withheld already. -/
def execPowerLimitWithhold (die : Nat) (p : Withhold) (s : State) : Host.Outcome State Fault Refusal :=
  let ⟨until_, draws, rest⟩ := p
  let draw (d : Nat) : Nat := (tableGet d draws).getD 0
  let total := (draws.map (·.2)).sum + rest
  let above := draws.any fun p => draw die < p.2 && s.isLive p.1 && (s.die p.1).withheldUntil ≤ s.now
  if !s.running || !(s.isLive die) || !(distinct (draws.map (·.1))) || total ≤ s.module.powerLimit || above then .next s
  else .next (s.withhold die until_)

/-- K-dies have the numbers below 512, E-dies the eight from 512 on (R382, R388). -/
def dieNumbers : Nat := Config.dies + 8

/-- TEMPERATURE_THROTTLE (R388): at 95 °C and below the trip. A die without issue, an E-die or one that is not live, is reported all the same. -/
def execTemperatureThrottle (die temp until_ : Nat) (s : State) : Host.Outcome State Fault Refusal :=
  if !s.running || dieNumbers ≤ die || temp < 95 || 105 ≤ temp then .next s
  else .next ((if die < Config.dies then s.withhold die until_ else s).report 2 die)

/-- The module without power (R388, R389): fuses and the staged firmware remain, and what has left it has left it. -/
def State.unpowered (s : State) : State :=
  { State.reset with
      module := { Module.fresh with fuses := s.module.fuses, fused := s.module.fused, staged := s.module.staged }
      now := s.now
      out := s.out
      nextId := s.nextId
      free := s.free
      steps := s.steps
      agenda := s.agenda }

/-- THERMAL_TRIP (R388): 105 °C on any die, or 95 °C on a stack. -/
def execThermalTrip (stack : Bool) (site temp : Nat) (s : State) : Host.Outcome State Fault Refusal :=
  if s.module.boot == .off || (if stack then Config.dies else dieNumbers) ≤ site || temp < (if stack then 95 else 105) then .next s
  else .next ((s.report (if stack then 4 else 3) site).unpowered)

end Sys2Proof.Machine
end

