-- ==== Sys2Proof/Machine/Aes.lean ====
section
/-! DEFINITION. Sys2Proof/Machine/Aes.lean: AES-256 (FIPS 197) in Galois/counter mode (NIST SP 800-38D), which protects the messages of a session
(R391). -/

namespace Sys2Proof.Machine

/-! ## The cipher -/

/-- Twice an element of the field modulo x⁸ + x⁴ + x³ + x + 1, as a number below 256. -/
def fieldTwice (x : Nat) : Nat := if x < 128 then 2 * x else (2 * x) ^^^ 0x11B

/-- The substitution box (FIPS 197), a row of 16 bytes a number, its first byte highest: the inverse in the field, its rotations to the left by 0 to
4 and 0x63, added up. -/
def aesBox : List Nat :=
  [0x637C777BF26B6FC53001672BFED7AB76, 0xCA82C97DFA5947F0ADD4A2AF9CA472C0, 0xB7FD9326363FF7CC34A5E5F171D83115, 0x04C723C31896059A071280E2EB27B275,
   0x09832C1A1B6E5AA0523BD6B329E32F84, 0x53D100ED20FCB15B6ACBBE394A4C58CF, 0xD0EFAAFB434D338545F9027F503C9FA8, 0x51A3408F929D38F5BCB6DA2110FFF3D2,
   0xCD0C13EC5F974417C4A77E3D645D1973, 0x60814FDC222A908846EEB814DE5E0BDB, 0xE0323A0A4906245CC2D3AC629195E479, 0xE7C8376D8DD54EA96C56F4EA657AAE08,
   0xBA78252E1CA6B4C6E8DD741F4BBD8B8A, 0x703EB5664803F60E613557B986C11D9E, 0xE1F8981169D98E949B1E87E9CE5528DF, 0x8CA1890DBFE6426841992D0FB054BB16]

def aesSub (x : Byte) : Byte := BitVec.ofNat 8 (aesBox.getD (x.toNat / 16) 0 / 2 ^ (8 * (15 - x.toNat % 16)))

def xorBytes (a b : List Byte) : List Byte := List.zipWith (· ^^^ ·) a b

/-- What word i of the key schedule adds to the word eight before it, from the word before it. -/
def aesTurn (i : Nat) (w : List Byte) : List Byte :=
  match i % 8 with
  | 0 => xorBytes ((w.drop 1 ++ w.take 1).map aesSub) [BitVec.ofNat 8 (2 ^ (i / 8 - 1)), 0, 0, 0]
  | 4 => w.map aesSub
  | _ => w

/-- The key schedule grows to i words, newest first. -/
def aesGrow : Nat → List (List Byte) → List (List Byte)
  | 0, ws => ws
  | n + 1, ws => aesGrow n (xorBytes (ws.getD 7 []) (aesTurn ws.length (ws.getD 0 [])) :: ws)

/-- The 15 round keys of a 32-byte key. -/
def aesKeys (key : List Byte) : List (List Byte) :=
  let ws := (aesGrow 52 ((List.range 8).map fun i => bytesAt key (4 * i) 4).reverse).reverse
  (List.range 15).map fun r => ((ws.drop (4 * r)).take 4).flatten

/-- Row r of the block, whose bytes run down its four columns, turns left by r. -/
def aesShift (b : List Byte) : List Byte := (List.range 16).map fun i => b.getD ((i + 4 * (i % 4)) % 16) 0

/-- A column times 3x³ + x² + x + 2. -/
def aesMix (b : List Byte) : List Byte :=
  (List.range 16).map fun i =>
    let at_ (j : Nat) : Nat := (b.getD (i / 4 * 4 + (i + j) % 4) 0).toNat
    BitVec.ofNat 8 (fieldTwice (at_ 0 ^^^ at_ 1) ^^^ at_ 1 ^^^ at_ 2 ^^^ at_ 3)

/-- One block under the round keys. -/
def aesBlock (keys : List (List Byte)) (block : List Byte) : List Byte :=
  let start := xorBytes block (keys.getD 0 [])
  let most := (List.range 13).foldl (fun b r => xorBytes (aesMix (aesShift (b.map aesSub))) (keys.getD (r + 1) [])) start
  xorBytes (aesShift (most.map aesSub)) (keys.getD 14 [])

/-! ## The mode -/

/-- A product of the field of 128 bits, whose top bit is the coefficient of 1. -/
def gcmTimes (x y : BitVec 128) : BitVec 128 :=
  ((List.range 128).foldl (fun (p : BitVec 128 × BitVec 128) i =>
    (if x.getMsbD i then p.1 ^^^ p.2 else p.1, p.2 >>> 1 ^^^ (if p.2.getLsbD 0 then (0xE1#128) <<< 120 else 0))) (0, y)).1

/-- Bytes as blocks of 16, the last filled with zeros. -/
def gcmBlocks (b : List Byte) : List (List Byte) := (List.range ((b.length + 15) / 16)).map fun i => padTo 16 (bytesAt b (16 * i) 16)

def blockBits (b : List Byte) : BitVec 128 := BitVec.ofNat 128 (leNat b.reverse)

/-- The hash of the header and the ciphertext under the hash key. -/
def gcmHash (h : BitVec 128) (header cipher : List Byte) : BitVec 128 :=
  let lengths := bigEndian 8 (8 * header.length) ++ bigEndian 8 (8 * cipher.length)
  (gcmBlocks header ++ gcmBlocks cipher ++ [lengths]).foldl (fun y b => gcmTimes (y ^^^ blockBits b) h) 0

/-- The text under the counter blocks of a 12-byte nonce from 2 on. -/
def gcmStream (keys : List (List Byte)) (nonce text : List Byte) : List Byte :=
  mapIdxList (fun i b => xorBytes b (aesBlock keys (nonce ++ bigEndian 4 (i + 2))))
    ((List.range ((text.length + 15) / 16)).map fun i => bytesAt text (16 * i) 16) |>.flatten

/-- The 16-byte tag. -/
def gcmTag (keys : List (List Byte)) (nonce header cipher : List Byte) : List Byte :=
  let h := blockBits (aesBlock keys (List.replicate 16 0))
  xorBytes (bigEndian 16 (gcmHash h header cipher).toNat) (aesBlock keys (nonce ++ bigEndian 4 1))

/-- Ciphertext and tag. -/
def gcmSeal (key nonce header text : List Byte) : List Byte :=
  let keys := aesKeys key
  let cipher := gcmStream keys nonce text
  cipher ++ gcmTag keys nonce header cipher

/-- The text, when the tag at the end is the right one. -/
def gcmUnseal (key nonce header sealed_ : List Byte) : Option (List Byte) :=
  let keys := aesKeys key
  let cipher := sealed_.take (sealed_.length - 16)
  if 16 ≤ sealed_.length && sealed_.drop (sealed_.length - 16) == gcmTag keys nonce header cipher then some (gcmStream keys nonce cipher) else none

end Sys2Proof.Machine
end

