-- ==== Sys2Proof/Machine/P384.lean ====
section
/-! DEFINITION. Sys2Proof/Machine/P384.lean: Diffie-Hellman over P-384 (FIPS 186, SP 800-56A), by which a session's keys are agreed (R391). A point
of y² = x³ − 3x + b is a pair of residues, none the point at infinity. -/

namespace Sys2Proof.Machine

/-- The field's modulus, the curve's b and the order of the base point. -/
def p384P : Nat := 2 ^ 384 - 2 ^ 128 - 2 ^ 96 + 2 ^ 32 - 1
def p384B : Nat := 0xb3312fa7e23ee7e4988e056be3f82d19181d9c6efe8141120314088f5013875ac656398d8a2ed19d2a85c8edd3ec2aef
def p384Order : Nat := 2 ^ 384 - 0x389cb27e0bc8d220a7e5f24db74f58851313e695333ad68d

/-- The base point. -/
def p384Base : Nat × Nat :=
  (0xaa87ca22be8b05378eb1c71ef320ad746e1d3b628ba79b9859f741e082542a385502f25dbf55296c3a545e3872760ab7,
   0x3617de4a96262c6f5d9e98bf9292dc29f8f41dbd289a147ce9da3113b5f0b8c00a60b1ce1d7e819d7a431d7c90ea0e5f)

def p384On (a : Nat × Nat) : Bool :=
  a.1 < p384P && a.2 < p384P && a.2 * a.2 % p384P == (a.1 ^ 3 + (p384P - 3) * a.1 + p384B) % p384P

/-- The third point of a line of some slope through two points, mirrored. -/
def p384Through (slope : Nat) (a b : Nat × Nat) : Nat × Nat :=
  let x := (slope * slope + 2 * p384P - a.1 - b.1) % p384P
  (x, (slope * (a.1 + p384P - x) + p384P - a.2) % p384P)

def p384Sum (a b : Option (Nat × Nat)) : Option (Nat × Nat) :=
  match a, b with
  | none, q => q
  | p, none => p
  | some p, some q =>
    let ratio (n d : Nat) : Nat := n * powMod p384P d (p384P - 2) % p384P
    if p.1 != q.1 then some (p384Through (ratio (q.2 + p384P - p.2) (q.1 + p384P - p.1)) p q)
    else if p.2 != q.2 || p.2 == 0 then none
    else some (p384Through (ratio (3 * p.1 * p.1 + p384P - 3) (2 * p.2)) p q)

/-- n times a point, n below 2^bits. -/
def p384Times (a : Option (Nat × Nat)) (n : Nat) : Nat → Option (Nat × Nat)
  | 0 => none
  | bits + 1 =>
    let half := p384Times a (n / 2) bits
    if n % 2 == 1 then p384Sum (p384Sum half half) a else p384Sum half half

/-- A point as 96 bytes: x, then y. -/
def p384Bytes (a : Nat × Nat) : List Byte := bigEndian 48 a.1 ++ bigEndian 48 a.2

/-- The point that 96 bytes name, when it lies on the curve. -/
def p384Point (b : List Byte) : Option (Nat × Nat) :=
  let a := (leNat (bytesAt b 0 48).reverse, leNat (bytesAt b 48 48).reverse)
  if b.length == 96 && p384On a then some a else none

/-- The public share of a private number. -/
def p384Share (d : Nat) : List Byte := p384Bytes ((p384Times (some p384Base) d 384).getD (0, 0))

/-- The secret that a private number and the other side's point agree on. -/
def p384Secret (d : Nat) (q : Nat × Nat) : List Byte := bigEndian 48 ((p384Times (some q) d 384).getD (0, 0)).1

end Sys2Proof.Machine
end

