-- ==== Sys2Proof/Machine/Session.lean ====
section
/-! DEFINITION. Sys2Proof/Machine/Session.lean: the keys of a management session and the messages under them (R391, R393, R395): the key schedule of
DMTF DSP0274 1.3 over HMAC-SHA384 and HKDF (FIPS 198-1, RFC 5869), and the secured messages of DSP0277 (log 76). -/

namespace Sys2Proof.Machine

/-! ## HMAC and HKDF -/

def hmac384 (key message : List Byte) : List Byte :=
  let k := padTo 128 (if 128 < key.length then sha384 key else key)
  sha384 (k.map (· ^^^ 0x5C) ++ sha384 (k.map (· ^^^ 0x36) ++ message))

/-- The blocks of HKDF-Expand from number i on, after the last one. -/
def hkdfBlocks (prk info : List Byte) : Nat → Nat → List Byte → List Byte
  | 0, _, _ => []
  | n + 1, i, last =>
    let block := hmac384 prk (last ++ info ++ leBytes 1 i)
    block ++ hkdfBlocks prk info n (i + 1) block

def hkdfExpand (prk info : List Byte) (n : Nat) : List Byte := (hkdfBlocks prk info ((n + 47) / 48) 1 []).take n

/-! ## The key schedule (R391) -/

def asciiBytes (s : String) : List Byte := s.toList.map fun c => BitVec.ofNat 8 c.toNat

/-- n bytes derived from a secret under a label and the digest of a transcript. -/
def derived (secret : List Byte) (n : Nat) (label : String) (digest : List Byte) : List Byte :=
  hkdfExpand secret (leBytes 2 n ++ asciiBytes "spdm1.3 " ++ asciiBytes label ++ digest) n

/-- What ECDHE agreed on, as the secret of the handshake. -/
def handshakeSecret (agreed : List Byte) : List Byte := hmac384 (List.replicate 48 0) agreed

/-- The two directions under one secret, from the digest of the transcript so far. -/
def keysFrom (id secret handshake : List Byte) (stage : String) (digest : List Byte) : Keys :=
  ⟨id, handshake, ⟨derived secret 48 ("req " ++ stage ++ " data") digest, 0⟩, ⟨derived secret 48 ("rsp " ++ stage ++ " data") digest, 0⟩⟩

/-- The keys of a handshake. -/
def handshakeKeys (id agreed digest : List Byte) : Keys := keysFrom id (handshakeSecret agreed) (handshakeSecret agreed) "hs" digest

/-- The keys of the open session that follow them. -/
def Keys.applied (k : Keys) (digest : List Byte) : Keys :=
  let master := hmac384 (derived k.handshake 48 "derived" []) (List.replicate 48 0)
  keysFrom k.id master k.handshake "app" digest

/-- The MAC of a transcript's digest under one side's finished key. -/
def Traffic.verify (c : Traffic) (digest : List Byte) : List Byte := hmac384 (derived c.secret 48 "finished" []) digest

/-! ## Secured messages (R391, R395) -/

def Traffic.key (c : Traffic) : List Byte := derived c.secret 32 "key" []

/-- The nonce of the next message: the message count, which no message carries, over the direction's own start value. -/
def Traffic.nonce (c : Traffic) : List Byte := xorBytes (derived c.secret 12 "iv" []) (leBytes 12 c.count)

/-- The header of a secured message: the session, and how many bytes follow. The 16 bits of the lengths hold no more of them, though R395 has
messages of more than 65 535 bytes (log 91). -/
def Keys.header (k : Keys) (n : Nat) : List Byte := k.id ++ leBytes 2 n

/-- Application data as the part's next secured message. -/
def Keys.seal (k : Keys) (data : List Byte) : List Byte :=
  let text := leBytes 2 data.length ++ data
  let head := k.header (text.length + 16)
  head ++ gcmSeal k.rsp.key k.rsp.nonce head text

/-- The application data of the requester's next secured message; random bytes may follow it. -/
def Keys.unseal (k : Keys) (message : List Byte) : Option (List Byte) :=
  let head := message.take 6
  if head != k.header (message.length - 6) then none
  else
    match gcmUnseal k.req.key k.req.nonce head (message.drop 6) with
    | none => none
    | some text =>
      if leAt text 0 2 == (text.length - 2) % 65536 then some (text.drop 2)
      else if leAt text 0 2 + 2 ≤ text.length then some (bytesAt text 2 (leAt text 0 2))
      else none

def Session.keys? : Session → Option Keys
  | .none => Option.none
  | .opening k | .open_ k => some k

def Session.isOpen : Session → Bool
  | .open_ _ => true
  | _ => false

/-- Change the keys of a session. -/
def Session.modKeys (x : Session) (f : Keys → Keys) : Session :=
  match x with
  | .none => .none
  | .opening k => .opening (f k)
  | .open_ k => .open_ (f k)

/-- One more message has gone out, or has come in. -/
def Session.sent (x : Session) : Session := x.modKeys fun k => { k with rsp := { k.rsp with count := k.rsp.count + 1 } }
def Session.received (x : Session) : Session := x.modKeys fun k => { k with req := { k.req with count := k.req.count + 1 } }

/-- A message after its length, as it travels on TCP (R391). -/
def framed (message : List Byte) : List Byte := leBytes 4 message.length ++ message

/-- The secured message that carries application data, on TCP; none without an open session. -/
def Session.record (x : Session) (data : List Byte) : List Byte :=
  match x with
  | .open_ k => framed (k.seal data)
  | _ => []

def State.withSession (s : State) (x : Session) : State := { s with module := { s.module with session := x } }

/-- A message for the session came in: its application data. -/
def State.unsealed (s : State) (message : List Byte) : Option (List Byte × State) :=
  (s.module.session.keys?.bind (·.unseal message)).map fun data => (data, s.withSession s.module.session.received)

/-- Application data that is an SPDM message and no management request: a version of SPDM and the code of a request (log 76). -/
def spdmData (data : List Byte) : Bool := (leAt data 0 1 == 0x13 || leAt data 0 1 == 0x10) && 0x80 ≤ leAt data 1 1

/-- A message is one of the session. -/
def Session.owns (x : Session) (message : List Byte) : Bool := x.keys?.any fun k => message.take 4 == k.id

end Sys2Proof.Machine
end

