-- ==== Sys2Proof/Machine/Withdrawal.lean ====
section
/-! DEFINITION. Sys2Proof/Machine/Withdrawal.lean: the die requests (R383, R411), the withdrawal of a die (R384, R385) and its return (R386). -/

namespace Sys2Proof.Machine

/-- A response message (R395). -/
def mgmtResponse (op : Nat) (tag : Word) (status : Nat) (payload : List Byte) : List Byte :=
  leBytes 2 (op % 2 ^ 15 + 2 ^ 15) ++ leBytes 2 0 ++ bytesOfWord tag ++ leBytes 4 status ++ leBytes 4 payload.length ++ payload

/-- Answer a management request (R395) in a secured message of the session: its opcode with bit 15 set, its tag, status and payload. -/
def State.respond (s : State) (op : Nat) (tag : Word) (status : Nat) (payload : List Byte) : State :=
  let r := mgmtResponse op tag status payload
  (s.send (.mgmt r (s.module.session.record r))).withSession s.module.session.sent

/-- The status of DRESET and RETIRE by the state of the die (R411); the die is a K-die number. -/
def requestStatus (retire : Bool) : DieStatus → Nat
  | .live => 0
  | .reset => if retire then 0 else 1
  | .retired | .testFailed | .disabled => if retire then 1 else 2

/-! ## Step 1 (R384) -/

/-- Launches with a group, a copy or an open routing window on a die. -/
def State.launchesOn (s : State) (die : Nat) : List Launch :=
  s.launches.filter fun l => !l.ended &&
    ((s.groups.any fun g => g.key.seq == l.seq && g.die == die) || (s.copies.any fun k => k.g.seq == l.seq && k.die == die) ||
     s.cores.any fun k => k.die == die && k.windows.any fun w => w.open_ && w.owner.seq == l.seq)

/-- A port whose resident group stands on the die. -/
def State.portOn (s : State) (die dom table port : Nat) : Bool :=
  match s.usable dom table port with
  | some (_, g) => g.die == die
  | none => false

/-- Claims to ports on the die are never answered (R384). -/
def State.dropClaims (s : State) (die : Nat) : State :=
  { s with
      claims := s.claims.filter fun k => !(s.portOn die k.dom k.table k.port)
      ports := s.ports.map fun p => if s.portOn die p.dom p.table p.port then { p with waiting := [], inbox := [] } else p }

/-- Step 1: the launches on the die end with 0x0010 and detail 0x8000_0000 plus its number. -/
def State.endLaunchesOn (s : State) (die : Nat) : State :=
  (s.launchesOn die).foldl (fun (t : State) l => (t.endLaunch l.seq 0x0010 (0x80000000 + die)).settleLaunch l.seq) (s.dropClaims die)

/-- DRESET or RETIRE of a die, answered at once unless the die is live: then the withdrawal starts, and the answer follows its end. -/
def State.dieRequest (s : State) (retire : Bool) (tag : Word) (die : Nat) : Host.Outcome State Fault Refusal :=
  let op := if retire then 0x0011 else 0x0010
  if s.dies.any (·.withdrawal.isSome) then .next s
  else if Config.dies ≤ die then .next (s.respond op tag 2 (leBytes 4 0))
  else
    match (s.die die).status with
    | .live => .next ((s.endLaunchesOn die).modDie die fun d => { d with withdrawal := some ⟨retire, tag, s.now⟩ })
    | st =>
      let s1 := if retire && st == .reset then s.modDie die fun d => { d with status := .retired } else s
      .next (s1.respond op tag (requestStatus retire st) (leBytes 4 0))

/-- DRESET (R383, R384, R411). -/
def execDreset (tag : Word) (die : Nat) (s : State) : Host.Outcome State Fault Refusal := s.dieRequest false tag die

/-- RETIRE (R383, R384, R411). -/
def execRetire (tag : Word) (die : Nat) (s : State) : Host.Outcome State Fault Refusal := s.dieRequest true tag die

/-! ## Steps 2 to 6 (R384) -/

/-- Sectors of a line at its home are poisoned (R385). -/
def Memory.poisonLine (m : Memory) (line : Nat) : Memory :=
  (List.range 8).foldl (fun m i => m.poisonSector (8 * line + i)) m

/-- Poisoning is charged to set 64 (R396). -/
def State.poisonLine (s : State) (line : Nat) : State := { s with memory := s.memory.poisonLine line }.charge 64 3 128

/-- A line homed elsewhere than its die (R384). -/
def State.elsewhere (s : State) (die : Nat) (l : CacheLine) : Bool := s.homeOf (stackOf (128 * l.line)) != die

/-- The die must give something back for a line: dirty bytes of an SC or CP line, or an HC line in state O. -/
def State.owes (s : State) (die : Nat) (l : CacheLine) : Bool := if l.sc then l.dirty != 0 else s.memory.dirAt l.line == .o die

/-- Step 2 gives it back: an HC line wherever its home, the bytes of another when that is elsewhere. -/
def State.returns2 (s : State) (die : Nat) (l : CacheLine) : Bool := s.owes die l && (!l.sc || s.elsewhere die l)

/-- Steps 2 and 3 for one line: given back, or poisoned at its home. -/
def State.settleLine (s : State) (die : Nat) (back : Bool) (l : CacheLine) : State :=
  if !(s.owes die l) then s
  else if !back then
    let s1 := s.poisonLine l.line
    if l.sc then s1 else s1.withDir (s1.memory.setDir l.line .i)
  else if l.sc then s.writeBack die l
  else s.returnOwner l.line

/-- Settle lines of a die, whose copies are then clean. -/
def State.settleLines (s : State) (die : Nat) (which back : CacheLine → Bool) : State :=
  (((s.die die).lines.filter which).foldl (fun (t : State) l => t.settleLine die (back l) l) s).modDie die fun d =>
    { d with lines := d.lines.map fun l => if which l then { l with dirty := 0 } else l }

/-- What groups of the die have left in flight, of launches that have not ended: one that has lost its writes or not, each on its own (R326). -/
def State.stranded (s : State) (die : Nat) : List Orphan :=
  s.launches.flatMap fun l => if l.ended then [] else l.orphans.filter (·.die == die)

/-- The lines of memory that an access touches. -/
def Access.lines (a : Access) : List Nat :=
  (a.units.filterMap fun u => match u.place with
    | .mem pa _ => some (lineOf pa)
    | _ => none).eraseDups

/-- Step 3 for what has not even reached a line or its home: the writes are lost, and their lines poisoned. -/
def State.poisonSent (s : State) (die : Nat) : State :=
  let lost := ((s.memory.sent.filter (·.src == die)).map fun p => lineOf p.pa) ++ (s.stranded die).flatMap fun o => o.acc.lines
  let s1 := lost.eraseDups.foldl State.poisonLine s
  { s1 with memory := { s1.memory with sent := s1.memory.sent.filter (·.src != die) } }

/-- The home role has passed (R385): packets on their way go to the new home, which has its own at hand. -/
def State.retarget (s : State) : State :=
  let s1 := { s with memory := { s.memory with sent := s.memory.sent.map fun (p : Packet) =>
    if p.only.isSome then { p with only := some (s.homeOf (stackOf p.pa)) } else p } }
  (s1.memory.sent.filter fun p => s1.homeOf (stackOf p.pa) == p.src).foldl (fun (t : State) p => t.homeApply p.src p) s1

/-- The directories name the die no more. -/
def Memory.forgetDie (m : Memory) (die : Nat) : Memory := (m.dir.map (·.line)).reverse.foldl (fun m l => m.leave l die) m

/-- No packet waits on the die's writes (R296, R384). -/
def Packet.excuse (die : Nat) (p : Packet) : Packet := { p with deps := p.deps.filter (·.1 != die) }

/-- The die leaves a channel: its arrival and value are withdrawn, and nothing waits for it (R252). -/
def Channel.without (die : Nat) (k : Channel) : Channel :=
  { k with arrivals := k.arrivals.filter (·.1 != die), members := k.members.filter (· != die) }

/-- Step 4 outside the die. -/
def State.excuseDie (s : State) (die : Nat) : State :=
  { s with
      channels := s.channels.map (Channel.without die)
      eops := s.eops.map fun (o : EOp) => { o with due := o.due.filter (· != die) }
      worklists := s.worklists.map fun (w : Worklist) =>
        { w with samples := w.samples.map fun (x : Sample) => { x with due := x.due.filter (· != die) } }
      memory := ({ s.memory with sent := s.memory.sent.map (Packet.excuse die), log := s.memory.log.map (Packet.excuse die) } : Memory).forgetDie die
      launches := s.launches.map fun (l : Launch) => { l with orphans := l.orphans.filter (·.die != die) }
      cores := s.cores.filter (·.die != die) }

/-- Steps 4 to 6: masked, and reset or powered down; the home of its stack follows (R385). What it had sent and its flip replica's place in
the panel are kept for its return. -/
def State.maskDie (s : State) (die : Nat) (retire : Bool) : State :=
  let d := s.die die
  ((s.excuseDie die).setDie { DieSt.fresh die with status := if retire then .retired else .reset, masked := true, sent := d.sent,
                                                    unresponsive := d.unresponsive, leftReset := d.leftReset }).retarget

/-- Tasks of a die's units. -/
def DieSt.tasksHeld (d : DieSt) : Nat := (d.units.map (·.tasks.length)).sum

/-- The withdrawal ends: its request is answered with the tasks lost. -/
def State.withdrawn (s : State) (die : Nat) (w : Withdrawal) : State :=
  (s.maskDie die w.retire).respond (if w.retire then 0x0011 else 0x0010) w.tag 0 (leBytes 4 (s.die die).tasksHeld)

/-- ck of 50 µs. -/
def writeBackLimit : Nat := 90000

/-- What the die has sent reaches its homes. -/
def State.landed (s : State) (die : Nat) : State :=
  (s.memory.sent.filter (·.src == die)).foldl (fun (t : State) p => t.homeApply (t.homeOf (stackOf p.pa)) p) s

/-- WITHDRAW_WRITEBACK_DONE (R384): within the limit every line that step 2 gives back is on its way home; once all that the die has sent has
arrived, its own stack's dirty lines, which step 2 does not write back, are poisoned, and the die is masked. -/
def execWithdrawWritebackDone (die : Nat) (s : State) : Host.Outcome State Fault Refusal :=
  match (s.die die).withdrawal with
  | none => .next s
  | some w =>
    if w.started + writeBackLimit < s.now then .next s
    else
      let s1 := s.settleLines die (s.returns2 die) fun _ => true
      if s1.memory.sent.any (·.src == die) || !(s1.stranded die).isEmpty then .next s1
      else .next ((s1.settleLines die (s1.owes die) fun _ => false).withdrawn die w)

/-- WITHDRAW_WRITEBACK_TIMEOUT (R384): which of the lines were given back in time is free; the others are poisoned. -/
def execWithdrawWritebackTimeout (die : Nat) (s : State) : Host.Outcome State Fault Refusal :=
  match (s.die die).withdrawal with
  | none => .next s
  | some w =>
    if s.now < w.started + writeBackLimit then .next s
    else
      let back (l : CacheLine) : Bool :=
        s.returns2 die l && (Config.freeWord (2 ^ 64 * (s.nextId + 1) + 2 * l.line + (if l.rlc then 1 else 0))).getLsbD 0
      .next (((s.poisonSent die).settleLines die (s.owes die) back).bumpId.landed die |>.withdrawn die w)

/-! ## REINSTATE (R386) -/

/-- The die has applied every write that any live die has, and its own earlier ones are behind every die. -/
def Packet.rejoin (die : Nat) (p : Packet) : Packet := { p with applied := die :: p.applied, all := p.all || p.src == die }

/-- The die rejoins: vectors loaded, its counter at 0 everywhere, the flip replica as the E-dies hold it, and then the mask cleared. -/
def State.rejoin (s : State) (die : Nat) : State :=
  let m := s.memory
  let s1 := { s with memory := ({ m with log := m.log.map (Packet.rejoin die) } : Memory).gc }
  (s1.modDie die fun d => { d with status := .live, masked := false, sent := 0, unresponsive := false, leftReset := s.now,
                                   flips := (s.die edieReplica).flips }).retarget

/-- REINSTATE (R383, R386, R411): the outcome of the self-test is free. It waits for a withdrawal and for flips under way. -/
def execReinstate (tag : Word) (die : Nat) (s : State) : Host.Outcome State Fault Refusal :=
  if s.dies.any (·.withdrawal.isSome) || !s.flips.isEmpty then .next s
  else if Config.dies ≤ die then .next (s.respond 0x0012 tag 2 [])
  else
    match (s.die die).status with
    | .live => .next (s.respond 0x0012 tag 1 [])
    | .reset =>
      if (Config.freeWord (2 ^ 64 * (s.nextId + 1))).getLsbD 0 then .next (s.bumpId.respond 0x0012 tag 2 [])
      else .next ((s.bumpId.rejoin die).respond 0x0012 tag 0 [])
    | _ => .next (s.respond 0x0012 tag 2 [])

end Sys2Proof.Machine
end

