-- ==== Sys2Proof/Machine/Boot.lean ====
section
/-! DEFINITION. Sys2Proof/Machine/Boot.lean: measured boot (R389, R390, R377, R379), the energy measurement (R396 to R398) and errors (R401,
R217, R385). -/

namespace Sys2Proof.Machine

/-! ## Firmware images (R390) -/

/-- An image with its header, the fields in the order R390 gives them. -/
def imageBytes (i : FwImage) : List Byte :=
  bytesOfWord i.kind ++ bytesOfWord i.version ++ i.edKey ++ i.mlKey ++ i.edSig ++ i.mlSig ++ i.body

/-- Bytes of a header. -/
def headerBytes : Nat := 4 + 4 + 32 + 1952 + 64 + 3309

/-- The image that some bytes are. -/
def parseImage (b : List Byte) : FwImage :=
  { kind := BitVec.ofNat 32 (leAt b 0 4), version := BitVec.ofNat 32 (leAt b 4 4), edKey := bytesAt b 8 32, mlKey := bytesAt b 40 1952,
    edSig := bytesAt b 1992 64, mlSig := bytesAt b 2056 3309, body := b.drop headerBytes }

/-- The message that both signatures are taken over. -/
def signedMessage (i : FwImage) : List Byte := sha384 i.body ++ bytesOfWord i.kind ++ bytesOfWord i.version

/-- The fused security version of an image kind: of the fuse block, or as FUSESVN has raised it. -/
def Module.fusedVersion (m : Module) (kind : Word) : Word :=
  let v := (tableGet kind m.fused).getD 0
  let f := (m.fuses.map (·.svn)).getD 0
  if v.toNat < f.toNat then f else v

/-- The four conditions under which an image runs (R390). -/
def Module.runs (m : Module) (i : FwImage) : Bool :=
  match m.fuses with
  | none => false
  | some f =>
    sha384 i.edKey == f.edDigest && sha384 i.mlKey == f.mlDigest && ed25519Verify i.edKey (signedMessage i) i.edSig &&
      mldsaVerify i.mlKey (signedMessage i) i.mlSig && (m.fusedVersion i.kind).toNat ≤ i.version.toNat

/-! ## Measured boot (R389) -/

/-- Extend a measurement register by some content. -/
def Module.extend (m : Module) (reg : Nat) (content : List Byte) : Module :=
  { m with meas := updAt reg (fun r => sha384 (r ++ sha384 content)) m.meas }

/-- What a stage measures: the register, the content, and the image that must pass R390 to run. -/
structure BootStage where
  reg : Nat
  content : List Byte
  image : Option FwImage
deriving DecidableEq, Repr

def imageStage (reg : Nat) (i : FwImage) : BootStage := ⟨reg, imageBytes i, some i⟩

/-- The fuse block as MEAS0 takes it: digests, security version, versions raised since, grade, a bit for each disabled die (R2, R389; log 75). -/
def fuseBytes (f : Fuses) (raised : List (Word × Word)) : List Byte :=
  f.edDigest ++ f.mlDigest ++ bytesOfWord f.svn ++ (raised.flatMap fun p => bytesOfWord p.1 ++ bytesOfWord p.2) ++
    [if f.gradeB then 1 else 0] ++ leBytes 64 (f.disabled.map fun d => 2 ^ d).sum

/-- The image that boot takes where it reads i: the staged one of its kind, if any (R394). -/
def stagedFor (staged : List (List Byte)) (i : FwImage) : FwImage := ((staged.map parseImage).find? (·.kind == i.kind)).getD i

/-- The stages in order. -/
def Module.stages (m : Module) (b : BootImages) : List BootStage :=
  let pick := stagedFor m.staged
  [⟨0, fuseBytes b.fuses m.fused, none⟩, imageStage 1 (pick b.controller)] ++ (b.edies.map fun i => imageStage 2 (pick i)) ++
    [imageStage 3 (pick b.mdie), imageStage 4 (pick b.kdie), imageStage 5 (pick b.crown)] ++
    (b.handlers.map fun i => imageStage 6 (pick i)) ++ [⟨7, b.config, none⟩]

/-- Boot stage by stage: each is measured before it runs; the first that fails its checks ends the boot. -/
def bootStages (m : Module) : List BootStage → Module × Bool
  | [] => (m, true)
  | x :: xs =>
    let m1 := m.extend x.reg x.content
    match x.image with
    | none => bootStages m1 xs
    | some i => if m1.runs i then bootStages m1 xs else (m1, false)

/-- Entry (i, j) of the measurement at boot: within 4 ns of the true offset, by an error that is free. -/
def bootOffset (free i j : Nat) : Int :=
  let err (a b : Nat) : Int := ((Config.freeWord (2 ^ 64 * (free + 1) + 4 * a + b)).toNat % 9 : Nat) - 4
  let e : Int := if i == j then 0 else if i < j then err i j else -(err j i)
  Config.regionOffset j - Config.regionOffset i + e

/-- The parts of a boot fit the grade, the table of stages, and the fuses as every power-on has found them (R1, R2, R389). -/
def Module.bootFits (m : Module) (b : BootImages) : Bool :=
  let f := b.fuses
  (m.fuses.isNone || m.fuses == some f) && f.edDigest.length == 48 && f.mlDigest.length == 48 && distinct f.disabled &&
    f.disabled.all (· < Config.dies) && f.disabled.length == (if f.gradeB then 32 else 0) &&
    b.edies.length == 8 && b.handlers.length == 3 && 48 ≤ b.config.length && b.selfTestFail.all (· < Config.dies)

/-- Code objects of the trap handler by width (R354). -/
def handlerTable (stages : List BootStage) : List (Nat × List Byte) :=
  let hs := (stages.filter (·.reg == 6)).map fun x => ((x.image.map (·.body)).getD [])
  [(16, hs.getD 0 []), (32, hs.getD 1 []), (64, hs.getD 2 [])]

/-- POWER_ON (R389, R390): everything but fuses and the staged images starts anew; the module runs, or enters recovery. The configuration blob
begins with the requester root digest (R393; log 75). -/
def execPowerOn (b : BootImages) (s : State) : Host.Outcome State Fault Refusal :=
  if !(s.module.bootFits b) then .next s
  else
    let s0 := s.unpowered.bumpId
    let m0 := { s0.module with fuses := some b.fuses, rootDigest := b.config.take 48, poweredAt := s.now, tofsAt := nsOf s.now }
    let stages := m0.stages b
    let r := bootStages m0 stages
    if !r.2 then .next { s0 with module := { r.1 with boot := .recovery } }
    else
      let off (status : DieStatus) (d : Nat) : DieSt := { DieSt.fresh d with status := status, masked := true, leftReset := s.now }
      let failed := b.selfTestFail.eraseDups.filter fun d => !(b.fuses.disabled.contains d)
      .next { s0 with
        dies := b.fuses.disabled.map (off .disabled) ++ failed.map (off .testFailed)
        module := { r.1 with
          boot := .running
          handlers := handlerTable stages
          energyAt := nsOf s.now
          tofs := (List.range 16).map fun n => (n, bootOffset s.nextId (n / 4) (n % 4)) } }

/-! ## Energy (R396 to R398) -/

/-- Weighted activity of a domain since the last boundary: ck, MAC and bytes. -/
def Module.activity (m : Module) (dom : Nat) : Nat :=
  let now := (m.account dom).counts
  let old := ((m.boundary.find? (·.dom == dom)).map (·.counts)).getD (Vector.replicate 8 0)
  ((List.range 6).map fun i => Config.energyWeight (m.meas.getD 1 []) i * (now.getD i 0 - old.getD i 0).toNat).sum

/-- Millijoules that each of the 65 sets receives: whole shares in proportion to activity, the remainder to set 64. -/
def Module.shares (m : Module) (mj : Nat) : List Nat :=
  let acts := (List.range 64).map m.activity
  let total := acts.sum
  let given := acts.map fun a => if total == 0 then 0 else mj * a / total
  given ++ [mj - given.sum]

/-- ENERGY_MEASURE (R397): each millisecond, within what the maximum of the grade gives in one (R3, R4); the accounts as they then stand are what
ACCT reads (R398). -/
def execEnergyMeasure (mj : Nat) (s : State) : Host.Outcome State Fault Refusal :=
  if !s.running || nsOf s.now < s.module.energyAt + 1000000 || s.module.powerLimit < mj then .next s
  else
    let s1 := (mapIdxList (fun i (e : Nat) => (i, e)) (s.module.shares mj)).foldl (fun (t : State) p => t.charge p.1 6 p.2) s
    .next { s1 with module := { s1.module with boundary := s1.module.accounts, energyAt := s.module.energyAt + 1000000 } }

/-! ## Errors (R401) -/

/-- Count a soft error of a unit, and log it. Its log entry holds the unit number where the error has no address. -/
def State.noteError (s : State) (e : ErrorEvent) : State :=
  let s1 := { s with module := { s.module with
    soft := tableSet (e.die, e.unitNo) ((tableGet (e.die, e.unitNo) s.module.soft).getD 0 + 1) s.module.soft } }
  let s2 := if e.corrected then s1.dieEvent e.die 0x14 64 1 else s1
  let kind := if e.corrected then 0 else 1
  match e.unit with
  | .warpState _ | .bLatch _ _ _ | .configRow _ | .accRow _ _ _ => s2.logError e.die 0 kind e.unitNo
  | .line pa => s2.logError e.die 1 kind pa
  | .hbm pa => s2.logError e.die 2 kind pa
  | .link l => s2.logError e.die 3 kind l

/-- Cause 0x01 for an error in state that the warp holds (R51, R401): it takes it before its next instruction, or once it is back from what
holds it. -/
def Warp.checked (w : Warp) (unit : Nat) : Warp :=
  let r := Raised.plain 0x01 unit 0 .c false (w.c.slice 0).pc (gangSlices w.c (w.c.slice 0).gang)
  if w.ended || w.evicted then w
  else
    match w.saved with
    | some v => if w.handler then { w with pending := w.pending ++ [r], c := { w.c with stopped := true }, a := { w.a with stopped := true } }
                else { w with saved := some { v with kept := v.kept ++ [r] } }
    | none => { w with pending := w.pending ++ [r], c := { w.c with stopped := true }, a := { w.a with stopped := true } }

/-- A bad row of the pool in an octet: rows 0 to 6 of its latch, then the partial tile's and the tiles' (R193, R217). -/
def Octet.spoil (o : Octet) (row unit : Nat) : Octet :=
  if row < 7 then { o with latch := { o.latch with bad := (row, unit) :: o.latch.bad } } else { o with bad := (row - 7, unit) :: o.bad }

def Latch.spoil (l : Latch) (row unit : Nat) : Latch := { l with bad := (row, unit) :: l.bad }

/-- What an uncorrectable error does (R401). -/
def State.uncorrected (s : State) (e : ErrorEvent) : State :=
  match e.unit with
  | .warpState w => s.modWarp w fun w => w.checked e.unitNo
  | .bLatch g b row => s.modGroup g fun k => if b then { k with b1 := k.b1.spoil row e.unitNo } else { k with b0 := k.b0.spoil row e.unitNo }
  | .accRow w o row => s.modWarp w fun w => { w with octets := updAt o (fun x => x.spoil row e.unitNo) w.octets }
  | .configRow w => s.modWarp w fun w => { w with cfgBad := some e.unitNo }
  | .line pa =>
    let line := lineOf pa
    let s1 := (s.poisonLine line).modDie e.die fun d => { d with lines := d.lines.filter (·.line != line) }
    if (s1.memory.dirAt line).names e.die then s1.withDir (s1.memory.leave line e.die) else s1
  | .hbm pa => { s with memory := s.memory.poisonSector (sectorOf pa) }.charge 64 3 16
  | .link l =>
    if s.module.linksDown.contains l then s
    else ({ s with module := { s.module with linksDown := s.module.linksDown ++ [l] } }).report 0 l

/-- ERROR_DETECT (R401): every error is entered in the log; a corrected one changes nothing else. -/
def execErrorDetect (e : ErrorEvent) (s : State) : Host.Outcome State Fault Refusal :=
  if !s.running then .next s else .next (if e.corrected then s.noteError e else (s.noteError e).uncorrected e)

end Sys2Proof.Machine
end

