-- ==== Sys2Proof/Machine/X509.lean ====
section
/-! DEFINITION. Sys2Proof/Machine/X509.lean: X.509 certificates in DER (RFC 5280, RFC 8410), as the chains of R391 and R393 hold them. -/

namespace Sys2Proof.Machine

/-! ## Written -/

/-- A number in as few bytes as it takes, highest first. -/
def derNumber (n : Nat) : List Byte := bigEndian (Nat.log2 n / 8 + 1) n

/-- One item: its tag, its length, what it holds. -/
def der (tag : Byte) (content : List Byte) : List Byte :=
  let n := derNumber content.length
  tag :: ((if content.length < 128 then n else BitVec.ofNat 8 (128 + n.length) :: n) ++ content)

/-- The algorithm identifier of Ed25519. -/
def derEd25519 : List Byte := der 0x30 (der 0x06 [0x2B, 0x65, 0x70])

/-! ## Read -/

/-- One item as read: its tag, what it holds, all its bytes. -/
structure DerItem where
  tag : Byte
  content : List Byte
  whole : List Byte
deriving DecidableEq, Repr

/-- The first item of some bytes. -/
def derHead (b : List Byte) : Option DerItem :=
  let first := leAt b 1 1
  let extra := if first < 128 then 0 else first - 128
  let n := if first < 128 then first else leNat (bytesAt b 2 extra).reverse
  if b.length < 2 + extra + n || 4 < extra then none else some ⟨b.getD 0 0, bytesAt b (2 + extra) n, b.take (2 + extra + n)⟩

/-- The items that some bytes are made of, at most fuel. -/
def derItems : Nat → List Byte → List DerItem
  | 0, _ => []
  | fuel + 1, b =>
    match derHead b with
    | none => []
    | some x => x :: derItems fuel (b.drop x.whole.length)

/-- What of a certificate a chain's check asks for: its signed part with the signature and the algorithm of it, the two names, the subject's key
with its algorithm, and whether it may sign certificates. -/
structure Cert where
  signed : List Byte
  alg : List Byte
  sig : List Byte
  issuer : List Byte
  subject : List Byte
  keyAlg : List Byte
  key : List Byte
  ca : Bool
deriving DecidableEq, Repr

/-- Basic constraints that say cA. -/
def derCa (ext : DerItem) : Bool :=
  match derItems 3 ext.content with
  | oid :: rest => oid.whole == [0x06, 0x03, 0x55, 0x1D, 0x13] &&
      (((rest.getLast?.bind fun o => derHead o.content).bind fun c => derHead c.content).map (·.whole)) == some [0x01, 0x01, 0xFF]
  | [] => false

/-- The bytes of a bit string without unused bits. -/
def derBits (x : DerItem) : List Byte := if x.tag == 0x03 && x.content.getD 0 1 == 0 then x.content.drop 1 else []

/-- A certificate as read. -/
def parseCert (b : List Byte) : Option Cert :=
  match (derHead b).map fun c => derItems 3 c.content with
  | some [tbs, alg, sig] =>
    let fields := derItems 10 tbs.content
    match if (fields.head?.map (·.tag)) == some 0xA0 then fields.drop 1 else fields with
    | _serial :: _alg :: issuer :: _validity :: subject :: spki :: rest =>
      let exts := ((rest.filter (·.tag == 0xA3)).filterMap fun x => derHead x.content).flatMap fun x => derItems 64 x.content
      match derItems 2 spki.content with
      | [keyAlg, key] => some ⟨tbs.whole, alg.whole, derBits sig, issuer.whole, subject.whole, keyAlg.whole, derBits key, exts.any derCa⟩
      | _ => none
    | _ => none
  | _ => none

/-- One certificate was issued by another (RFC 5280): its issuer's name and signature, of one that may sign. -/
def Cert.issued (issuer c : Cert) : Bool :=
  c.issuer == issuer.subject && issuer.ca && c.alg == derEd25519 && issuer.keyAlg == derEd25519 && ed25519Verify issuer.key c.signed c.sig

/-- Every certificate of a chain but its root was issued by the one before. -/
def chainIssued : List Cert → Bool
  | x :: y :: rest => x.issued y && chainIssued (y :: rest)
  | _ => true

end Sys2Proof.Machine
end

