-- ==== Sys2Proof/Machine/Spdm.lean ====
section
/-! DEFINITION. Sys2Proof/Machine/Spdm.lean: attestation and sessions (R391 to R393). Codes and layouts of messages are those of DMTF DSP0274 1.3,
which R391 names (log 76). -/

namespace Sys2Proof.Machine

/-! ## Messages -/

/-- A message of SPDM 1.3: its code and two parameters, then the rest. -/
def spdmMessage (code p1 p2 : Nat) (rest : List Byte) : List Byte := [0x13] ++ leBytes 1 code ++ leBytes 1 p1 ++ leBytes 1 p2 ++ rest

/-- The keys under which an answer goes out: those of the session when the request came in it. -/
def State.answerKeys (s : State) (c : SpdmMsg) : Option Keys := if c.secured then s.module.session.keys? else none

/-- The message on its way: inside the session as a secured message. -/
def State.spdmWire (s : State) (c : SpdmMsg) (message : List Byte) : List Byte :=
  framed (match s.answerKeys c with
    | some k => k.seal message
    | none => message)

/-- Send the answer to an SPDM request (R391) and keep what later signatures cover. -/
def State.spdmSend (s : State) (c : SpdmMsg) (message : List Byte) (t : Transcript) : State :=
  let s1 := ({ s with module := { s.module with transcript := t } }.bumpId.send (.spdm (s.spdmWire c message)))
  if c.secured then s1.withSession s.module.session.sent else s1

/-- Answer an SPDM request while the module has power. -/
def State.spdm (s : State) (c : SpdmMsg) (message : List Byte) (t : Transcript) : Host.Outcome State Fault Refusal :=
  if s.module.boot == .off then .next s else .next (s.spdmSend c message t)

/-- Answer it and have the session become another. -/
def State.spdmThen (s : State) (c : SpdmMsg) (message : List Byte) (t : Transcript) (x : Session) : Host.Outcome State Fault Refusal :=
  if s.module.boot == .off then .next s else .next ((s.spdmSend c message t).withSession x)

/-- ERROR: 1 InvalidRequest, 3 Busy, 4 UnexpectedRequest, 6 DecryptError, 7 UnsupportedRequest with the request's code, 0x41 VersionMismatch. -/
def errorMessage (err data : Nat) : List Byte := spdmMessage 0x7F err data []

def State.spdmError (s : State) (c : SpdmMsg) (err data : Nat) : Host.Outcome State Fault Refusal :=
  s.spdm c (errorMessage err data) s.module.transcript

/-- Fresh random bytes of the part; from: where they start among those of this answer. -/
def State.nonce (s : State) (start n : Nat) : List Byte :=
  (List.range n).map fun i => (Config.freeWord (2 ^ 64 * (s.nextId + 1) + start + i)).setWidth 8

/-! ## The device's identity (R391) -/

def deviceEdSeed : List Byte := (List.range 32).map Config.deviceSeed
def deviceMlSeed : List Byte := (List.range 32).map fun i => Config.deviceSeed (32 + i)

/-- The device identity certificate: it carries the device's two public keys, that of ML-DSA-65 in a vendor extension. -/
def deviceCertificate : List Byte :=
  let key := der 0x30 (derEd25519 ++ der 0x03 (0 :: ed25519Key deviceEdSeed))
  let vendor := der 0x30 (der 0x06 (Config.certText 4) ++ der 0x04 (mldsaKey deviceMlSeed))
  let signed := der 0x30 (der 0xA0 (der 0x02 [2]) ++ der 0x02 (Config.certText 0) ++ derEd25519 ++ der 0x30 (Config.certText 1) ++
    der 0x30 (Config.certText 2) ++ der 0x30 (Config.certText 3) ++ key ++ der 0xA3 (der 0x30 vendor))
  der 0x30 (signed ++ derEd25519 ++ der 0x03 (0 :: Config.certText 5))

/-- A certificate chain: its length, two zero bytes, the digest of its root, the certificates, root first. -/
def chainBytes (certs : List (List Byte)) : List Byte :=
  leBytes 2 (52 + certs.flatten.length) ++ leBytes 2 0 ++ sha384 (certs.headD []) ++ certs.flatten

/-- The one chain, of slot 0. -/
def slot0 : List Byte := chainBytes (Config.issuers ++ [deviceCertificate])

/-! ## Signatures -/

/-- What SPDM has signed: 100 bytes that name the version and the purpose, then the digest of the transcript. -/
def spdmSigned (purpose : String) (transcript : List Byte) : List Byte :=
  let p := asciiBytes purpose
  asciiBytes "dmtf-spdm-v1.3.*dmtf-spdm-v1.3.*dmtf-spdm-v1.3.*dmtf-spdm-v1.3.*" ++ List.replicate (36 - p.length) 0 ++ p ++ sha384 transcript

/-- The part's Ed25519 signature over a transcript. -/
def spdmSignature (purpose : String) (transcript : List Byte) : List Byte := ed25519Sign deviceEdSeed (spdmSigned purpose transcript)

/-! ## The connection (R391) -/

/-- The flags of R391's capabilities: CERT, CHAL, MEAS with signature, ENCRYPT, MAC, MUT_AUTH, KEY_EX. -/
def spdmCapabilities : Nat := 0x02 + 0x04 + 0x10 + 0x40 + 0x80 + 0x100 + 0x200

/-- The algorithms of R391: DMTF measurements with SHA-384, opaque data of format 1, Ed25519, base hash SHA-384; then ECDHE P-384, AES-256-GCM, the
requester's Ed25519 and the SPDM key schedule. -/
def spdmAlgorithms : List Byte :=
  leBytes 2 52 ++ [1, 2] ++ leBytes 4 0x4 ++ leBytes 4 0x400 ++ leBytes 4 0x2 ++ List.replicate 16 0 ++
    ([2, 0x20] ++ leBytes 2 0x10) ++ ([3, 0x20] ++ leBytes 2 0x2) ++ ([4, 0x20] ++ leBytes 2 0x400) ++ ([5, 0x20] ++ leBytes 2 0x1)

/-- GET_VERSION (R391): version 1.3; the transcripts start anew. -/
def execGetVersion (c : SpdmMsg) (s : State) : Host.Outcome State Fault Refusal :=
  let r : List Byte := [0x10, 0x04, 0, 0, 0, 1] ++ leBytes 2 0x1300
  s.spdm c r { a := c.bytes ++ r, b := [], l := [], k := [] }

/-- An exchange of the connection, which every later signature covers. -/
def State.connectionSpdm (s : State) (c : SpdmMsg) (r : List Byte) : Host.Outcome State Fault Refusal :=
  let t := s.module.transcript
  s.spdm c r { t with a := t.a ++ c.bytes ++ r, l := [] }

/-- GET_CAPABILITIES (R391). -/
def execGetCapabilities (c : SpdmMsg) (s : State) : Host.Outcome State Fault Refusal :=
  s.connectionSpdm c (spdmMessage 0x61 0 0 ([0] ++ leBytes 1 (Config.spdmFigure 0) ++ [0, 0] ++ leBytes 4 spdmCapabilities ++
    leBytes 4 (Config.spdmFigure 1) ++ leBytes 4 (Config.spdmFigure 2)))

/-- NEGOTIATE_ALGORITHMS (R391): the answer names the algorithms that the part has, whatever the request offers. -/
def execNegotiateAlgorithms (c : SpdmMsg) (s : State) : Host.Outcome State Fault Refusal := s.connectionSpdm c (spdmMessage 0x63 4 0 spdmAlgorithms)

/-! ## Certificates and the challenge (R391) -/

/-- An exchange about certificates, which the challenge's signature covers. -/
def State.certSpdm (s : State) (c : SpdmMsg) (r : List Byte) : Host.Outcome State Fault Refusal :=
  let t := s.module.transcript
  s.spdm c r { t with b := t.b ++ c.bytes ++ r, l := [] }

/-- GET_DIGESTS: the digest of the one chain, in slot 0. -/
def execGetDigests (c : SpdmMsg) (s : State) : Host.Outcome State Fault Refusal := s.certSpdm c (spdmMessage 0x01 1 1 (sha384 slot0))

/-- GET_CERTIFICATE: bytes of the chain from the offset asked for, at most as many as asked for, and how many remain; there is a chain in slot 0
alone. -/
def execGetCertificate (slot : Nat) (c : SpdmMsg) (s : State) : Host.Outcome State Fault Refusal :=
  let off := leAt c.bytes 4 2
  let part := bytesAt slot0 off (leAt c.bytes 6 2)
  if slot != 0 || slot0.length ≤ off then s.spdmError c 1 0
  else s.certSpdm c (spdmMessage 0x02 0 0 (leBytes 2 part.length ++ leBytes 2 (slot0.length - off - part.length) ++ part))

/-- Bytes of measurement block i: the DMTF form, of the given type (0x01 firmware, 0x02 hardware configuration, 0x03 firmware configuration, with
0x80 no digest; log 76). -/
def measBlock (i type : Nat) (value : List Byte) : List Byte :=
  leBytes 1 i ++ [1] ++ leBytes 2 (value.length + 3) ++ leBytes 1 type ++ leBytes 2 value.length ++ value

/-- Measurement blocks 1 to 8 carry MEAS0 to MEAS7 (R392). -/
def Module.blocks (m : Module) : List Byte :=
  (mapIdxList (fun i d => measBlock (i + 1) (if i == 0 then 2 else if i == 7 then 3 else 1) d) m.meas).flatten

/-- The digest of all measurement blocks, for a request that asks for it. -/
def Module.summary (m : Module) (type : Nat) : List Byte := if type == 0 then [] else sha384 m.blocks

/-- CHALLENGE: the answer is signed over the connection, the certificates and this exchange. -/
def execChallenge (c : SpdmMsg) (s : State) : Host.Outcome State Fault Refusal :=
  let t := s.module.transcript
  if leAt c.bytes 2 1 != 0 then s.spdmError c 1 0
  else
    let r := spdmMessage 0x03 0 1 (sha384 slot0 ++ s.nonce 0 32 ++ s.module.summary (leAt c.bytes 3 1) ++ leBytes 2 0 ++ padTo 8 (bytesAt c.bytes 36 8))
    s.spdm c (r ++ spdmSignature "responder-challenge_auth signing" (t.a ++ t.b ++ c.bytes ++ r)) { t with b := [], l := [] }

/-! ## Measurements (R392) -/

/-- GET_MEASUREMENTS: all registers in one action. With a signature there is a block 0x40 too: its ML-DSA-65 signature and the Ed25519 signature
cover one transcript, in which the response stands without that block (log 77). -/
def execGetMeasurements (signed : Bool) (c : SpdmMsg) (s : State) : Host.Outcome State Fault Refusal :=
  let t := s.module.transcript
  let context := padTo 8 (bytesAt c.bytes (if signed then 37 else 4) 8)
  let response (blocks : Nat) (record : List Byte) : List Byte :=
    spdmMessage 0x60 0 0 (leBytes 1 blocks ++ leBytes 3 record.length ++ record ++ s.nonce 0 32 ++ leBytes 2 0 ++ context)
  let plain := response 8 s.module.blocks
  let log := t.l ++ c.bytes ++ plain
  if !signed then s.spdm c plain { t with l := log }
  else
    let purpose := "responder-measurements signing"
    let pq := mldsaSign deviceMlSeed (s.nonce 32 32) (spdmSigned purpose (t.a ++ log))
    s.spdm c (response 9 (s.module.blocks ++ measBlock 0x40 0x84 pq) ++ spdmSignature purpose (t.a ++ log)) { t with l := [] }

/-! ## Sessions (R393) -/

/-- The transcript of a session's opening before the requester's part. -/
def Transcript.opening (t : Transcript) : List Byte := t.a ++ sha384 slot0

/-- A KEY_EXCHANGE that the part can answer: whole, for the chain of slot 0, with a share that lies on the curve. -/
def exchangePoint (bytes : List Byte) : Option (Nat × Nat) := if leAt bytes 3 1 == 0 && 138 ≤ bytes.length then p384Point (bytesAt bytes 40 96) else none

/-- The opaque data of an answer to KEY_EXCHANGE: secured messages are those of DSP0277 1.1. -/
def secureVersion : List Byte := leBytes 2 12 ++ [1, 0, 0, 0] ++ [0, 0] ++ leBytes 2 4 ++ [1, 0, 0x00, 0x11]

/-- The part's private number of an exchange, below the order of the base point and not 0. -/
def State.shareNumber (s : State) : Nat := leNat (s.nonce 34 56) % (p384Order - 1) + 1

/-- KEY_EXCHANGE (R391, R393): Busy while a session is open. The requester must authenticate itself; ECDHE gives both sides the keys of the
handshake, and the answer ends with the part's MAC under them. -/
def execKeyExchange (c : SpdmMsg) (s : State) : Host.Outcome State Fault Refusal :=
  if s.module.session.isOpen then s.spdmError c 3 0
  else
    match exchangePoint c.bytes with
    | none => s.spdmError c 1 0
    | some q =>
      let t := s.module.transcript
      let half := s.nonce 0 2
      let r := spdmMessage 0x64 0 0 (half ++ [1, 0] ++ s.nonce 2 32 ++ p384Share s.shareNumber ++ s.module.summary (leAt c.bytes 2 1) ++ secureVersion)
      let signed := r ++ spdmSignature "responder-key_exchange_rsp signing" (t.opening ++ c.bytes ++ r)
      let digest := sha384 (t.opening ++ c.bytes ++ signed)
      let k := handshakeKeys (bytesAt c.bytes 4 2 ++ half) (p384Secret s.shareNumber q) digest
      let all := signed ++ k.rsp.verify digest
      s.spdmThen c all { t with l := [], k := c.bytes ++ all } (.opening k)

/-- The transcript that a FINISH is held to, before what it signs with. -/
def Module.finishing (m : Module) (chain : List (List Byte)) (finish : List Byte) : List Byte :=
  m.transcript.opening ++ m.transcript.k ++ sha384 (chainBytes chain) ++ finish.take 4

/-- The requester is who R393 asks for: its chain starts at the root that the configuration blob names and is signed down to its own certificate,
whose key signs the session's opening; its MAC shows that it shares the session's keys. -/
def Module.authentic (m : Module) (k : Keys) (chain : List (List Byte)) (finish : List Byte) : Bool :=
  let th := m.finishing chain finish
  let sig := bytesAt finish 4 64
  let certs := chain.filterMap parseCert
  sha384 (chain.headD []) == m.rootDigest && certs.length == chain.length && chainIssued certs && leAt finish 2 1 % 2 == 1 &&
    (match certs.getLast? with
      | some own => own.keyAlg == derEd25519 && ed25519Verify own.key (spdmSigned "requester-finish signing" th) sig
      | none => false) &&
    finish.drop 68 == k.req.verify (sha384 (th ++ sig))

/-- FINISH (R391, R393): the session opens for a requester that has authenticated itself, and fails otherwise; it comes under the keys of the
handshake, as its answer does, after which those of the open session hold. -/
def execFinish (chain : List (List Byte)) (c : SpdmMsg) (s : State) : Host.Outcome State Fault Refusal :=
  let t := { s.module.transcript with l := [] }
  match s.module.session with
  | .opening k =>
    if !c.secured then s.spdmError c 4 0
    else if !(s.module.authentic k chain c.bytes) then s.spdmThen c (errorMessage 6 0) s.module.transcript .none
    else
      let r := spdmMessage 0x65 0 0 []
      s.spdmThen c r t (.open_ (k.applied (sha384 (s.module.finishing chain c.bytes ++ c.bytes.drop 4 ++ r))))
  | _ => s.spdmError c 4 0

/-- END_SESSION (R391). -/
def execEndSession (c : SpdmMsg) (s : State) : Host.Outcome State Fault Refusal :=
  if !c.secured || !s.module.session.isOpen then s.spdmError c 4 0
  else s.spdmThen c (spdmMessage 0x6C 0 0 []) { s.module.transcript with l := [] } .none

/-- The ten request codes of R391. -/
def spdmCodes : List Nat := [0x84, 0xE1, 0xE3, 0x81, 0x82, 0x83, 0xE0, 0xE4, 0xE5, 0xEC]

/-- SPDM_UNSUPPORTED_REQUEST (R391): a request code that is not one of the ten. -/
def execSpdmUnsupportedRequest (code : Nat) (c : SpdmMsg) (s : State) : Host.Outcome State Fault Refusal :=
  if spdmCodes.contains code || c.bytes.isEmpty then .next s else s.spdmError c 7 code

/-! ## Port 7440 (R391) -/

/-- The message that some bytes carry after their length. -/
def messageOf (bytes : List Byte) : Option (List Byte) :=
  if 8 ≤ bytes.length && leAt bytes 0 4 == bytes.length - 4 then some (bytes.drop 4) else none

/-- The row that answers a request; chain: the requester's certificates (log 76). -/
def State.answerSpdm (s : State) (chain : List (List Byte)) (c : SpdmMsg) : Host.Outcome State Fault Refusal :=
  let code := leAt c.bytes 1 1
  if leAt c.bytes 0 1 != (if code == 0x84 then 0x10 else 0x13) then s.spdmError c 0x41 0
  else
    match code with
    | 0x84 => execGetVersion c s
    | 0xE1 => execGetCapabilities c s
    | 0xE3 => execNegotiateAlgorithms c s
    | 0x81 => execGetDigests c s
    | 0x82 => execGetCertificate (leAt c.bytes 2 1 % 16) c s
    | 0x83 => execChallenge c s
    | 0xE0 => execGetMeasurements (leAt c.bytes 2 1 % 2 == 1) c s
    | 0xE4 => execKeyExchange c s
    | 0xE5 => execFinish chain c s
    | 0xEC => execEndSession c s
    | _ => execSpdmUnsupportedRequest code c s

/-- Bytes arrive on TCP port 7440 (R391): a message of the session that its keys do not open ends it; in a handshake FINISH alone is expected. -/
def State.attest (s : State) (chain : List (List Byte)) (bytes : List Byte) : Host.Outcome State Fault Refusal :=
  match messageOf bytes with
  | none => .next s
  | some m =>
    if !(s.module.session.owns m) then s.answerSpdm chain ⟨m, false⟩
    else
      match s.unsealed m with
      | none => s.spdmThen ⟨m, false⟩ (errorMessage 6 0) s.module.transcript .none
      | some (data, s1) =>
        if !(spdmData data) then .next s
        else if s.module.session.isOpen || leAt data 1 1 == 0xE5 then s1.answerSpdm chain ⟨data, true⟩
        else s1.spdmError ⟨data, true⟩ 4 0

end Sys2Proof.Machine
end

