-- ==== Sys2Proof/Machine/Management.lean ====
section
/-! DEFINITION. Sys2Proof/Machine/Management.lean: the management requests (R394, R395, R398 to R402). DRESET, RETIRE and REINSTATE stand in
Withdrawal.lean. Status: 0 done, 1 already in the requested state, 2 refused, 3 malformed. -/

namespace Sys2Proof.Machine

/-- Answer with a status and no payload. -/
def State.answerMgmt (s : State) (op : Nat) (tag : Word) (status : Nat) : Host.Outcome State Fault Refusal := .next (s.respond op tag status [])

/-! ## Window 0 (R394) -/

/-- W0WRITE (R394, R314, R315): the record goes to the next slot of window 0. -/
def execW0write (tag : Word) (r : Record) (s : State) : Host.Outcome State Fault Refusal :=
  let n := (s.window 0).written
  (s.modWindow 0 fun w => { w with bytes := tableSet (n % 64) r.bytes w.bytes, written := n + 1 }).answerMgmt 0x0001 tag 0

/-- W0RING (R394). -/
def execW0ring (tag : Word) (addr : Word64) (key qp : Word) (s : State) : Host.Outcome State Fault Refusal :=
  (s.modWindow 0 fun w => { w with ring := some ⟨addr, key, qp⟩ }).answerMgmt 0x0002 tag 0

/-! ## Grants and worklists -/

/-- GRANT (R399): bits 4 to 31 must be 0. -/
def execGrant (tag : Word) (dom : Byte) (mask : Word64) (s : State) : Host.Outcome State Fault Refusal :=
  if 63 < dom.toNat || mask.toNat / 16 % 2 ^ 28 != 0 then s.answerMgmt 0x0020 tag 2
  else if (s.domain dom.toNat).grant == mask then s.answerMgmt 0x0020 tag 1
  else (s.modDomain dom.toNat fun d => { d with grant := mask }).answerMgmt 0x0020 tag 0

/-- The worklist is open, or an EOPEN of it is on its way. -/
def State.worklistOpen (s : State) (wl : Nat) : Bool := !(s.openDies wl).isEmpty || s.eops.any fun o => o.wl == wl && !o.close

/-- WLIST (R236, R394). -/
def execWlist (tag : Word) (wl dom : Byte) (s : State) : Host.Outcome State Fault Refusal :=
  let n := wl.toNat
  let d : Option Nat := if dom.toNat == 255 then none else some dom.toNat
  if 15 < n || (63 < dom.toNat && dom.toNat != 255) || s.worklistOpen n then s.answerMgmt 0x0021 tag 2
  else if (s.worklist? n).bind (·.dom) == d then s.answerMgmt 0x0021 tag 1
  else
    let w : Worklist := (s.worklist? n).getD ⟨n, none, [], 0, false, 0⟩
    ({ s with worklists := putFirst (·.num == n) { w with dom := d } s.worklists }).answerMgmt 0x0021 tag 0

/-! ## Event counters (R399, R400) -/

/-- Change one event counter of a list. -/
def setCounter (n size : Nat) (f : Counter → Counter) (l : List Counter) : List Counter :=
  updAt n f (l ++ List.replicate (size - l.length) ⟨0, 0⟩)

/-- What PSEL and PCLR name (R395): a counter of live dies, core 0xFFFF for the die's own 32, 0xFFFE for every core. -/
def State.counterOk (s : State) (c : CounterName) : Bool :=
  (c.die.toNat == 0xFFFF || s.isLive c.die.toNat) &&
  (if c.core.toNat == 0xFFFF then c.num.toNat < 32 else c.num.toNat < 4 && (c.core.toNat == 0xFFFE || c.core.toNat < Config.coresPerDie))

/-- Change the named counters. -/
def State.modCounters (s : State) (c : CounterName) (f : Counter → Counter) : State :=
  let dies := if c.die.toNat == 0xFFFF then s.liveDies else [c.die.toNat]
  if c.core.toNat == 0xFFFF then
    dies.foldl (fun (t : State) d => t.modDie d fun k => { k with counters := setCounter c.num.toNat 32 f k.counters }) s
  else
    let cores := if c.core.toNat == 0xFFFE then List.range Config.coresPerDie else [c.core.toNat]
    dies.foldl (fun (t : State) d => cores.foldl (fun (t : State) k =>
      t.modCore d k fun q => { q with counters := setCounter c.num.toNat 4 f q.counters }) t) s

/-- A legal select word (R400): reserved bits 0, a domain or 0xFF, an event of its table. -/
def selectOk (core : Bool) (sel : Word) : Bool :=
  sel.toNat / 2 ^ 17 == 0 && (sel.toNat / 256 % 256 ≤ 63 || sel.toNat / 256 % 256 == 0xFF) && sel.toNat % 256 ≤ (if core then 0x0B else 0x14)

/-- PSEL (R400): the select word is written and the counter set to 0. -/
def execPsel (tag : Word) (c : CounterName) (sel : Word) (s : State) : Host.Outcome State Fault Refusal :=
  if !(s.counterOk c) || !(selectOk (c.core.toNat != 0xFFFF) sel) then s.answerMgmt 0x0022 tag 2
  else (s.modCounters c fun _ => ⟨sel, 0⟩).answerMgmt 0x0022 tag 0

/-- PCLR (R394, R400). -/
def execPclr (tag : Word) (c : CounterName) (s : State) : Host.Outcome State Fault Refusal :=
  if !(s.counterOk c) then s.answerMgmt 0x0023 tag 2
  else (s.modCounters c fun k => { k with count := 0 }).answerMgmt 0x0023 tag 0

/-! ## Readouts (R398, R401) -/

/-- The readout: header, then 65 records as of the last 1 ms boundary. -/
def State.readout (s : State) : List Byte :=
  let set (i : Nat) : List Byte :=
    let k := ((s.module.boundary.find? (·.dom == i)).map (·.counts)).getD (Vector.replicate 8 0)
    k.toList.flatMap fun c => leBytes 8 c.toNat
  leBytes 8 s.time0.toNat ++ leBytes 8 s.module.readouts ++ (List.range 65).flatMap set

/-- ACCT (R398): readouts count from 1. -/
def execAcct (tag : Word) (s : State) : Host.Outcome State Fault Refusal :=
  let s1 := { s with module := { s.module with readouts := s.module.readouts + 1 } }
  .next (s1.respond 0x0030 tag 0 s1.readout)

/-- A log entry in 32 bytes: time, die, unit, kind, four zero bytes, address. -/
def logBytes (e : LogEntry) : List Byte :=
  leBytes 8 e.time ++ leBytes 4 e.die ++ leBytes 4 e.unit ++ leBytes 4 e.kind ++ leBytes 4 0 ++ leBytes 8 e.addr

/-- Entry i of the log, which wraps at 4 096 entries; one never written reads as zeros. -/
def Module.logAt (m : Module) (i : Nat) : List Byte :=
  let oldest := m.logged - m.log.length
  match m.log[(i + 4096 - oldest % 4096) % 4096]? with
  | some e => logBytes e
  | none => List.replicate 32 0

/-- ERRLOG (R395, R401): the count of overwritten entries, then the entries asked for. -/
def execErrlog (tag : Word) (first count : Word) (s : State) : Host.Outcome State Fault Refusal :=
  if 4095 < first.toNat || count.toNat == 0 || 4096 < count.toNat then s.answerMgmt 0x0031 tag 2
  else
    let m := s.module
    .next (s.respond 0x0031 tag 0 (leBytes 4 (m.logged - m.log.length) ++
      (List.range count.toNat).flatMap fun i => m.logAt ((first.toNat + i) % 4096)))

/-! ## Memory rows (R402) -/

/-- SPARE (R402): the row's data goes with it, so nothing reads differently; refused when the stack has no spare row left. -/
def execSpare (tag : Word) (stack : Word) (row : Word64) (s : State) : Host.Outcome State Fault Refusal :=
  let used := s.memory.spares.countP (·.1 == stack.toNat)
  if Config.dies ≤ stack.toNat || Config.stackBytes ≤ row.toNat then s.answerMgmt 0x0040 tag 2
  else if s.memory.spares.contains (stack.toNat, row.toNat) then s.answerMgmt 0x0040 tag 1
  else if Config.spareRows stack.toNat ≤ used then s.answerMgmt 0x0040 tag 2
  else ({ s with memory := { s.memory with spares := s.memory.spares ++ [(stack.toNat, row.toNat)] } }).answerMgmt 0x0040 tag 0

/-! ## Firmware (R390, R394, R395) -/

/-- The images staged, one of a kind. -/
def stageImage (image : List Byte) (l : List (List Byte)) : List (List Byte) :=
  putFirst (fun b => (parseImage b).kind == (parseImage image).kind) image l

/-- FWSTAGE: pieces in ascending order from 0 with no gap, else status 3 and the pieces are discarded; the last one has the image verified. -/
def execFwstage (tag : Word) (off total flags : Word) (piece : List Byte) (s : State) : Host.Outcome State Fault Refusal :=
  let m := s.module
  let image := m.staging ++ piece
  let last := flags.getLsbD 0
  let discard : State := { s with module := { m with staging := [] } }
  if off.toNat != m.staging.length || total.toNat < image.length || (last && image.length != total.toNat) then discard.answerMgmt 0x0050 tag 3
  else if !last then ({ s with module := { m with staging := image } }).answerMgmt 0x0050 tag 0
  else if headerBytes ≤ image.length && m.runs (parseImage image) then
    ({ s with module := { m with staging := [], staged := stageImage image m.staged } }).answerMgmt 0x0050 tag 0
  else discard.answerMgmt 0x0050 tag 2

/-- FUSESVN (R394): it raises the fused version and never lowers it. -/
def execFusesvn (tag : Word) (kind version : Word) (s : State) : Host.Outcome State Fault Refusal :=
  let v := s.module.fusedVersion kind
  if version.toNat < v.toNat then s.answerMgmt 0x0051 tag 2
  else if version == v then s.answerMgmt 0x0051 tag 1
  else ({ s with module := { s.module with fused := tableSet kind version s.module.fused } }).answerMgmt 0x0051 tag 0

/-- UNKNOWN_MANAGEMENT_OPCODE (R395): status 3 and no effect. -/
def execUnknownManagementOpcode (tag : Word) (op : BitVec 16) (s : State) : Host.Outcome State Fault Refusal :=
  s.answerMgmt op.toNat tag 3

end Sys2Proof.Machine
end

