-- ==== Sys2Proof/Machine/Dispatch.lean ====
section
/-! DEFINITION. Sys2Proof/Machine/Dispatch.lean: the meaning of every constructor, one direct call each. -/

namespace Sys2Proof.Machine

def exec (i : Instr) (s : State) : Host.Outcome State Fault Refusal :=
  match i with
  | .iadd h q => Sys2Proof.Machine.execIadd h q s
  | .isub h q => Sys2Proof.Machine.execIsub h q s
  | .imul h q => Sys2Proof.Machine.execImul h q s
  | .imulh h q => Sys2Proof.Machine.execImulh h q s
  | .imad h q => Sys2Proof.Machine.execImad h q s
  | .idiv h q => Sys2Proof.Machine.execIdiv h q s
  | .irem h q => Sys2Proof.Machine.execIrem h q s
  | .imin h q => Sys2Proof.Machine.execImin h q s
  | .imax h q => Sys2Proof.Machine.execImax h q s
  | .iabs h q => Sys2Proof.Machine.execIabs h q s
  | .ineg h q => Sys2Proof.Machine.execIneg h q s
  | .icmp h q => Sys2Proof.Machine.execIcmp h q s
  | .andBits h q => Sys2Proof.Machine.execAndBits h q s
  | .orBits h q => Sys2Proof.Machine.execOrBits h q s
  | .xorBits h q => Sys2Proof.Machine.execXorBits h q s
  | .notBits h q => Sys2Proof.Machine.execNotBits h q s
  | .shl h q => Sys2Proof.Machine.execShl h q s
  | .shr h q => Sys2Proof.Machine.execShr h q s
  | .sar h q => Sys2Proof.Machine.execSar h q s
  | .rot h q => Sys2Proof.Machine.execRot h q s
  | .popc h q => Sys2Proof.Machine.execPopc h q s
  | .clz h q => Sys2Proof.Machine.execClz h q s
  | .brev h q => Sys2Proof.Machine.execBrev h q s
  | .bfx h q => Sys2Proof.Machine.execBfx h q s
  | .bfi h q => Sys2Proof.Machine.execBfi h q s
  | .sel h q => Sys2Proof.Machine.execSel h q s
  | .selh h q => Sys2Proof.Machine.execSelh h q s
  | .iaddImm h q => Sys2Proof.Machine.execIaddImm h q s
  | .imulImm h q => Sys2Proof.Machine.execImulImm h q s
  | .andBitsImm h q => Sys2Proof.Machine.execAndBitsImm h q s
  | .orBitsImm h q => Sys2Proof.Machine.execOrBitsImm h q s
  | .xorBitsImm h q => Sys2Proof.Machine.execXorBitsImm h q s
  | .shlImm h q => Sys2Proof.Machine.execShlImm h q s
  | .shrImm h q => Sys2Proof.Machine.execShrImm h q s
  | .sarImm h q => Sys2Proof.Machine.execSarImm h q s
  | .iminImm h q => Sys2Proof.Machine.execIminImm h q s
  | .imaxImm h q => Sys2Proof.Machine.execImaxImm h q s
  | .fadd h q => Sys2Proof.Machine.execFadd h q s
  | .fsub h q => Sys2Proof.Machine.execFsub h q s
  | .fmul h q => Sys2Proof.Machine.execFmul h q s
  | .ffma h q => Sys2Proof.Machine.execFfma h q s
  | .fmin h q => Sys2Proof.Machine.execFmin h q s
  | .fmax h q => Sys2Proof.Machine.execFmax h q s
  | .fabs h q => Sys2Proof.Machine.execFabs h q s
  | .fneg h q => Sys2Proof.Machine.execFneg h q s
  | .fcmp h q => Sys2Proof.Machine.execFcmp h q s
  | .frnd h q => Sys2Proof.Machine.execFrnd h q s
  | .fclass h q => Sys2Proof.Machine.execFclass h q s
  | .fdiv h q => Sys2Proof.Machine.execFdiv h q s
  | .fsqrt h q => Sys2Proof.Machine.execFsqrt h q s
  | .faddImm h q => Sys2Proof.Machine.execFaddImm h q s
  | .fmulImm h q => Sys2Proof.Machine.execFmulImm h q s
  | .fminImm h q => Sys2Proof.Machine.execFminImm h q s
  | .fmaxImm h q => Sys2Proof.Machine.execFmaxImm h q s
  | .rcp h q => Sys2Proof.Machine.execRcp h q s
  | .rsq h q => Sys2Proof.Machine.execRsq h q s
  | .ex2 h q => Sys2Proof.Machine.execEx2 h q s
  | .lg2 h q => Sys2Proof.Machine.execLg2 h q s
  | .sin h q => Sys2Proof.Machine.execSin h q s
  | .cos h q => Sys2Proof.Machine.execCos h q s
  | .tanh h q => Sys2Proof.Machine.execTanh h q s
  | .sigm h q => Sys2Proof.Machine.execSigm h q s
  | .cvt h q => Sys2Proof.Machine.execCvt h q s
  | .qnt h q => Sys2Proof.Machine.execQnt h q s
  | .dqnt h q => Sys2Proof.Machine.execDqnt h q s
  | .pack h q => Sys2Proof.Machine.execPack h q s
  | .unpk h q => Sys2Proof.Machine.execUnpk h q s
  | .shfl h q => Sys2Proof.Machine.execShfl h q s
  | .vote h q => Sys2Proof.Machine.execVote h q s
  | .wred h q => Sys2Proof.Machine.execWred h q s
  | .wscan h q => Sys2Proof.Machine.execWscan h q s
  | .matchLanes h q => Sys2Proof.Machine.execMatchLanes h q s
  | .bcast h q => Sys2Proof.Machine.execBcast h q s
  | .mov h q => Sys2Proof.Machine.execMov h q s
  | .movi h q => Sys2Proof.Machine.execMovi h q s
  | .dup h q => Sys2Proof.Machine.execDup h q s
  | .save h q => Sys2Proof.Machine.execSave h q s
  | .rejoin h q => Sys2Proof.Machine.execRejoin h q s
  | .bra h b => Sys2Proof.Machine.execBra h b s
  | .brdIf h b => Sys2Proof.Machine.execBrdIf h b s
  | .brdLoop h b => Sys2Proof.Machine.execBrdLoop h b s
  | .brx h b => Sys2Proof.Machine.execBrx h b s
  | .call h b => Sys2Proof.Machine.execCall h b s
  | .callx h b => Sys2Proof.Machine.execCallx h b s
  | .ret h b => Sys2Proof.Machine.execRet h b s
  | .regang h b => Sys2Proof.Machine.execRegang h b s
  | .exit h b => Sys2Proof.Machine.execExit h b s
  | .nop h b => Sys2Proof.Machine.execNop h b s
  | .aadd h a => Sys2Proof.Machine.execAadd h a s
  | .asub h a => Sys2Proof.Machine.execAsub h a s
  | .amul h a => Sys2Proof.Machine.execAmul h a s
  | .amad h a => Sys2Proof.Machine.execAmad h a s
  | .ashl h a => Sys2Proof.Machine.execAshl h a s
  | .ashr h a => Sys2Proof.Machine.execAshr h a s
  | .aand h a => Sys2Proof.Machine.execAand h a s
  | .aor h a => Sys2Proof.Machine.execAor h a s
  | .axor h a => Sys2Proof.Machine.execAxor h a s
  | .amin h a => Sys2Proof.Machine.execAmin h a s
  | .amax h a => Sys2Proof.Machine.execAmax h a s
  | .amov h a => Sys2Proof.Machine.execAmov h a s
  | .amovi h a => Sys2Proof.Machine.execAmovi h a s
  | .acmp h a => Sys2Proof.Machine.execAcmp h a s
  | .asel h a => Sys2Proof.Machine.execAsel h a s
  | .popi h a => Sys2Proof.Machine.execPopi h a s
  | .aaddImm h a => Sys2Proof.Machine.execAaddImm h a s
  | .asubImm h a => Sys2Proof.Machine.execAsubImm h a s
  | .amulImm h a => Sys2Proof.Machine.execAmulImm h a s
  | .ashlImm h a => Sys2Proof.Machine.execAshlImm h a s
  | .ashrImm h a => Sys2Proof.Machine.execAshrImm h a s
  | .aandImm h a => Sys2Proof.Machine.execAandImm h a s
  | .aorImm h a => Sys2Proof.Machine.execAorImm h a s
  | .axorImm h a => Sys2Proof.Machine.execAxorImm h a s
  | .aminImm h a => Sys2Proof.Machine.execAminImm h a s
  | .amaxImm h a => Sys2Proof.Machine.execAmaxImm h a s
  | .acmpImm h a => Sys2Proof.Machine.execAcmpImm h a s
  | .ld h m => Sys2Proof.Machine.execLd h m s
  | .lds h m => Sys2Proof.Machine.execLds h m s
  | .ldx h m => Sys2Proof.Machine.execLdx h m s
  | .ldc h m => Sys2Proof.Machine.execLdc h m s
  | .st h m => Sys2Proof.Machine.execSt h m s
  | .sts h m => Sys2Proof.Machine.execSts h m s
  | .stx h m => Sys2Proof.Machine.execStx h m s
  | .pf h m => Sys2Proof.Machine.execPf h m s
  | .ldLq h m => Sys2Proof.Machine.execLdLq h m s
  | .ldsLq h m => Sys2Proof.Machine.execLdsLq h m s
  | .ldxLq h m => Sys2Proof.Machine.execLdxLq h m s
  | .ldcLq h m => Sys2Proof.Machine.execLdcLq h m s
  | .stSq h m => Sys2Proof.Machine.execStSq h m s
  | .stsSq h m => Sys2Proof.Machine.execStsSq h m s
  | .stxSq h m => Sys2Proof.Machine.execStxSq h m s
  | .atom h m => Sys2Proof.Machine.execAtom h m s
  | .red h m => Sys2Proof.Machine.execRed h m s
  | .mred h m => Sys2Proof.Machine.execMred h m s
  | .fence h m => Sys2Proof.Machine.execFence h m s
  | .rfence h m => Sys2Proof.Machine.execRfence h m s
  | .drain h m => Sys2Proof.Machine.execDrain h m s
  | .cwb h m => Sys2Proof.Machine.execCwb h m s
  | .cinv h m => Sys2Proof.Machine.execCinv h m s
  | .copy h m => Sys2Proof.Machine.execCopy h m s
  | .copyg h m => Sys2Proof.Machine.execCopyg h m s
  | .copys h m => Sys2Proof.Machine.execCopys h m s
  | .publish h m => Sys2Proof.Machine.execPublish h m s
  | .cpstat h m => Sys2Proof.Machine.execCpstat h m s
  | .mga h x => Sys2Proof.Machine.execMga h x s
  | .mla h x => Sys2Proof.Machine.execMla h x s
  | .mlb h x => Sys2Proof.Machine.execMlb h x s
  | .mma h x => Sys2Proof.Machine.execMma h x s
  | .mmax h x => Sys2Proof.Machine.execMmax h x s
  | .mz h x => Sys2Proof.Machine.execMz h x s
  | .mdr h x => Sys2Proof.Machine.execMdr h x s
  | .mdra h x => Sys2Proof.Machine.execMdra h x s
  | .msca h x => Sys2Proof.Machine.execMsca h x s
  | .mfence h x => Sys2Proof.Machine.execMfence h x s
  | .mwait h x => Sys2Proof.Machine.execMwait h x s
  | .mcfg h x => Sys2Proof.Machine.execMcfg h x s
  | .route h e => Sys2Proof.Machine.execRoute h e s
  | .rtake h e => Sys2Proof.Machine.execRtake h e s
  | .rret h e => Sys2Proof.Machine.execRret h e s
  | .rcloseWin h e => Sys2Proof.Machine.execRcloseWin h e s
  | .rclosePort h e => Sys2Proof.Machine.execRclosePort h e s
  | .rstat h e => Sys2Proof.Machine.execRstat h e s
  | .eopenOpen h e => Sys2Proof.Machine.execEopenOpen h e s
  | .eopenClose h e => Sys2Proof.Machine.execEopenClose h e s
  | .epush h e => Sys2Proof.Machine.execEpush h e s
  | .epop h e => Sys2Proof.Machine.execEpop h e s
  | .edone h e => Sys2Proof.Machine.execEdone h e s
  | .estat h e => Sys2Proof.Machine.execEstat h e s
  | .bar h e => Sys2Proof.Machine.execBar h e s
  | .cbar h e => Sys2Proof.Machine.execCbar h e s
  | .abar h e => Sys2Proof.Machine.execAbar h e s
  | .await h e => Sys2Proof.Machine.execAwait h e s
  | .ared h e => Sys2Proof.Machine.execAred h e s
  | .phase h e => Sys2Proof.Machine.execPhase h e s
  | .signalHold h e => Sys2Proof.Machine.execSignalHold h e s
  | .signalRel h e => Sys2Proof.Machine.execSignalRel h e s
  | .sys h e => Sys2Proof.Machine.execSys h e s
  | .topo h e => Sys2Proof.Machine.execTopo h e s
  | .clk h e => Sys2Proof.Machine.execClk h e s
  | .setxv h e => Sys2Proof.Machine.execSetxv h e s
  | .setxvImm h e => Sys2Proof.Machine.execSetxvImm h e s
  | .trap h e => Sys2Proof.Machine.execTrap h e s
  | .bkpt h e => Sys2Proof.Machine.execBkpt h e s
  | .rett h e => Sys2Proof.Machine.execRett h e s
  | .sleep h e => Sys2Proof.Machine.execSleep h e s
  | .perf h e => Sys2Proof.Machine.execPerf h e s
  | .longResultWrite w id => Sys2Proof.Machine.execLongResultWrite w id s
  | .loadDataReturn w id unit => Sys2Proof.Machine.execLoadDataReturn w id unit s
  | .storePerformed w id unit => Sys2Proof.Machine.execStorePerformed w id unit s
  | .mredApply w id unit => Sys2Proof.Machine.execMredApply w id unit s
  | .remoteWriteApply die src => Sys2Proof.Machine.execRemoteWriteApply die src s
  | .translationWalkComplete die dom va page => Sys2Proof.Machine.execTranslationWalkComplete die dom va page s
  | .strandDeadlock w => Sys2Proof.Machine.execStrandDeadlock w s
  | .copyChunkComplete copy chunk bytes => Sys2Proof.Machine.execCopyChunkComplete copy chunk bytes s
  | .copyComplete copy => Sys2Proof.Machine.execCopyComplete copy s
  | .matrixOpComplete op => Sys2Proof.Machine.execMatrixOpComplete op s
  | .claimArrive claim => Sys2Proof.Machine.execClaimArrive claim s
  | .inboxRowEnter dom table port => Sys2Proof.Machine.execInboxRowEnter dom table port s
  | .routeReturnArrive ret => Sys2Proof.Machine.execRouteReturnArrive ret s
  | .routeWindowTimeout die core win => Sys2Proof.Machine.execRouteWindowTimeout die core win s
  | .arborRelease seq chan die => Sys2Proof.Machine.execArborRelease seq chan die s
  | .sleepExpire w strand => Sys2Proof.Machine.execSleepExpire w strand s
  | .causeTaken w => Sys2Proof.Machine.execCauseTaken w s
  | .crownPlace g die sites => Sys2Proof.Machine.execCrownPlace g die sites s
  | .launchStart seq => Sys2Proof.Machine.execLaunchStart seq s
  | .launch win r => Sys2Proof.Machine.execLaunch win r s
  | .root r => Sys2Proof.Machine.execRoot r s
  | .inval r => Sys2Proof.Machine.execInval r s
  | .ring r => Sys2Proof.Machine.execRing r s
  | .clean r => Sys2Proof.Machine.execClean r s
  | .bindr r => Sys2Proof.Machine.execBindr r s
  | .unbindr r => Sys2Proof.Machine.execUnbindr r s
  | .flips r => Sys2Proof.Machine.execFlips r s
  | .work r => Sys2Proof.Machine.execWork r s
  | .cring r => Sys2Proof.Machine.execCring r s
  | .wconf r => Sys2Proof.Machine.execWconf r s
  | .cancel r => Sys2Proof.Machine.execCancel r s
  | .resume r => Sys2Proof.Machine.execResume r s
  | .abort r => Sys2Proof.Machine.execAbort r s
  | .halt r => Sys2Proof.Machine.execHalt r s
  | .prof r => Sys2Proof.Machine.execProf r s
  | .slice r => Sys2Proof.Machine.execSlice r s
  | .publishFlipRequest flip => Sys2Proof.Machine.execPublishFlipRequest flip s
  | .flipClose flip die => Sys2Proof.Machine.execFlipClose flip die s
  | .flipAndComplete flip => Sys2Proof.Machine.execFlipAndComplete flip s
  | .flipTake flip die => Sys2Proof.Machine.execFlipTake flip die s
  | .flipDone flip => Sys2Proof.Machine.execFlipDone flip s
  | .dreset tag die => Sys2Proof.Machine.execDreset tag die s
  | .retire tag die => Sys2Proof.Machine.execRetire tag die s
  | .reinstate tag die => Sys2Proof.Machine.execReinstate tag die s
  | .w0write tag r => Sys2Proof.Machine.execW0write tag r s
  | .w0ring tag addr key qp => Sys2Proof.Machine.execW0ring tag addr key qp s
  | .grant tag dom mask => Sys2Proof.Machine.execGrant tag dom mask s
  | .wlist tag wl dom => Sys2Proof.Machine.execWlist tag wl dom s
  | .psel tag c sel => Sys2Proof.Machine.execPsel tag c sel s
  | .pclr tag c => Sys2Proof.Machine.execPclr tag c s
  | .acct tag => Sys2Proof.Machine.execAcct tag s
  | .errlog tag first count => Sys2Proof.Machine.execErrlog tag first count s
  | .spare tag stack row => Sys2Proof.Machine.execSpare tag stack row s
  | .fwstage tag off total flags piece => Sys2Proof.Machine.execFwstage tag off total flags piece s
  | .fusesvn tag kind version => Sys2Proof.Machine.execFusesvn tag kind version s
  | .unassignedOpcode op => Sys2Proof.Machine.execUnassignedOpcode op s
  | .instructionFetchFault => Sys2Proof.Machine.execInstructionFetchFault s
  | .unknownRecord win r => Sys2Proof.Machine.execUnknownRecord win r s
  | .unknownManagementOpcode tag op => Sys2Proof.Machine.execUnknownManagementOpcode tag op s
  | .launchComplete seq => Sys2Proof.Machine.execLaunchComplete seq s
  | .groupRetire g => Sys2Proof.Machine.execGroupRetire g s
  | .phaseEndComplete g => Sys2Proof.Machine.execPhaseEndComplete g s
  | .copySuspend copy => Sys2Proof.Machine.execCopySuspend copy s
  | .balanceTick wl die => Sys2Proof.Machine.execBalanceTick wl die s
  | .balanceReceive transfer => Sys2Proof.Machine.execBalanceReceive transfer s
  | .arborSample wl => Sys2Proof.Machine.execArborSample wl s
  | .arborMinResult wl die => Sys2Proof.Machine.execArborMinResult wl die s
  | .eopenTakeEffect op die => Sys2Proof.Machine.execEopenTakeEffect op die s
  | .preemptionRequest die core w => Sys2Proof.Machine.execPreemptionRequest die core w s
  | .timeSliceExpiry g => Sys2Proof.Machine.execTimeSliceExpiry g s
  | .groupSwap die core => Sys2Proof.Machine.execGroupSwap die core s
  | .warpEvict w => Sys2Proof.Machine.execWarpEvict w s
  | .groupRowsEvict g => Sys2Proof.Machine.execGroupRowsEvict g s
  | .groupRestore g => Sys2Proof.Machine.execGroupRestore g s
  | .linkRetry link => Sys2Proof.Machine.execLinkRetry link s
  | .linkDown link => Sys2Proof.Machine.execLinkDown link s
  | .dieUnresponsive die => Sys2Proof.Machine.execDieUnresponsive die s
  | .withdrawWritebackTimeout die => Sys2Proof.Machine.execWithdrawWritebackTimeout die s
  | .withdrawWritebackDone die => Sys2Proof.Machine.execWithdrawWritebackDone die s
  | .pfcPauseFrame port cls quanta => Sys2Proof.Machine.execPfcPauseFrame port cls quanta s
  | .rdmaWrite r data => Sys2Proof.Machine.execRdmaWrite r data s
  | .rdmaRead r len => Sys2Proof.Machine.execRdmaRead r len s
  | .rdmaSend port qp data => Sys2Proof.Machine.execRdmaSend port qp data s
  | .rdmaAtomicRequest r => Sys2Proof.Machine.execRdmaAtomicRequest r s
  | .ethernetFrameDiscard port etherType udpPort => Sys2Proof.Machine.execEthernetFrameDiscard port etherType udpPort s
  | .tofsMeasure offsets => Sys2Proof.Machine.execTofsMeasure offsets s
  | .powerLimitWithhold die until_ => Sys2Proof.Machine.execPowerLimitWithhold die until_ s
  | .temperatureThrottle die temp until_ => Sys2Proof.Machine.execTemperatureThrottle die temp until_ s
  | .thermalTrip stack site temp => Sys2Proof.Machine.execThermalTrip stack site temp s
  | .powerOn b => Sys2Proof.Machine.execPowerOn b s
  | .energyMeasure mj => Sys2Proof.Machine.execEnergyMeasure mj s
  | .errorDetect e => Sys2Proof.Machine.execErrorDetect e s
  | .getVersion c => Sys2Proof.Machine.execGetVersion c s
  | .getCapabilities c => Sys2Proof.Machine.execGetCapabilities c s
  | .negotiateAlgorithms c => Sys2Proof.Machine.execNegotiateAlgorithms c s
  | .getDigests c => Sys2Proof.Machine.execGetDigests c s
  | .getCertificate slot c => Sys2Proof.Machine.execGetCertificate slot c s
  | .challenge c => Sys2Proof.Machine.execChallenge c s
  | .getMeasurements signed c => Sys2Proof.Machine.execGetMeasurements signed c s
  | .keyExchange c => Sys2Proof.Machine.execKeyExchange c s
  | .finish chain c => Sys2Proof.Machine.execFinish chain c s
  | .endSession c => Sys2Proof.Machine.execEndSession c s
  | .spdmUnsupportedRequest code c => Sys2Proof.Machine.execSpdmUnsupportedRequest code c s

end Sys2Proof.Machine
end

