-- ==== Sys2Proof/Machine/Account.lean ====
section
/-! DEFINITION. Sys2Proof/Machine/Account.lean: the passing of ck and whom they are charged to (R396, R397), what the line monitor finds
(R315) and what the management port takes (R393 to R395). -/

namespace Sys2Proof

/-- The rows that come about on their own: not the instructions, which gangs issue, nor the records, the management and the SPDM requests,
which the line monitor and the management port take. -/
def Instr.isEvent : Instr → Bool
  | .longResultWrite _ _ | .loadDataReturn _ _ _ | .storePerformed _ _ _ | .mredApply _ _ _ | .remoteWriteApply _ _ |
    .translationWalkComplete _ _ _ _ | .strandDeadlock _ | .copyChunkComplete _ _ _ | .copyComplete _ |
    .matrixOpComplete _ | .claimArrive _ | .inboxRowEnter _ _ _ | .routeReturnArrive _ | .routeWindowTimeout _ _ _ |
    .arborRelease _ _ _ | .sleepExpire _ _ | .causeTaken _ | .crownPlace _ _ _ | .launchStart _ | .publishFlipRequest _ |
    .flipClose _ _ | .flipAndComplete _ | .flipTake _ _ | .flipDone _ | .launchComplete _ | .groupRetire _ |
    .phaseEndComplete _ | .copySuspend _ | .balanceTick _ _ | .balanceReceive _ | .arborSample _ | .arborMinResult _ _ |
    .eopenTakeEffect _ _ | .preemptionRequest _ _ _ | .timeSliceExpiry _ | .groupSwap _ _ | .warpEvict _ |
    .groupRowsEvict _ | .groupRestore _ | .linkRetry _ | .linkDown _ | .dieUnresponsive _ | .withdrawWritebackTimeout _ |
    .withdrawWritebackDone _ | .pfcPauseFrame _ _ _ | .rdmaWrite _ _ | .rdmaRead _ _ | .rdmaSend _ _ _ |
    .rdmaAtomicRequest _ | .ethernetFrameDiscard _ _ _ | .tofsMeasure _ | .powerLimitWithhold _ _ |
    .temperatureThrottle _ _ _ | .thermalTrip _ _ _ | .powerOn _ | .energyMeasure _ | .errorDetect _ => true
  | _ => false

end Sys2Proof

namespace Sys2Proof.Machine

/-- The domain of the active group that holds the most pool rows, the lower domain among equals, else set 64 (R397). -/
def State.heaviest (s : State) (k : CoreSt) : Nat :=
  let gs := k.active.filterMap s.group?
  ((argMin (fun (g : Group) => (1024 - g.held) * 64 + g.dom) gs).map (·.dom)).getD 64

/-- Core events 0x06 and 0x07: ck that strands of the active set spend parked, and stalled on coupling queues. -/
def State.tickWaits (s : State) (k : CoreSt) (ck : Nat) : State :=
  if !(countsEvent 6 k.counters || countsEvent 7 k.counters) then s
  else
    (k.active.filterMap s.group?).foldl (fun s g => g.warps.foldl (fun s w => [Strand.c, Strand.a].foldl (fun s st =>
      let t := w.strand st
      let s1 := if t.parked && w.longs.any (·.strand == st) then s.coreEvent k.die k.core 6 g.dom ck else s
      if w.stalled t then s1.coreEvent k.die k.core 7 g.dom ck else s1) s) s) s

/-- Phases for whose warps a core may work: those of its active groups, and of groups with copies or matrix operations (R48). -/
def State.phasesAtWork (s : State) (k : CoreSt) : List Nat :=
  (s.groups.filter fun g => g.die == k.die && g.core == k.core &&
    (g.active || (s.copies.any fun c => c.g == g.key) || s.matOps.any fun o => o.w.group == g.key)).map (·.phase)

/-- ck of one core: to the warp on its C-strand front end, then to its heaviest active group (R397); core event 0x00 counts them. Profile
entries of the phases at work are updated (R48). -/
def State.tickCore (s : State) (k : CoreSt) (ck : Nat) : State :=
  let n := min ck (k.feUntil - s.now)
  let d := s.heaviest k
  let s1 := (((s.charge k.feDom 0 n).charge d 0 (ck - n)).coreEvent k.die k.core 0 k.feDom n).coreEvent k.die k.core 0 d (ck - n)
  let s2 := s1.tickWaits k ck
  if k.profile.isEmpty then s2
  else
    let on := s.phasesAtWork k
    s2.modCore k.die k.core fun k => { k with profile := k.profile.map fun p => if on.contains p.phase then { p with used := s.now + ck } else p }

/-- Writes of other dies that a die has still to apply. -/
def Memory.backlog (m : Memory) (d : Nat) : Nat := (m.sent ++ m.log).countP fun p => p.only.isNone && !(p.seenBy d)

/-- ck of one die: die event 0x13, and 0x0D, which needs 256 writes that wait (R296); neither is traffic of a domain (log 20). -/
def State.tickDie (s : State) (d : DieSt) (ck : Nat) : State :=
  let s1 := s.dieEvent d.num 0x13 64 (min ck (d.withheldUntil - s.now))
  if countsEvent 0x0D d.counters && 256 ≤ s.memory.backlog d.num then s1.dieSome d.num 0x0D 64 else s1

/-- Time that a warp of an active group spends held counts towards no time slice (R368; log 70). -/
def Group.holdSlice (g : Group) (now ck : Nat) : Group :=
  if g.active && g.entered ≤ now && g.warps.any (fun w => w.held || w.parkedFor) then { g with entered := g.entered + ck } else g

/-- ck pass before the next thing happens. Cores that never had a group are charged to set 64. -/
def State.tick (s : State) (ck : Nat) : State :=
  if ck == 0 then s
  else if s.module.boot != .running then { s with now := s.now + ck }
  else
    let live := s.cores.filter fun k => s.isLive k.die
    let s1 := live.foldl (fun s k => s.tickCore k ck) s
    let s2 := (s.dies.filter fun d => s.isLive d.num).foldl (fun s d => s.tickDie d ck) s1
    let rest := s.liveDies.length * Config.coresPerDie - live.length
    { s2.charge 64 0 (ck * rest) with now := s.now + ck, groups := s2.groups.map fun g => g.holdSlice s.now ck }

/-! ## The line monitor (R314, R315) -/

/-- The sequence byte of record k (R314). -/
def seqByte (k : Nat) : Nat := (k - 1) / 64 % 255 + 1

/-- The record in the slot of the next expected k, when its sequence byte has the expected value (R315). -/
def State.monitored (s : State) (win : Nat) : Option (Instr × State) :=
  let w := s.window win
  if s.module.boot == .running && win < 256 && (w.dom.isSome || win == 0) then
    match tableGet ((w.next - 1) % 64) w.bytes with
    | some bs => if leAt bs 255 1 == seqByte w.next && bs.length == 256 then some (decodeRecord win ⟨bs⟩, s) else none
    | none => none
  else none

/-! ## The management port (R389, R393 to R395) -/

/-- The requests a module in recovery still answers (R390): those on firmware. -/
def firmwareOp (bs : List Byte) : Bool := leAt bs 0 2 == 0x0050 || leAt bs 0 2 == 0x0051

/-- A management request is handled when it comes as the next secured message of the open session, once the one before is answered; in recovery
only a firmware request. -/
def State.managed (s : State) (bytes : List Byte) : Option (Instr × State) :=
  if s.module.boot == .off || !s.module.session.isOpen || s.dies.any (·.withdrawal.isSome) || leAt bytes 0 4 != bytes.length - 4 then none
  else
    match s.unsealed (bytes.drop 4) with
    | none => none
    | some (data, s1) =>
      if spdmData data || (s.module.boot == .recovery && !firmwareOp data) then none else some (decodeMgmt data, s1)

end Sys2Proof.Machine
end

