-- ==== Sys2Proof/Machine/Due.lean ====
section
/-! DEFINITION. Sys2Proof/Machine/Due.lean: what cannot wait longer once ck have passed: sleeps (R258), timeouts of routing windows (R345), samples, results
and opens of the Escapement within their bounds (R236, R243), and RDMA requests that no page or flip holds up any more (R382). -/

namespace Sys2Proof.Machine

/-- ck within which a window completes by timeout once T ck have passed (R345). -/
def timeoutSlack : Nat := 64

def RWindow.overdue (w : RWindow) (now : Nat) : Bool :=
  match w.deadline with
  | some t => w.open_ && t + timeoutSlack < now
  | none => false

/-- Windows whose timeout is overdue complete by it. -/
def State.overdueWindows (s : State) : State :=
  s.cores.foldl (fun (t : State) k => (List.range k.windows.length).foldl (fun (t : State) i =>
    let w := t.rwindow k.die k.core i
    if w.overdue t.now then t.completeWindow k.die k.core i w .timeout else t) t) s

/-- A sleep that has lasted its least time and 8 ck more for each warp of the active set is over (R258); the active set is that of the moment. -/
def StrandSt.wake (now warps : Nat) (t : StrandSt) : StrandSt :=
  match t.sleepEnd with
  | some e => if e + 8 * warps < now then { t with sleepEnd := none } else t
  | none => t

/-- Warps in the active set of a core. -/
def State.activeWarps (s : State) (die core : Nat) : Nat := (((s.core die core).active.filterMap s.group?).map (·.warps.length)).sum

def State.overdueSleeps (s : State) : State :=
  { s with groups := s.groups.map fun g =>
      let n := s.activeWarps g.die g.core
      { g with warps := g.warps.map fun w => { w with c := w.c.wake s.now n, a := w.a.wake s.now n } } }

/-- ck pass, and what was due by then has come about. -/
def State.pass (s : State) (ck : Nat) : State :=
  let s1 := s.tick ck
  if s1.module.boot == .running then s1.overdueSleeps.overdueWindows.overdueEscapement.rdmaDrain else s1

end Sys2Proof.Machine
end

