-- ==== Sys2Proof/Machine/Step.lean ====
section
/-! DEFINITION. Sys2Proof/Machine/Step.lean: one step: the next thing to happen, and the ck that pass before it. -/

namespace Sys2Proof.Machine

/-- The issue is over. -/
def settleStepOutcome : Host.Outcome State Fault Refusal → Host.Outcome State Fault Refusal
  | .next s => .next { s with cur := none }
  | .fault f => .fault f
  | .refused r => .refused r

/-- What an agenda entry names comes about. -/
def act (a : Act) (s : State) : Host.Outcome State Fault Refusal :=
  match a with
  | .issue w st gang =>
    if !(s.picks ⟨w, st, gang⟩) then .next { s with cur := none } else
    match s.issue ⟨w, st, gang⟩ with
    | .idle s' => .next { s' with cur := none }
    | .run i s' => settleStepOutcome (exec i s')
  | .monitor win =>
    match s.monitored win with
    | some (i, s') => settleStepOutcome (exec i s')
    | none => .next s
  | .manage bytes =>
    match s.managed bytes with
    | some (i, s') => settleStepOutcome (exec i s')
    | none => .next s
  | .attest chain bytes => settleStepOutcome (s.attest chain bytes)
  | .event i => if i.isEvent then settleStepOutcome (exec i { s with cur := none }) else .next s

/-- One step: the head of the agenda, or what the free choice names when the agenda is empty. -/
def step (s : State) : Host.Outcome State Fault Refusal :=
  match s.agenda with
  | e :: rest => act e.act ({ s with agenda := rest }.pass e.ck)
  | [] =>
    let s1 := { s with steps := s.steps + 1 }
    match Config.nextEntry s.steps with
    | some e => act e.act (s1.pass e.ck)
    | none => .next s1

/-! ## A machine about to run one word -/

/-- A code object at address 0x10000 whose C-strand and A-strand segments are one word. -/
def oneWord : CodeObject := ⟨0x10000, 16, false, (0, 8), (0, 8), (0, 0), (0, 0), [⟨0, 0, 0, 0, ⟨0, 0, []⟩⟩]⟩

/-- A launch of one group of one warp of width 16 in domain 0 (sequence number 0, which no launch takes). -/
def oneLaunch : Launch :=
  { seq := 0, win := 1, k := 1, order := 0, dom := 0, prio := 0, cookie := 0, code := oneWord, firstPhase := 0, warps := 1, rows := 45,
    groups := 1, perCohort := 1, param := 0, dies := [0], hint0 := none, hint1 := none, deps := [], succAddr := 0, succVal := 0,
    started := true, placed := 1, retired := 0, lastDie := none, status := none, detail := 0, reported := false, ended := false, owed := false,
    cancelBy := none, orphans := [] }

/-- Page tables that map the first 1 GiB of domain 0 to stack 0, with the word at 0x10000. -/
def oneMemory (m : Memory) (w : Nat) : Memory :=
  (((m.store 0x1000 (leBytes 8 0x2001)).store 0x2000 (leBytes 8 0x3001)).store 0x3000 (leBytes 8 0xF)).store 0x10000 (leBytes 8 w)

/-- Store one instruction word where the next step fetches: the module runs, one group of one warp stands on core 0 of die 0, and the agenda
has its strand issue (log 2). The low nbits of w are the word, first byte lowest. -/
def State.withFetchWord (s : State) (nbits w : Nat) : State :=
  let key : GroupKey := ⟨0, 0⟩
  let word := w % 2 ^ min nbits 64
  let st : Strand := if opcodeInStrand (word / 2 ^ 55) .c then .c else .a
  let g := s.newGroup oneLaunch ⟨0, 0, 0, 0, ⟨0, 0, []⟩⟩ Carried.none key 0 0 [0] 0 ⟨0, 0x20000, 0x30000⟩
  let s1 := { s with
    groups := { g with active := true } :: s.groups
    launches := oneLaunch :: s.launches
    memory := oneMemory s.memory word
    module := { s.module with boot := .running }
    agenda := [⟨0, .issue ⟨0, 0, 0⟩ st 0⟩] }
  ((s1.modDomain 0 fun d => { d with root := some 0x1000 }).modCore 0 0 fun k =>
    { k with active := [key], feUntil := 0, aUntil := 0, lastC := none, lastA := none }).modDie 0 fun d =>
      { d with status := .live, masked := false, withheldUntil := 0 }

end Sys2Proof.Machine
end

