-- ==== Sys2Proof/Safety.lean ====
section
/-! DEFINITION. Sys2Proof/Safety.lean: what counts as a safe run, and the words the statements use: tables that give each instruction row
its operands and result in the terms of the spec, and what the parts of the state hold after it. -/

namespace Sys2Proof.Machine

/-- Device memory and every group's scratch are in canonical form. -/
def State.canonicalStores (s : State) : Bool := s.memory.wf && s.groups.all fun g => cellsWf g.scratch

/-- The state after n steps, while every step goes on. -/
def State.run (s : State) : Nat → Option State
  | 0 => some s
  | n + 1 =>
    match step s with
    | .next t => t.run n
    | .fault _ => none
    | .refused _ => none

/-- n steps go on. -/
def State.safeFor (s : State) (n : Nat) : Prop := (s.run n).isSome

/-! ## What the end of an issue leaves alone -/

/-- A strand less its slices and its stop. -/
def StrandSt.still (t : StrandSt) : StrandSt := { t with slices := [], stopped := false }

/-- A warp less what releasing slices and closing call levels may change: the slices, the C-strand queues and their marks, causes raised,
and the count of R19. Frame slots, x and y registers, masks, coupling queues, flags, mode and cause registers are all in it. -/
def Warp.rest (w : Warp) : Warp :=
  { w with lanes := w.lanes.map fun k => { k with a := Vector.replicate 8 0 }, c := w.c.still, a := w.a.still, busy := [], pending := [],
           stuckSince := none }

/-- Nothing ends for a slice (R142, R143, R145): it has an active lane, and the innermost entry of its call level does not meet at its PC. -/
def Slice.goesOn (sl : Slice) : Bool :=
  sl.active != 0 && (sl.stack.length ≤ sl.base || match sl.stack with
    | .pending r _ _ :: _ => r != sl.pc
    | .join r _ _ _ _ :: _ => r != sl.pc
    | _ => true)

/-- After a state's end of an issue slice i of the issuing strand is sl, in some gang, with nothing found to wait for. -/
def State.sliceIs (t : State) (c : Ctx) (i : Nat) (sl : Slice) : Prop :=
  ∃ w g, t.warp? c.iss.w = some w ∧ (w.strand c.iss.strand).slice i = { sl with stall := none, gang := g }

/-- A group less its warps. -/
def Group.shell (g : Group) : Group := { g with warps := [] }

/-- A core less its translation cache and event counters; a die less its caches and event counters. -/
def CoreSt.shell (k : CoreSt) : CoreSt := { k with tlb := [], counters := [] }
def DieSt.shell (d : DieSt) : DieSt := { d with lines := [], tlb := [], counters := [] }

/-! ## C-strand instructions that work lane by lane -/

/-- A C-strand instruction of format Q or QI: its guard, whether it is long, destination kind and number, source specifiers, and what
each lane computes. -/
structure LaneOp where
  h : Hdr
  long : Bool
  dk : BitVec 3
  fs : BitVec 5
  codes : List (BitVec 7)
  res : Nat → Res

/-- Format Q with the first k sources; f gets what the lane reads. -/
def LaneOp.q (c : Ctx) (h : Hdr) (q : FormQ) (k : Nat) (long : Bool) (f : List Word → Res) : LaneOp :=
  ⟨h, long, q.dk, q.fs, [q.sa, q.sb, q.sc].take k, fun l => f (c.reads (oneOf q.ty.toNat) ([q.sa, q.sb, q.sc].take k) l)⟩

/-- Format QI: one register source and the immediate (R109). -/
def LaneOp.qi (c : Ctx) (h : Hdr) (q : FormQI) (f : List Word → Res) : LaneOp :=
  ⟨h, false, q.dk, q.fs, [q.sa], fun l => f (c.reads (oneOf q.ty.toNat) [q.sa] l ++ [q.imm])⟩

/-- Integer and logic rows (R111 to R117). -/
def intOp (c : Ctx) : Instr → Option LaneOp
  | .iadd h q => some (.q c h q 2 false (addInt q.ty.toNat q.sat))
  | .isub h q => some (.q c h q 2 false (subInt q.ty.toNat q.sat))
  | .imul h q => some (.q c h q 2 false (mulInt q.ty.toNat q.sat))
  | .imulh h q => some (.q c h q 2 false (mulhInt q.ty.toNat))
  | .imad h q => some (.q c h q 3 false (madInt q.ty.toNat q.sat))
  | .idiv h q => some (.q c h q 2 true (divInt q.ty.toNat false))
  | .irem h q => some (.q c h q 2 true (divInt q.ty.toNat true))
  | .imin h q => some (.q c h q 2 false (minInt q.ty.toNat))
  | .imax h q => some (.q c h q 2 false (maxInt q.ty.toNat))
  | .iabs h q => some (.q c h q 1 false (absInt q.ty.toNat q.sat))
  | .ineg h q => some (.q c h q 1 false (negInt q.ty.toNat q.sat))
  | .icmp h q => some (.q c h q 2 false (cmpInt q.ty.toNat q.sub.toNat))
  | .andBits h q => some (.q c h q 2 false fun v => ⟨src v 0 &&& src v 1, 0⟩)
  | .orBits h q => some (.q c h q 2 false fun v => ⟨src v 0 ||| src v 1, 0⟩)
  | .xorBits h q => some (.q c h q 2 false fun v => ⟨src v 0 ^^^ src v 1, 0⟩)
  | .notBits h q => some (.q c h q 1 false fun v => ⟨~~~(src v 0), 0⟩)
  | .shl h q => some (.q c h q 2 false (shlInt q.ty.toNat))
  | .shr h q => some (.q c h q 2 false (shrInt q.ty.toNat))
  | .sar h q => some (.q c h q 2 false (sarInt q.ty.toNat))
  | .rot h q => some (.q c h q 2 false (rotInt q.ty.toNat))
  | .popc h q => some (.q c h q 1 false (popcInt q.ty.toNat))
  | .clz h q => some (.q c h q 1 false (clzInt q.ty.toNat))
  | .brev h q => some (.q c h q 1 false (brevInt q.ty.toNat))
  | .bfx h q => some (.q c h q 3 false fun v => ⟨bitExtract (intS q.ty.toNat) (src v 0) (src v 1) (src v 2), 0⟩)
  | .bfi h q => some (.q c h q 3 false fun v => ⟨bitInsert (src v 0) (src v 1) (src v 2), 0⟩)
  | .sel h q => some ⟨h, false, q.dk, q.fs, [q.sa, q.sb], fun l =>
      ⟨src (c.reads 1 [q.sa, q.sb] l) (if (c.maskReg (q.sub.toNat % 8)).getLsbD l != q.sub.getLsbD 3 then 0 else 1), 0⟩⟩
  | .selh h q => some (.q c h q 2 false fun v =>
      ⟨pickHalf (q.sub.toNat / 4 % 4) (src v 0) (src v 1) ++ pickHalf (q.sub.toNat % 4) (src v 0) (src v 1), 0⟩)
  | .iaddImm h q => some (.qi c h q (addInt q.ty.toNat false))
  | .imulImm h q => some (.qi c h q (mulInt q.ty.toNat false))
  | .andBitsImm h q => some (.qi c h q fun v => ⟨src v 0 &&& src v 1, 0⟩)
  | .orBitsImm h q => some (.qi c h q fun v => ⟨src v 0 ||| src v 1, 0⟩)
  | .xorBitsImm h q => some (.qi c h q fun v => ⟨src v 0 ^^^ src v 1, 0⟩)
  | .shlImm h q => some (.qi c h q (shlInt q.ty.toNat))
  | .shrImm h q => some (.qi c h q (shrInt q.ty.toNat))
  | .sarImm h q => some (.qi c h q (sarInt q.ty.toNat))
  | .iminImm h q => some (.qi c h q (minInt q.ty.toNat))
  | .imaxImm h q => some (.qi c h q (maxInt q.ty.toNat))
  | _ => none

/-- A floating-point row: elements of .f32 or .bf16x2, rounded by RND with SAT and FTZ (R118). -/
def LaneOp.fl (c : Ctx) (h : Hdr) (q : FormQ) (k : Nat) (long : Bool) (f : FMode → List Nat → Rounded) : LaneOp :=
  .q c h q k long (perFloat q.ty.toNat (f ⟨fracOf q.ty.toNat, q.rnd, q.sat, c.warp.mode.getLsbD 0⟩))

/-- Its immediate form: rne and SAT 0 (R109). -/
def LaneOp.fli (c : Ctx) (h : Hdr) (q : FormQI) (f : FMode → List Nat → Rounded) : LaneOp :=
  .qi c h q (perFloat q.ty.toNat (f ⟨fracOf q.ty.toNat, 0, false, c.warp.mode.getLsbD 0⟩))

/-- Floating-point, special-function and conversion rows (R118 to R129). -/
def floatOp (c : Ctx) : Instr → Option LaneOp
  | .fadd h q => some (.fl c h q 2 false faddOf)
  | .fsub h q => some (.fl c h q 2 false fsubOf)
  | .fmul h q => some (.fl c h q 2 false fmulOf)
  | .ffma h q => some (.fl c h q 3 false ffmaOf)
  | .fmin h q => some (.fl c h q 2 false (fminmaxOf false))
  | .fmax h q => some (.fl c h q 2 false (fminmaxOf true))
  | .fabs h q => some (.fl c h q 1 false fabsOf)
  | .fneg h q => some (.fl c h q 1 false fnegOf)
  | .fcmp h q => some (.fl c h q 2 false (fcmpOf q.sub.toNat))
  | .frnd h q => some (.fl c h q 1 false frndOf)
  | .fclass h q => some (.fl c h q 1 false fclassOf)
  | .fdiv h q => some (.fl c h q 2 true fdivOf)
  | .fsqrt h q => some (.fl c h q 1 true fsqrtOf)
  | .faddImm h q => some (.fli c h q faddOf)
  | .fmulImm h q => some (.fli c h q fmulOf)
  | .fminImm h q => some (.fli c h q (fminmaxOf false))
  | .fmaxImm h q => some (.fli c h q (fminmaxOf true))
  | .rcp h q => some (.fl c h q 1 true (sfuOf 0))
  | .rsq h q => some (.fl c h q 1 true (sfuOf 1))
  | .ex2 h q => some (.fl c h q 1 true (sfuOf 2))
  | .lg2 h q => some (.fl c h q 1 true (sfuOf 3))
  | .sin h q => some (.fl c h q 1 true (sfuOf 4))
  | .cos h q => some (.fl c h q 1 true (sfuOf 5))
  | .tanh h q => some (.fl c h q 1 true (sfuOf 6))
  | .sigm h q => some (.fl c h q 1 true (sfuOf 7))
  | .cvt h q => some ⟨h, false, q.dk, q.fs, [q.sa], fun l =>
      resOf (q.sub.toNat % 16) (convert q.ty.toNat (q.sub.toNat % 16) q.rnd q.sat (c.warp.mode.getLsbD 0) (c.xv l)
        (elemOf q.ty.toNat (q.sub.toNat / 16 % 8) (src (c.reads (oneOf q.ty.toNat) [q.sa] l) 0)))⟩
  | .qnt h q => some ⟨h, false, q.dk, q.fs, [q.sa, q.sb], fun l =>
      let v := c.reads (oneOf q.ty.toNat) [q.sa, q.sb] l
      resOf q.ty.toNat (quantise (q.sub.toNat % 16) q.ty.toNat q.rnd q.flag (c.warp.mode.getLsbD 0) (c.xv l)
        (elemOf (q.sub.toNat % 16) 0 (src v 0)) ((src v 1).toNat % 256))⟩
  | .dqnt h q => some ⟨h, false, q.dk, q.fs, [q.sa, q.sb], fun l =>
      let v := c.reads (oneOf q.ty.toNat) [q.sa, q.sb] l
      resOf (q.sub.toNat % 16) (dequantise q.ty.toNat (q.sub.toNat % 16) q.rnd (c.warp.mode.getLsbD 0) (c.xv l)
        (elemOf q.ty.toNat (q.sub.toNat / 16 % 8) (src v 0)) ((src v 1).toNat % 256))⟩
  | .pack h q => some (.q c h q 2 false fun v => ⟨packElem q.ty.toNat (q.sub.toNat % 8) (src v 0) (src v 1), 0⟩)
  | .unpk h q => some (.q c h q 1 false fun v => ⟨scalarWord q.ty.toNat (elemOf q.ty.toNat (q.sub.toNat % 8) (src v 0)), 0⟩)
  | _ => none

/-- Source a of a lane of an instruction whose a is its only source, with one as the constant. -/
def Ctx.aOf (c : Ctx) (one : Word) (sa : BitVec 7) (l : Nat) : Word := src (c.reads one [sa] l) 0

/-- What a lane supplies to another (R134): as read with the other lanes of the gang, else its current value, 0 for a queue. -/
def Ctx.supplied (c : Ctx) (sa : BitVec 7) (codes : List (BitVec 7)) (k : Nat) : Word :=
  if c.gangMask.getLsbD k then src (c.reads 1 codes k) 0 else c.readAny sa k

/-- Cross-lane rows (R134 to R138) but the ballot that writes a mask register. -/
def crossOp (c : Ctx) : Instr → Option LaneOp
  | .shfl h q => some ⟨h, true, q.dk, q.fs, [q.sa, q.sb], fun l =>
      ⟨c.supplied q.sa [q.sa, q.sb] (shflLane (q.sub.toNat % 4) q.flag c.warp.width l (src (c.reads 1 [q.sa, q.sb] l) 1).toNat), 0⟩⟩
  | .vote h q =>
    if q.sub.toNat % 4 == 0 && q.dk == 6 then none
    else some ⟨h, true, q.dk, q.fs, [q.sa], fun _ =>
      match q.sub.toNat % 4 with
      | 0 => ⟨maskHalf q.flag (ballotOf c.warp.width (c.exec h) (c.aOf 1 q.sa)), 0⟩
      | 1 => ⟨if (c.execLanes h).any fun l => c.aOf 1 q.sa l != 0 then 1 else 0, 0⟩
      | 2 => ⟨if (c.execLanes h).all fun l => c.aOf 1 q.sa l != 0 then 1 else 0, 0⟩
      | _ => ⟨if uniform (c.execLanes h) (c.aOf 1 q.sa) then 1 else 0, 0⟩⟩
  | .wred h q => some ⟨h, true, q.dk, q.fs, [q.sa], fun _ =>
      let r := c.scan h q (c.aOf (oneOf q.ty.toNat) q.sa)
      ⟨((r.1.getLast?).map (·.2.2)).getD (redIdentity (q.sub.toNat % 16) q.ty.toNat), r.2⟩⟩
  | .wscan h q => some ⟨h, true, q.dk, q.fs, [q.sa], fun l =>
      let r := c.scan h q (c.aOf (oneOf q.ty.toNat) q.sa)
      match r.1.find? (·.1 == l) with
      | some (_, ex, inc) => ⟨if q.flag then ex else inc, r.2⟩
      | none => ⟨0, 0⟩⟩
  | .matchLanes h q => some ⟨h, true, q.dk, q.fs, [q.sa], fun l =>
      ⟨maskHalf q.flag ((c.execLanes h).foldl (fun m k => if c.aOf 1 q.sa k == c.aOf 1 q.sa l then m ||| (1 <<< k) else m) 0), 0⟩⟩
  | .bcast h q => some ⟨h, true, q.dk, q.fs, if q.flag then [q.sa] else [q.sa, q.sb], fun _ =>
      let codes := if q.flag then [q.sa] else [q.sa, q.sb]
      let low := firstOf c.warp.width (c.exec h)
      ⟨c.supplied q.sa codes (if q.flag then low else (src (c.reads 1 codes low) 1).toNat % c.warp.width), 0⟩⟩
  | .mov h q => some ⟨h, false, q.dk, q.fs, [q.sa], fun l => ⟨c.aOf 1 q.sa l, 0⟩⟩
  | .movi h q => some ⟨h, false, q.dk, q.fs, [], fun _ => ⟨q.imm, 0⟩⟩
  | _ => none

/-- The coupling queues let a lane-by-lane instruction issue (R16, R20). -/
def Ctx.laneGate (c : Ctx) (o : LaneOp) : Gate := (c.lqGate (lqNeed o.codes)).and (c.pushGate o.dk.toNat)

/-- A lane after a lane-by-lane instruction: the queue entry of kinds 0 and 1 in every active lane, the frame slot of kinds 1 and 2 in the
executing ones, the entry of SQ or IQ (kinds 3 and 4) in every lane of the gang while the A-strand lives, what was popped off LQ, and
the flags of a short instruction. -/
def Ctx.laneAfter (c : Ctx) (o : LaneOp) (l : Nat) (k : Lane) : Lane :=
  let exec := (c.exec o.h).getLsbD l
  let gang := c.gangMask.getLsbD l
  let v := if exec then (o.res l).word else 0
  { k with
      a := if o.dk.toNat ≤ 1 && c.active.getLsbD l then (Vector.ofFn fun i => if i.val = 0 then v else k.a.getD (i.val - 1) 0) else k.a
      f := if (o.dk == 1 || o.dk == 2) && exec then k.f.set! o.fs.toNat v else k.f
      status := if exec && !o.long then k.status ||| (o.res l).flags else k.status
      lq := if gang then k.lq.drop (lqPops o.codes) else k.lq
      sq := if o.dk == 3 && gang && !c.warp.a.exited then k.sq ++ [v] else k.sq
      iq := if o.dk == 4 && gang && !c.warp.a.exited then k.iq ++ [v] else k.iq }

/-- The y registers after it: kind 5 writes the value of the lowest executing lane. -/
def Ctx.yAfter (c : Ctx) (o : LaneOp) : Vector Word 16 :=
  match o.dk == 5, c.firstLane? o.h with
  | true, some l => c.warp.y.set! o.fs.toNat (o.res l).word
  | _, _ => c.warp.y

/-- Bit l of mask register i after it: kind 6 writes the executing lanes' bits of one register. -/
def Ctx.maskBitAfter (c : Ctx) (o : LaneOp) (i l : Nat) : Bool :=
  if o.dk == 6 && i == o.fs.toNat % 8 && (c.exec o.h).getLsbD l then (o.res l).word != 0 else (c.warp.m.getD i 0).getLsbD l

/-- Flags raised by the executing lanes of an instruction. -/
def Ctx.laneFlags (c : Ctx) (o : LaneOp) : LaneFlags := (c.execLanes o.h).map fun l => (l, (o.res l).flags)

/-- An answer r of a row is a next state in which the row has completed from s1 with a long result (R81, R108): the destination holds res by kind
in the executing lanes, LQ pops by the sources, the flags raised are none, and nothing else of the warp changes. -/
def Ctx.gives (c : Ctx) (r : Host.Outcome State Fault Refusal) (s1 : State) (h : Hdr) (dk : BitVec 3) (fs : BitVec 5) (codes : List (BitVec 7))
    (res : Nat → Word) : Prop :=
  let o : LaneOp := ⟨h, true, dk, fs, codes, fun l => ⟨res l, 0⟩⟩
  ∃ (w : Warp), r = .next (c.finish h nextPc s1.bumpId w) ∧
    (∀ l : Nat, w.lanes[l]? = (c.warp.lanes[l]?).map (c.laneAfter o l)) ∧
    w.y = c.yAfter o ∧
    (∀ i l, (w.m.getD i 0).getLsbD l = c.maskBitAfter o i l) ∧
    w.longs = c.warp.longs ++ [⟨s1.nextId, c.iss.strand, c.slices.headD 0, (c.execLanes h).map fun l => (l, 0), none, c.pc⟩] ∧
    { w with lanes := c.warp.lanes, y := c.warp.y, m := c.warp.m, longs := c.warp.longs, busy := c.warp.busy } = c.warp

/-- The conclusion of the lane-by-lane rows: the instruction completes, every lane, y register and mask bit is as the table says, a long result
stays outstanding with its flags, a short one raises the arithmetic cause of its flags, and nothing else of the warp changes. -/
def LaneRowCompletes (tab : Ctx → Instr → Option LaneOp) : Prop :=
  ∀ (s : State) (c : Ctx) (i : Instr) (o : LaneOp), s.ctx? = some c → tab c i = some o → c.laneGate o = .go →
    ∃ (w : Warp), exec i s = .next (c.finish o.h nextPc (if o.long then s.bumpId else s) w) ∧
      (∀ l : Nat, w.lanes[l]? = (c.warp.lanes[l]?).map (c.laneAfter o l)) ∧
      w.y = c.yAfter o ∧
      (∀ i l, (w.m.getD i 0).getLsbD l = c.maskBitAfter o i l) ∧
      w.longs = c.warp.longs ++ (if o.long then [⟨s.nextId, c.iss.strand, c.slices.headD 0, c.laneFlags o, none, c.pc⟩] else []) ∧
      w.pending = c.warp.pending ++ (if o.long then [] else
        match arithCause c.warp.mode (c.laneFlags o) with
        | some (code, l) => [{ Raised.plain code 0 (l / 4) c.iss.strand true c.pc [l / 4] with lane := l }]
        | none => []) ∧
      { w with lanes := c.warp.lanes, y := c.warp.y, m := c.warp.m, longs := c.warp.longs, pending := c.warp.pending,
               busy := c.warp.busy, c := c.warp.c, a := c.warp.a } = c.warp ∧
      (∀ st, w.strand st = { c.warp.strand st with stopped := (c.warp.strand st).stopped ||
        (st == c.iss.strand && !o.long && (arithCause c.warp.mode (c.laneFlags o)).isSome) })

/-! ## Integer results -/

/-- Elements of an integer type 0 to 3, and the width of one (R57, R58). -/
def elements (ty : Nat) : Nat := if ty < 2 then 1 else 2
def elemBits (ty : Nat) : Nat := if ty < 2 then 32 else 16

/-- Bit i of element j of a word. -/
def elemBit (ty j : Nat) (v : Word) (i : Nat) : Bool := v.getLsbD (elemBits ty * j + i)

/-- The number element j stands for: two's complement for the .i types, plain binary for the .n types (R58). -/
def numberOf (ty j : Nat) (v : Word) : Int :=
  match ty with
  | 0 => v.toInt
  | 1 => v.toNat
  | 2 => (v.extractLsb' (16 * j) 16).toInt
  | _ => (v.extractLsb' (16 * j) 16).toNat

/-- The range of a type (R58). -/
def leastOf (ty : Nat) : Int := if ty = 0 then -2147483648 else if ty = 2 then -32768 else 0
def greatestOf (ty : Nat) : Int := if ty = 0 then 2147483647 else if ty = 1 then 4294967295 else if ty = 2 then 32767 else 65535

/-- r holds the exact results x of the elements: kept modulo 2^w in the type's range, or with SAT the nearer bound where x lies outside, SX then
set and no other flag (R58, R112). -/
def reducedTo (ty : Nat) (sat : Bool) (r : Res) (x : Nat → Int) : Prop :=
  (∀ j, j < elements ty →
    leastOf ty ≤ numberOf ty j r.word ∧ numberOf ty j r.word ≤ greatestOf ty ∧
    (sat = false → (numberOf ty j r.word - x j) % 2 ^ elemBits ty = 0) ∧
    (sat = true → numberOf ty j r.word = max (leastOf ty) (min (greatestOf ty) (x j)))) ∧
  ((sat = true ∧ ∃ j, j < elements ty ∧ (x j < leastOf ty ∨ greatestOf ty < x j)) → r.flags = 0x20) ∧
  ((sat = false ∨ ∀ j, j < elements ty → leastOf ty ≤ x j ∧ x j ≤ greatestOf ty) → r.flags = 0)

/-- Lane l of an integer row has the result that P says. -/
def Ctx.intResult (c : Ctx) (i : Instr) (l : Nat) (P : Res → Prop) : Prop := ∃ o, intOp c i = some o ∧ P (o.res l)

/-! ## Floating-point results (R56, R59) -/

/-- A binary32 (frac 23) or BF16 (frac 7) code as a number of units of 2^−(126 + frac), none for an infinity or a NaN (R59). -/
def unitsOf (frac code : Nat) : Option Int :=
  let e := code / 2 ^ frac % 256
  let m := code % 2 ^ frac
  if e = 255 then none
  else some ((if code / 2 ^ (frac + 8) % 2 = 1 then -1 else 1) * ((if e = 0 then m else (2 ^ frac + m) * 2 ^ (e - 1) : Nat) : Int))

def isNaN (frac code : Nat) : Prop := code / 2 ^ frac % 256 = 255 ∧ code % 2 ^ frac ≠ 0

def canonicalNaN (frac : Nat) : Nat := if frac = 23 then 0x7FC00000 else 0x7FC0

/-- The code of a sign bit. -/
def signBit (frac : Nat) (neg : Prop) [Decidable neg] : Nat := if neg then 2 ^ (frac + 8) else 0

/-- The code stands for the number of a format nearest p/d units by RND (R56, R59): 0 nearest, a tie to the even code; 1 toward zero; 2 down; 3 up.
What is not zero keeps its sign. -/
def roundsTo (frac rnd : Nat) (p : Int) (d code : Nat) : Prop :=
  ∃ v, unitsOf frac code = some v ∧ code < 2 ^ (frac + 9) ∧ (p ≠ 0 → (2 ^ (frac + 8) ≤ code ↔ p < 0)) ∧
    ∀ k w, unitsOf frac k = some w →
      match rnd with
      | 0 => (v * d - p).natAbs ≤ (w * d - p).natAbs ∧ (w ≠ v → (v * d - p).natAbs = (w * d - p).natAbs → code % 2 = 0)
      | 1 => v.natAbs * d ≤ p.natAbs ∧ (w.natAbs * d ≤ p.natAbs → w.natAbs ≤ v.natAbs)
      | 2 => v * d ≤ p ∧ (w * d ≤ p → w ≤ v)
      | _ => p ≤ v * d ∧ (p ≤ w * d → v ≤ w)

/-- p/d units round beyond the greatest finite number; whether the mode then gives infinity; and the code (R59, R121). -/
def overflows (frac rnd : Nat) (p : Int) (d : Nat) : Prop :=
  let greatest := (2 ^ (frac + 1) - 1) * 2 ^ 253 * d
  let next := 2 ^ (frac + 254) * d
  match rnd with
  | 0 => greatest + next ≤ 2 * p.natAbs
  | 1 => next ≤ p.natAbs
  | 2 => if p < 0 then greatest < p.natAbs else next ≤ p.natAbs
  | _ => if p < 0 then next ≤ p.natAbs else greatest < p.natAbs

def toInfinity (rnd : Nat) (p : Int) : Bool := rnd == 0 || (rnd == 2 && p < 0) || (rnd == 3 && 0 < p)

def beyondCode (frac rnd : Nat) (sat : Bool) (p : Int) : Nat :=
  signBit frac (p < 0) + 255 * 2 ^ frac - if toInfinity rnd p && !sat then 0 else 1

/-- v units are the square root of n/d units² by RND, as one of a format's numbers. -/
def rootsTo (frac rnd n d code : Nat) : Prop :=
  ∃ v : Int, 0 ≤ v ∧ unitsOf frac code = some v ∧ ∀ k w, unitsOf frac k = some w → 0 ≤ w →
    match rnd with
    | 0 => (v < w → 4 * (n : Int) ≤ (v + w) * (v + w) * d) ∧ (w < v → (v + w) * (v + w) * d ≤ 4 * n)
    | 3 => n ≤ v * v * d ∧ (w < v → w * w * d < n)
    | _ => v * v * d ≤ n ∧ (v < w → (n : Int) < w * w * d)

/-- k is the integer nearest n/u by RND; a tie goes to the even one (R120; log 71). -/
def roundsInt (rnd : Nat) (n : Int) (u : Nat) (k : Int) : Prop :=
  match rnd with
  | 0 => 2 * (k * u - n).natAbs ≤ u ∧ (2 * (k * u - n).natAbs = u → k % 2 = 0)
  | 1 => 0 ≤ k * n ∧ k.natAbs * u ≤ n.natAbs ∧ n.natAbs < (k.natAbs + 1) * u
  | 2 => k * u ≤ n ∧ n < (k + 1) * u
  | _ => (k - 1) * u < n ∧ n ≤ k * u

/-- Elements of .f32 (4), .bf16x2 (5) and .bf16 (13), and the code of one (R57). -/
def floatElems (ty : Nat) : Nat := if ty = 5 then 2 else 1
def floatCode (ty j : Nat) (v : Word) : Nat := if ty = 4 then v.toNat else v.toNat / 2 ^ (16 * j) % 2 ^ 16

/-- r holds p/d units in each element, rounded once, with the flags of R59 and R121: OF and IX on overflow, IX when a result differs, SX where SAT took
an infinity's place, UF where a result below the normal numbers is inexact. -/
def roundedTo (ty rnd : Nat) (sat : Bool) (r : Res) (p : Nat → Int) (d : Nat → Nat) : Prop :=
  let f := fracOf ty
  let beyond (j : Nat) : Prop := j < floatElems ty ∧ overflows f rnd (p j) (d j)
  let off (j : Nat) : Prop := j < floatElems ty ∧ ∀ v, unitsOf f (floatCode ty j r.word) = some v → v * d j ≠ p j
  (∀ j, j < floatElems ty → ¬ beyond j → roundsTo f rnd (p j) (d j) (floatCode ty j r.word)) ∧
  (∀ j, beyond j → floatCode ty j r.word = beyondCode f rnd sat (p j)) ∧
  (r.flags.getLsbD 4 = true ↔ ∃ j, beyond j ∨ off j) ∧ (r.flags.getLsbD 2 = true ↔ ∃ j, beyond j) ∧
  (r.flags.getLsbD 5 = true ↔ sat = true ∧ ∃ j, beyond j ∧ toInfinity rnd (p j) = true) ∧
  (r.flags.getLsbD 3 = true → ∃ j, off j ∧ (p j).natAbs < 2 ^ f * d j) ∧
  ((∃ j, off j ∧ (p j).natAbs ≤ (2 ^ f - 1) * d j) → r.flags.getLsbD 3 = true) ∧
  r.flags &&& 0xC3 = 0

/-- Lane l of a floating-point row has the result that P says. -/
def Ctx.floatResult (c : Ctx) (i : Instr) (l : Nat) (P : Res → Prop) : Prop := ∃ o, floatOp c i = some o ∧ P (o.res l)

/-- What orders the codes that are no NaN, and with apart false takes −0 and +0 together (R119). -/
def codeRank (frac code : Nat) (apart : Bool) : Int :=
  let m : Int := (code % 2 ^ (frac + 8) : Nat)
  if 2 ^ (frac + 8) ≤ code then -m - (if apart then 1 else 0) else m

/-- The class bit of R120. -/
def classBit (frac code : Nat) : Nat :=
  let neg := 2 ^ (frac + 8) ≤ code
  let e := code / 2 ^ frac % 256
  let m := code % 2 ^ frac
  if e = 255 then (if m ≠ 0 then 8 else if neg then 0 else 7)
  else if e = 0 then (if m = 0 then (if neg then 3 else 4) else if neg then 2 else 5)
  else if neg then 1 else 6

/-- R124: a special function, then its results at −∞, −0, +0 and +∞. -/
def specialInputs (h : Hdr) (q : FormQ) (frac : Nat) : List (Instr × Nat × Nat × Nat × Nat) :=
  let minus := 2 ^ (frac + 8)
  let inf := 255 * 2 ^ frac
  let one := 127 * 2 ^ frac
  let nan := canonicalNaN frac
  [(.rcp h q, minus, minus + inf, inf, 0), (.rsq h q, nan, minus + inf, inf, 0), (.ex2 h q, 0, one, one, inf), (.lg2 h q, nan, minus + inf, minus + inf, inf),
   (.sin h q, nan, minus, 0, nan), (.cos h q, nan, one, one, nan), (.tanh h q, minus + one, minus, 0, one), (.sigm h q, 0, 126 * 2 ^ frac, 126 * 2 ^ frac, one)]

/-! ## Element types (R54, R57, R62 to R67) -/

/-- Bits of an element of a type. -/
def codeBits (ty : Nat) : Nat := if ty ∈ [0, 1, 4] then 32 else if ty ∈ [2, 3, 5, 11, 12, 13] then 16 else if ty = 7 then 6 else if ty = 8 then 4 else 8

def signedType (ty : Nat) : Bool := ty ∈ [0, 2, 9, 11]
def integerType (ty : Nat) : Bool := ty ∈ [0, 1, 9, 10, 11, 12]

/-- The bounds of an integer type (R58). -/
def leastCode (ty : Nat) : Int := if signedType ty then -(2 ^ (codeBits ty - 1) : Nat) else 0
def greatestCode (ty : Nat) : Int := (2 ^ (codeBits ty - if signedType ty then 1 else 0) : Nat) - 1

/-- Rows of the tables of R63, R64 and R65, in units of 2^−12: the first value of a run of codes, the step and how many. -/
def magnitudeRows (ty : Nat) : List (Nat × Nat × Nat) :=
  match ty with
  | 6 => [(0, 1, 2), (4, 4, 2), (16, 8, 2), (32, 16, 2), (64, 16, 4), (128, 32, 4), (256, 32, 8), (512, 64, 8), (1024, 64, 16), (2048, 128, 16),
      (4096, 256, 16), (8192, 512, 16), (16384, 2048, 8), (32768, 4096, 8), (65536, 16384, 4), (131072, 32768, 4), (262144, 131072, 2),
      (524288, 262144, 2), (1048576, 1048576, 2), (4194304, 12582912, 2)]
  | 7 => [(0, 16, 2), (64, 64, 2), (256, 128, 2), (512, 256, 2), (1024, 256, 4), (2048, 512, 4), (4096, 1024, 4), (8192, 2048, 4), (16384, 8192, 2),
      (32768, 16384, 2), (65536, 65536, 2), (262144, 786432, 2)]
  | _ => [(0, 2048, 4), (8192, 4096, 2), (16384, 8192, 2)]

/-- The magnitudes of T8, T6 and FP4 by code. -/
def magnitudes (ty : Nat) : List Nat := (magnitudeRows ty).flatMap fun r => (List.range r.2.2).map fun k => r.1 + r.2.1 * k

/-- The number n/2^e that a code of a type stands for under an XV (R58, R59, R62 to R67); none for an infinity, a NaN or NX. -/
def elementValue (ty xv code : Nat) : Option (Int × Nat) :=
  let sign : Int := if 2 ^ (codeBits ty - 1) ≤ code then -1 else 1
  match ty with
  | 4 => (unitsOf 23 code).map (·, 149)
  | 13 => (unitsOf 7 code).map (·, 133)
  | 8 => if code = 8 then (unitsOf 7 xv).map (·, 133) else some (sign * ((magnitudes 8).getD (code % 8) 0 : Nat), 12)
  | 6 | 7 => if code = 2 ^ (codeBits ty - 1) then none else some (sign * ((magnitudes ty).getD (code % 2 ^ (codeBits ty - 1)) 0 : Nat), 12)
  | 14 => if code = 255 then none else some ((2 ^ code : Nat), 127)
  | _ => some (if signedType ty && 2 ^ (codeBits ty - 1) ≤ code then (code : Int) - (2 ^ codeBits ty : Nat) else code, 0)

/-- Element j of a word. -/
def codeAt (ty j : Nat) (v : Word) : Nat := v.toNat / 2 ^ (codeBits ty * j) % 2 ^ codeBits ty

/-- A word holds a scalar of a type: its low bits, above them copies of the sign for the signed types and else zeros (R57). -/
def scalarIs (ty : Nat) (v : Word) (code : Nat) : Prop :=
  code < 2 ^ codeBits ty ∧
  v.toNat = if (ty = 9 ∨ ty = 11) ∧ 2 ^ (codeBits ty - 1) ≤ code then code + (2 ^ 32 - 2 ^ codeBits ty) else code

/-- The code of a tapered or FP4 type for p/d by RND, and the flags (R69): the magnitude nearest, a tie to the even code, the greatest with SX beyond it. -/
def narrowsTo (ty rnd : Nat) (p : Int) (d : Nat) (code : Nat) (flags : Byte) : Prop :=
  let ms := magnitudes ty
  let y := p.natAbs * 4096
  let top := ms.getD (ms.length - 1) 0 * d
  let minus := if p < 0 then ms.length else 0
  (top < y → code = minus + ms.length - 1 ∧ flags = 0x30) ∧
  (y ≤ top → ∃ m, m < ms.length ∧ code = (if m = 0 then 0 else minus + m) ∧ let u := ms.getD m 0 * d
    flags = (if u = y then 0 else if m = 0 then 0x18 else 0x10) ∧
    ∀ k, k < ms.length → let w := ms.getD k 0 * d
      match rnd with
      | 0 => ((u : Int) - y).natAbs ≤ ((w : Int) - y).natAbs ∧ (k ≠ m → ((u : Int) - y).natAbs = ((w : Int) - y).natAbs → m % 2 = 0)
      | 1 => u ≤ y ∧ (w ≤ y → w ≤ u)
      | 2 => if p < 0 then y ≤ u ∧ (y ≤ w → u ≤ w) else u ≤ y ∧ (w ≤ y → w ≤ u)
      | _ => if p < 0 then u ≤ y ∧ (w ≤ y → w ≤ u) else y ≤ u ∧ (y ≤ w → u ≤ w))

/-- The code of a type for p/d by RND and SAT, and the flags (R69, R70). -/
def convertsTo (ty rnd : Nat) (sat : Bool) (p : Int) (d code : Nat) (flags : Byte) : Prop :=
  (ty ∈ [6, 7, 8] → narrowsTo ty rnd p d code flags) ∧
  (integerType ty = true → ∃ k m : Int, roundsInt rnd p d k ∧ elementValue ty 0 code = some (m, 0) ∧ code < 2 ^ codeBits ty ∧
    m = max (leastCode ty) (min (greatestCode ty) k) ∧ flags = if m ≠ k then 0x22 else if k * d = p then 0 else 0x10) ∧
  (ty = 4 → roundedTo 4 rnd sat ⟨BitVec.ofNat 32 code, flags⟩ (fun _ => p * 2 ^ 149) (fun _ => d) ∧ code < 2 ^ 32) ∧
  (ty = 13 → sat = false → roundedTo 13 rnd false ⟨BitVec.ofNat 32 code, flags⟩ (fun _ => p * 2 ^ 133) (fun _ => d) ∧ code < 2 ^ 16) ∧
  (ty = 13 → sat = true → (overflows 7 rnd (p * 2 ^ 133) d → code = beyondCode 7 rnd true (p * 2 ^ 133) ∧ flags = 0x34) ∧
    (¬ overflows 7 rnd (p * 2 ^ 133) d → roundsTo 7 rnd (p * 2 ^ 133) d code))

/-- The type of one element of a source type: a packed type names its element kind (R126). -/
def kindOf (ty : Nat) : Nat := if ty = 2 then 11 else if ty = 3 then 12 else if ty = 5 then 13 else ty

/-- A code of a type that is a NaN or NX, an XV of FP4 among them (R60, R62, R66, R67); and the sign of one that is an infinity. -/
def notANumber (ty xv code : Nat) : Prop :=
  (ty = 4 ∧ isNaN 23 code) ∨ (ty = 13 ∧ isNaN 7 code) ∨ (ty ∈ [6, 7] ∧ code = 2 ^ (codeBits ty - 1)) ∨ (ty = 8 ∧ code = 8 ∧ isNaN 7 xv) ∨
    (ty = 14 ∧ code = 255)

def belowZero (ty xv code : Nat) : Prop := if ty = 8 then 2 ^ 15 ≤ xv else 2 ^ (codeBits ty - 1) ≤ code

/-- What a NaN or NX becomes in a type, and its flags (R60, R69, R70). -/
def nanBecomes (ty : Nat) (r : Res) : Prop :=
  (r.word, r.flags) = if ty = 4 then (0x7FC00000, 0) else if ty = 13 then (0x7FC0, 0) else if ty = 6 then (0x80, 0) else if ty = 7 then (0x20, 0)
    else if ty = 8 then (0, 2) else (0, 0x22)

/-- What an infinity becomes: itself, or the greatest magnitude or nearer bound of the type (R69, R70). -/
def infBecomes (ty : Nat) (neg : Prop) (r : Res) : Prop :=
  (ty = 4 → r.flags = 0 ∧ (neg → r.word = 0xFF800000) ∧ (¬ neg → r.word = 0x7F800000)) ∧
  (ty = 13 → r.flags = 0 ∧ (neg → r.word = 0xFF80) ∧ (¬ neg → r.word = 0x7F80)) ∧
  (ty ∈ [6, 7, 8] → r.flags = 0x30 ∧ (neg → r.word.toNat = 2 * (magnitudes ty).length - 1) ∧ (¬ neg → r.word.toNat = (magnitudes ty).length - 1)) ∧
  (integerType ty = true → r.flags = 0x22 ∧ ∃ code, scalarIs ty r.word code ∧ (neg → elementValue ty 0 code = some (leastCode ty, 0)) ∧
    (¬ neg → elementValue ty 0 code = some (greatestCode ty, 0)))

/-- A scalar of a type holds p/d, converted by RND and SAT, with the flags of the conversion. -/
def holds (ty rnd : Nat) (sat : Bool) (p : Int) (d : Nat) (r : Res) : Prop := ∃ code, scalarIs ty r.word code ∧ convertsTo ty rnd sat p d code r.flags

/-! ## A-strand arithmetic -/

/-- An A-strand row that writes xD or XD: guard, type, register and the 64-bit value of each lane (R152, R154). -/
structure AddrOp where
  h : Hdr
  ty : BitVec 3
  xd : BitVec 5
  val : Nat → Word64

/-- .i32 and .i64 are signed; .i64 and .u64 take register pairs (R92). -/
def signedA (ty : BitVec 3) : Bool := ty == 0 || ty == 2
def wideA (ty : BitVec 3) : Bool := 2 ≤ ty.toNat

/-- A register operand of a lane, extended to 64 bits by type (R152). -/
def Ctx.regA (c : Ctx) (ty : BitVec 3) (l : Nat) (r : BitVec 5) : Word64 :=
  if wideA ty then c.x l (r.toNat + 1) ++ c.x l r.toNat
  else if signedA ty then (c.x l r.toNat).signExtend 64 else (c.x l r.toNat).setWidth 64

/-- The immediate, extended by type (R152). -/
def immA (ty : BitVec 3) (v : Word) : Word64 := if signedA ty then v.signExtend 64 else v.setWidth 64

def shiftA (ty : BitVec 3) (b : Word64) : Nat := b.toNat % (if wideA ty then 64 else 32)

/-- a < b as numbers of the type. -/
def lessA (ty : BitVec 3) (a b : Word64) : Bool := if signedA ty then a.toInt < b.toInt else a.toNat < b.toNat

/-- What a two-operand row computes of A and B (R151, R152). -/
def alu : Instr → Option (Hdr × FormA × Bool × (BitVec 3 → Word64 → Word64 → Word64))
  | .aadd h a => some (h, a, false, fun _ x y => x + y)
  | .asub h a => some (h, a, false, fun _ x y => x - y)
  | .amul h a => some (h, a, false, fun _ x y => x * y)
  | .amad h a => some (h, a, false, fun ty x y => x * y + immA ty a.imm)
  | .ashl h a => some (h, a, false, fun ty x y => x <<< shiftA ty y)
  | .ashr h a => some (h, a, false, fun ty x y => if signedA ty then x.sshiftRight (shiftA ty y) else x >>> shiftA ty y)
  | .aand h a => some (h, a, false, fun _ x y => x &&& y)
  | .aor h a => some (h, a, false, fun _ x y => x ||| y)
  | .axor h a => some (h, a, false, fun _ x y => x ^^^ y)
  | .amin h a => some (h, a, false, fun ty x y => if lessA ty y x then y else x)
  | .amax h a => some (h, a, false, fun ty x y => if lessA ty x y then y else x)
  | .aaddImm h a => some (h, a, true, fun _ x y => x + y)
  | .asubImm h a => some (h, a, true, fun _ x y => x - y)
  | .amulImm h a => some (h, a, true, fun _ x y => x * y)
  | .ashlImm h a => some (h, a, true, fun ty x y => x <<< shiftA ty y)
  | .ashrImm h a => some (h, a, true, fun ty x y => if signedA ty then x.sshiftRight (shiftA ty y) else x >>> shiftA ty y)
  | .aandImm h a => some (h, a, true, fun _ x y => x &&& y)
  | .aorImm h a => some (h, a, true, fun _ x y => x ||| y)
  | .axorImm h a => some (h, a, true, fun _ x y => x ^^^ y)
  | .aminImm h a => some (h, a, true, fun ty x y => if lessA ty y x then y else x)
  | .amaxImm h a => some (h, a, true, fun ty x y => if lessA ty x y then y else x)
  | .amov h a => some (h, a, false, fun _ x _ => x)
  | .amovi h a => some (h, a, true, fun _ _ y => y)
  | _ => none

/-- The rows that write an x register or pair (R151 to R154). -/
def addrOp (c : Ctx) (i : Instr) : Option AddrOp :=
  match i with
  | .asel h a => some ⟨h, a.ty, a.xd, fun l => if (c.maskReg (a.imm.toNat % 8)).getLsbD l then c.regA a.ty l a.xa else c.regA a.ty l a.xb⟩
  | _ => (alu i).map fun (h, a, imm, f) =>
      ⟨h, a.ty, a.xd, fun l => f a.ty (c.regA a.ty l a.xa) (if imm then immA a.ty a.imm else c.regA a.ty l a.xb)⟩

/-- A lane after it: xD, or the pair XD, in an executing lane (R152). -/
def Ctx.addrAfter (c : Ctx) (o : AddrOp) (l : Nat) (k : Lane) : Lane :=
  if (c.exec o.h).getLsbD l then
    (if wideA o.ty then { k with x := (k.x.set! o.xd.toNat ((o.val l).extractLsb' 0 32)).set! (o.xd.toNat + 1) ((o.val l).extractLsb' 32 32) }
     else { k with x := k.x.set! o.xd.toNat ((o.val l).extractLsb' 0 32) })
  else k

/-- The condition of ACMP (R153). -/
def condA (ty : BitVec 3) (cond : Nat) (a b : Word64) : Bool :=
  match cond with
  | 0 => a == b
  | 1 => a != b
  | 2 => lessA ty a b
  | 3 => lessA ty a b || a == b
  | 4 => lessA ty b a
  | _ => lessA ty b a || a == b

/-- ACMP's two forms (R153): guard, destination mask register, and the bit of each executing lane. -/
def acmpOp (c : Ctx) : Instr → Option (Hdr × Nat × (Nat → Bool))
  | .acmp h a => some (h, a.xd.toNat % 8, fun l => condA a.ty (a.imm.toNat % 16) (c.regA a.ty l a.xa) (c.regA a.ty l a.xb))
  | .acmpImm h a => some (h, a.xd.toNat % 8, fun l => condA a.ty (a.xb.toNat % 16) (c.regA a.ty l a.xa) (immA a.ty a.imm))
  | _ => none

/-! ## Control flow -/

/-- BRA's condition over the executing lanes of the gang, which are its active lanes (R140). -/
def Ctx.braHolds (c : Ctx) (h : Hdr) (b : FormB) : Bool :=
  let r := b.aux.toNat % 16
  let y := c.warp.rd c.free 0 (.uni r) (c.warp.y.getD r 0)
  match b.cond.toNat with
  | 0 => true
  | 1 => c.exec h != 0
  | 2 => c.exec h == c.active
  | 3 => c.exec h == 0
  | 4 => y == 0
  | 5 => y != 0
  | _ => true

/-- A signed offset from the next instruction. -/
def fromNext (pc : Word) (off : Word) : Word := pc + 1 + off

/-- A slice after BRD.if on lanes t of its active lanes: all taken, none, or the not-taken arm first with two entries pushed (R141). -/
def ifAfter (t : Nib) (b : FormBD) (sl : Slice) : Slice :=
  let target := fromNext sl.pc (b.tgt.signExtend 32)
  let rcv := fromNext sl.pc (b.rcv.signExtend 32)
  if sl.active &&& ~~~t == 0 then { sl with pc := target }
  else if sl.active &&& t == 0 then { sl with pc := sl.pc + 1 }
  else { sl with
    pc := sl.pc + 1
    active := sl.active &&& ~~~t
    tag := 0
    tagSet := false
    stack := .pending rcv (sl.active &&& t) target :: .join rcv sl.active sl.tag sl.tagSet none :: sl.stack }

/-- A slice without a loop entry of this branch after BRD.loop (R143). -/
def loopAfter (t : Nib) (b : FormBD) (sl : Slice) : Slice :=
  let target := fromNext sl.pc (b.tgt.signExtend 32)
  if sl.active &&& t == 0 then { sl with pc := sl.pc + 1 }
  else if sl.active &&& ~~~t == 0 then { sl with pc := target }
  else { sl with active := sl.active &&& t, pc := target, stack := .loop sl.pc (sl.active &&& ~~~t) :: sl.stack }

/-- A slice whose top entry is the loop entry of this branch (mask m over rest) after BRD.loop (R143). -/
def loopAgain (t : Nib) (b : FormBD) (sl : Slice) (m : Nib) (rest : List StackEntry) : Slice :=
  if sl.active &&& t == 0 then { sl with active := (m ||| sl.active) &&& sl.live, pc := sl.pc + 1, stack := rest }
  else { sl with active := sl.active &&& t, pc := fromNext sl.pc (b.tgt.signExtend 32), stack := .loop sl.pc (m ||| (sl.active &&& ~~~t)) :: rest }

/-- The four lanes of slice i that the guard selects. -/
def Ctx.guardNib (c : Ctx) (h : Hdr) (i : Nat) : Nib := (c.guard h).extractLsb' (4 * i) 4

/-! ## Calls and exits -/

/-- A slice after CALL or CALLX to a target (R31, R145): a level with its return PC, stack depth and, in the C-strand, its four queues. -/
def Ctx.callAfter (c : Ctx) (i : Nat) (target : Word) (sl : Slice) : Slice :=
  { sl with
      pc := target
      calls := ⟨sl.pc + 1, sl.stack.length, if c.iss.strand = .c then [c.queue (4 * i), c.queue (4 * i + 1), c.queue (4 * i + 2), c.queue (4 * i + 3)]
        else [], 0, 0⟩ :: sl.calls }

/-- The warp after a call: n LQ entries popped, and in the C-strand the k youngest ages kept over zeros. -/
def Ctx.calleeLane (c : Ctx) (k n l : Nat) (q : Lane) : Lane :=
  if c.gangMask.getLsbD l then
    { q with
        lq := q.lq.drop n
        a := if c.iss.strand = .c then Vector.ofFn fun i => if i.val < k then (c.queue l).getD i.val 0 else 0 else q.a }
  else q

/-- A slice after RET with count j (R145): its active lanes have returned, and leave every stack entry of the level. -/
def retAfter (j : Nat) (sl : Slice) : Slice :=
  match sl.calls with
  | [] => { sl with live := sl.live &&& ~~~sl.active, active := 0 }
  | f :: rest =>
    { sl with
        active := 0
        calls := { f with returned := f.returned ||| sl.active, count := j } :: rest
        stack := (sl.stack.take (sl.stack.length - f.depth)).map (fun e =>
            match e with
            | .join r m t ts nt => .join r (m &&& ~~~sl.active) t ts nt
            | .pending r m pc => .pending r (m &&& ~~~sl.active) pc
            | .loop a m => .loop a (m &&& ~~~sl.active)) ++ sl.stack.drop (sl.stack.length - f.depth) }

/-! ## Memory accesses -/

/-- A memory instruction: guard, fields, LQ or SQ in place of x registers, an IQ entry in the address, and what its checks find. -/
structure MemOp where
  h : Hdr
  m : FormM
  queue : Bool
  pop : Bool
  found : Checked

/-- The checks of every executing lane together (R159). -/
def Ctx.allChecks (c : Ctx) (h : Hdr) (one : Nat → Checked) : Checked :=
  (c.execLanes h).foldl (fun k l => k.add (one l)) Checked.none

/-- A lane's address: X(XBASE), the immediate, x(XI) scaled by the size, and the IQ entry of the indexed forms (R155). -/
def MemOp.mem (s : State) (c : Ctx) (h : Hdr) (m : FormM) (need : Need) (queue pop : Bool) : MemOp :=
  ⟨h, m, queue, pop, c.allChecks h fun l => s.checkMem c need (sizeBytes m.size.toNat) l (c.eaOf m (sizeBytes m.size.toNat) pop l)⟩

def MemOp.scratch (s : State) (c : Ctx) (h : Hdr) (m : FormM) (need : Need) (queue : Bool) : MemOp :=
  ⟨h, m, queue, false, c.allChecks h fun l => s.checkScratch c need (sizeBytes m.size.toNat) l (c.eaOf m (sizeBytes m.size.toNat) false l)⟩

/-- LDC: the data segment takes the base's place (R157). -/
def MemOp.data (s : State) (c : Ctx) (h : Hdr) (m : FormM) (queue : Bool) : MemOp :=
  ⟨h, m, queue, false, c.allChecks h fun l => s.checkData c (sizeBytes m.size.toNat) l
    (c.ea m (BitVec.ofNat 64 (s.dataSegment c).1) (m.imm.signExtend 64) (sizeBytes m.size.toNat) false l)⟩

/-- The loads (R157, R161, R163). -/
def loadOp (s : State) (c : Ctx) : Instr → Option MemOp
  | .ld h m => some (.mem s c h m needLoad false false)
  | .lds h m => some (.scratch s c h m needLoad false)
  | .ldx h m => some (.mem s c h m needLoad false true)
  | .ldc h m => some (.data s c h m false)
  | .ldLq h m => some (.mem s c h m needLoad true false)
  | .ldsLq h m => some (.scratch s c h m needLoad true)
  | .ldxLq h m => some (.mem s c h m needLoad true true)
  | .ldcLq h m => some (.data s c h m true)
  | _ => none

/-- The stores (R161, R163). -/
def storeOp (s : State) (c : Ctx) : Instr → Option MemOp
  | .st h m => some (.mem s c h m needStore false false)
  | .sts h m => some (.scratch s c h m needStore false)
  | .stx h m => some (.mem s c h m needStore false true)
  | .stSq h m => some (.mem s c h m needStore true false)
  | .stsSq h m => some (.scratch s c h m needStore true)
  | .stxSq h m => some (.mem s c h m needStore true true)
  | _ => none

/-- One atomic (R169): in memory, or with .sp in scratch, at the base, the short immediate and the scaled index. -/
def MemOp.atom (s : State) (c : Ctx) (h : Hdr) (m : FormM) : MemOp :=
  let n := sizeBytes m.size.toNat
  let ea (l : Nat) : Word64 := c.ea m (c.xx l m.xbase.toNat) (m.imm15.signExtend 64) n false l
  ⟨h, m, false, false, c.allChecks h fun l => if m.nt then s.checkScratch c needAtomic n l (ea l) else s.checkMem c needAtomic n l (ea l)⟩

/-- The atomics (R168 to R173). -/
def atomicOp (s : State) (c : Ctx) : Instr → Option (MemOp × AccessKind)
  | .atom h m => some (.atom s c h m, .atom)
  | .red h m => some (.atom s c h m, .red)
  | .mred h m => some (.atom s c h m, .mred)
  | _ => none

/-- Every check passed, every translation is there, nothing holds the access up. -/
def MemOp.clear (o : MemOp) : Prop := o.found.miss = [] ∧ o.found.bad = [] ∧ o.found.wait = false

/-- t differs from s in what a use of some leaves changes (R304, R306): bytes of the leaves, caches and directories, event counters, and what
accounts are charged. -/
def usedLeaves (s t : State) (pages : List (Nat × Page)) : Prop :=
  { t with memory := s.memory, groups := s.groups, dies := s.dies, cores := s.cores, module := s.module, nextId := s.nextId } = s ∧
  { t.module with accounts := s.module.accounts } = s.module ∧
  (∀ d, (t.die d).shell = (s.die d).shell) ∧ (∀ d n, (t.core d n).shell = (s.core d n).shell) ∧
  (s.memory.wf = true → ∀ a, (∀ p ∈ pages, covers p.2.leafAt 8 a = false) → t.memory.byte a = s.memory.byte a)

/-- t differs from s in what a write of the part's own to memory touches (R304, R305): memory and its copies, pages in reserve, packets, event
counters and charges. -/
def partWrote (s t : State) : Prop :=
  { t with memory := s.memory, dies := s.dies, module := s.module, nextId := s.nextId } = s ∧
  { t.module with accounts := s.module.accounts } = s.module ∧
  ∀ d, { (t.die d).shell with sent := 0, reserve := [] } = { (s.die d).shell with sent := 0, reserve := [] }

/-! ## Page tables (R299 to R301, R305) -/

/-- The bits of an address that index a level. -/
def walkIndex (k va : Nat) : Nat :=
  match k with
  | 0 => va / 2 ^ 48 % 512
  | 1 => va / 2 ^ 39 % 512
  | 2 => va / 2 ^ 30 % 512
  | 3 => va / 2 ^ 21 % 512
  | _ => va / 2 ^ 16 % 32

/-- The table that a walk reads at a level: the root, then bits 47:8 of the entries on its way; and the entry it reads there. -/
def State.tableAt (s : State) (root va : Nat) : Nat → Nat
  | 0 => root
  | k + 1 => s.memory.nat (s.tableAt root va k + 8 * walkIndex k va) 8 / 256 % 2 ^ 40 * 256

def State.levelEntry (s : State) (root va k : Nat) : Nat := s.memory.nat (s.tableAt root va k + 8 * walkIndex k va) 8

/-- A level's entry is a table entry with its reserved bits 0 that names existing memory. -/
def State.pointer (s : State) (root va k : Nat) : Prop :=
  let e := s.levelEntry root va k
  e % 4 = 1 ∧ e / 4 % 64 = 0 ∧ e / 2 ^ 48 = 0 ∧ (k = 3 ∨ e / 256 % 16 = 0) ∧ s.tableAt root va (k + 1) < 2 ^ 45 ∧
  s.tableAt root va (k + 1) % 2 ^ 36 < Config.stackBytes / 2097152 * 2097152

def leafBytes (l : Nat) : Nat := if l = 2 then 2 ^ 30 else if l = 3 then 2 ^ 21 else 2 ^ 16

/-- A level's entry is a legal leaf of no publish pair; what it says of its page is asked only where it has one. -/
def State.plainLeaf (s : State) (root va l : Nat) : Prop :=
  let e := s.levelEntry root va l
  let pa := e / 2 ^ 16 % 2 ^ 32 * 2 ^ 16
  e % 4 = 3 ∧ e / 2 ^ 9 % 4 ≠ 3 ∧ e / 2 ^ 7 % 4 ≠ 3 ∧ e / 2 ^ 5 % 4 ≠ 3 ∧ e.testBit 15 = false ∧
  (e / 2 ^ 52 = 0 ∨ (e / 2 ^ 5 % 4 = 2 ∧ (e / 2 ^ 52 ≤ 2207 ∨ e / 2 ^ 52 = 0xFFF))) ∧
  ((e.testBit 13 = true ∧ e.testBit 14 = false) ∨
    (pa % leafBytes l = 0 ∧ pa < 2 ^ 45 ∧ pa % 2 ^ 36 + leafBytes l ≤ Config.stackMappable))

/-- The page of the fields of a leaf e of a level, which stands at at_. -/
def leafPage (l at_ e : Nat) : Page :=
  { pa := e / 2 ^ 16 % 2 ^ 32 * 2 ^ 16, size := leafBytes l, cc := e / 2 ^ 5 % 4, cl := e / 2 ^ 7 % 4, wp := e / 2 ^ 9 % 4, evp := e / 2 ^ 50 % 4,
    pp := none, xtag := e / 2 ^ 52 % 4096, r := e.testBit 2, w := e.testBit 3, fx := e.testBit 4, qz := e.testBit 48,
    leafAt := at_ }

/-- Stack a comes before stack b for a die: its own, then by site hops and number (R305). -/
def asksFirst (d a b : Nat) : Prop :=
  let far (st : Nat) : Nat := siteHops (siteOf d) (stackSite st)
  b ≠ d ∧ (a = d ∨ far a < far b ∨ (far a = far b ∧ a < b))

/-- The free page that a die takes, and memory once it has: its reserve, or the next entry of the first ring that is not empty. -/
def State.takesPage (s : State) (d code pg : Nat) (m : Memory) : Prop :=
  (tableGet code (s.die d).reserve = some pg ∧ m = s.memory) ∨
  (tableGet code (s.die d).reserve = none ∧ ∃ r ∈ s.rings, r.1.2 = code ∧
    let cap := s.memory.nat r.2 4
    let head := s.memory.nat (r.2 + 4) 4
    cap ≠ 0 ∧ head ≠ s.memory.nat (r.2 + 8) 4 ∧ pg = s.memory.nat (r.2 + 0x40 + 8 * (head % cap)) 8 ∧
    (∀ q ∈ s.rings, q.1.2 = code → q.1.1 < 512 ∧ (q = r ∨ asksFirst d r.1.1 q.1.1 ∨ s.memory.nat (q.2 + 4) 4 = s.memory.nat (q.2 + 8) 4)) ∧
    m.nat (r.2 + 4) 4 = (head + 1) % 2 ^ 32 ∧ ∀ a, (a < r.2 + 4 ∨ r.2 + 8 ≤ a) → m.byte a = s.memory.byte a)

/-- A state after an access has issued: leaves used, a name used up, the first load noted (R328). -/
def accessed (s t : State) (pages : List (Nat × Page)) : Prop :=
  usedLeaves s t pages ∧ t.nextId = s.nextId + 1 ∧
  t.groups.map (fun g => { g with firstLoad := none }) = s.groups.map (fun g => { g with firstLoad := none })

/-- The accesses of a warp with one more, unless it has no unit. -/
def withAccess (l : List Access) (a : Access) : List Access := if a.units = [] then l else l ++ [a]

/-- A lane after a load or store has issued: the IQ entry popped, SQ entries popped, LQ entries reserved (R17, R18). -/
def Ctx.queuesAfter (c : Ctx) (h : Hdr) (iq sq : Nat) (lq : Option (Nat × Nat)) (l : Nat) (k : Lane) : Lane :=
  if c.gangMask.getLsbD l then
    { k with
        iq := k.iq.drop iq
        sq := k.sq.drop sq
        lq := match lq with
          | some (id, n) => k.lq ++ List.replicate n (if (c.exec h).getLsbD l then ⟨id, none⟩ else ⟨0, some 0⟩)
          | none => k.lq }
  else k

/-- The SC lines that CWB and CINV clean: of the executing lanes' accesses, at a scope beyond the die (R178). -/
def State.scAimed (s : State) (c : Ctx) (scope : Nat) (us : List AUnit) : List Nat :=
  if scope ≤ 3 then []
  else (us.filterMap fun u =>
    match u.place with
    | .mem pa page => if page.cc == 1 then some (lineOf (s.visible c.grp.die page pa)) else none
    | _ => none).eraseDups

/-- Words that a load still owes, written into x registers (R81). -/
def loadedX (busy : List Busy) (id lane xd : Nat) (ws : List Word) (x : Vector Word 32) : Vector Word 32 :=
  Vector.ofFn fun r => if xd ≤ r.val && r.val < xd + ws.length && busy.contains ⟨id, lane, .xreg r.val⟩ then ws.getD (r.val - xd) 0
    else x.getD r.val 0

/-- The access of a flight with unit n read: its bytes, and whether a sector of them was poisoned. -/
def Flight.readAs (f : Flight) (n : Nat) (u : AUnit) (bs : List Byte) (bad : Bool) : Access :=
  f.acc.setUnit n { u with data := bs, level := .panel, poisoned := bad }

/-- Every unit of the access of a lane has been read. -/
def Access.laneRead (a : Access) (lane : Nat) : Bool := (a.units.filter (·.lane == lane)).all (·.level == .panel)

/-- A copy of the core's copies that a copy instruction issues (R179): what of it the descriptor gives. -/
def Copy.startsAs (k : Copy) (s : State) (c : Ctx) (lane desc : Nat) (d : List Byte) (p : Plan) : Prop :=
  k.id = s.nextId ∧ k.g = c.grp.key ∧ k.warp = c.iss.w.warp ∧ k.dom = c.grp.dom ∧ k.die = c.grp.die ∧ k.core = c.grp.core ∧ k.desc = desc ∧
  k.kind = p.kind ∧ k.srcS = p.srcS ∧ k.dstS = p.dstS ∧ k.total = p.total ∧ k.cursor = 0 ∧ k.run = .running ∧ k.lane = lane ∧
  k.scope = leAt d 0x14 4 / 128 % 8 ∧ k.succ = ctlBit d 2 ∧ k.rel = ctlBit d 10 ∧
  k.stage = if ctlBit d 6 then some (leAt d 0x14 4 / 8 % 8) else none

/-- What a stream byte takes: 0, or a byte of a group's scratch that no open window hides (R182, R183, R185). -/
def State.scratchSource (s : State) (b : CopyByte) (v : Byte) : Prop :=
  match b.src with
  | none => v = 0
  | some (.scratch g off) => ∃ grp, s.group? g = some grp ∧ grp.rowsOut = false ∧
      (∀ w ∈ (s.core grp.die grp.core).windows, w.open_ = true → w.owner ≠ g) ∧ v = cellRead grp.scratch off
  | some (.mem _) => False

/-- A COPY whose source and destination have no byte in common, or another copy; nothing kept of what it overwrote. -/
def Copy.apart (k : Copy) : Prop :=
  k.old = [] ∧ ∀ src dst len, k.kind = .plain src dst len → k.total = len ∧ (k.srcS ≠ k.dstS ∨ src + len ≤ dst ∨ dst + len ≤ src)

/-- The element that EDGE takes for coordinate k of n (R185): that one, or with 1 the nearest, with 2 the one mirrored at the edge. -/
def takesElem (edge : Nat) (k : Int) (n x : Nat) : Prop :=
  (0 ≤ k ∧ k < n ∧ (x : Int) = k) ∨ (edge = 1 ∧ ((k < 0 ∧ x = 0) ∨ ((n : Int) ≤ k ∧ x + 1 = n))) ∨
  (edge = 2 ∧ ((-(n : Int) ≤ k ∧ k < 0 ∧ (x : Int) = -1 - k) ∨ ((n : Int) ≤ k ∧ k < 2 * n ∧ (x : Int) = 2 * n - 1 - k)))

/-! ## Matrix instructions -/

/-- What a matrix instruction asks of the array (R197, R198): guard, opcode, B latch it names, C-strand sources, what its own rules find wrong, and the
operation it queues, none when nothing acts. -/
structure MatReq where
  h : Hdr
  op : Nat
  b : Option Bool
  codes : List (BitVec 7)
  bad : List Bad
  kind : Option MatKind

/-- The octets with an executing lane and an operation over them. -/
def forActing (os : List (Nat × Byte)) (k : MatKind) : Option MatKind := if os.isEmpty then none else some k

/-- The ten rows that queue an operation (R200 to R211). -/
def matReq (c : Ctx) : Instr → Option MatReq
  | .mga h x =>
    let rd := c.reads 0 [x.sa, x.sb, x.sc]
    let off (om : Nat × Byte) (r : Nat) : Nat := rowOff (src (rd (leadLane om)) 0) (src (rd (8 * om.1 + r)) 1).toNat (src (rd (leadLane om)) 2).toNat
    some ⟨h, 0x180, none, [x.sa, x.sb, x.sc],
      ((c.acting h).flatMap fun om => (rowsOf om.2).flatMap fun r => c.rowBad (8 * om.1 + r) (src (rd (leadLane om)) 0) (off om r) (latchBytes x.ta.toNat)) ++
        c.ruleBad (latchType x.ta.toNat),
      forActing (c.acting h) (.loadA x.ta.toNat ((c.acting h).map fun om => (om.1, octetRows om.2 (off om))))⟩
  | .mla h x =>
    let rd := c.reads 0 [x.sa, x.sb]
    let off (om : Nat × Byte) (r : Nat) : Nat := rowOff (src (rd (leadLane om)) 0) r (src (rd (leadLane om)) 1).toNat
    some ⟨h, 0x181, none, [x.sa, x.sb],
      ((c.acting h).flatMap fun om => (rowsOf om.2).flatMap fun r => c.rowBad (8 * om.1 + r) (src (rd (leadLane om)) 0) (off om r) (latchBytes x.ta.toNat)) ++
        c.ruleBad (latchType x.ta.toNat),
      forActing (c.acting h) (.loadA x.ta.toNat ((c.acting h).map fun om => (om.1, octetRows om.2 (off om))))⟩
  | .mlb h x =>
    let rd := c.reads 0 [x.sa, x.sb]
    let rows (l : Nat) : List Nat := (List.range (shapeN x.shape.toNat)).map fun r => rowOff (src (rd l) 0) r (src (rd l) 1).toNat
    some ⟨h, 0x182, some (x.imm8.getLsbD 0), [x.sa, x.sb],
      (match c.firstLane? h with
        | some l => (rows l).flatMap fun off => c.rowBad l (src (rd l) 0) off (latchBytes x.tb.toNat)
        | none => []) ++ c.ruleBad (latchType x.tb.toNat && x.imm8.toNat < 2) ++ c.shapeBad x,
      (c.firstLane? h).map fun l => .loadB (x.imm8.getLsbD 0) x.tb.toNat (rows l)⟩
  | .mma h x => some ⟨h, 0x183, some (x.imm8.getLsbD 0), [], c.multiplyBad x (c.acting h),
      forActing (c.acting h) (.mma x.acc.toNat (shapeN x.shape.toNat) x.ta.toNat x.tb.toNat (x.imm8.getLsbD 0) (x.ctl.getLsbD 0) (x.ctl.getLsbD 1)
        (x.ctl.getLsbD 2) (c.acting h))⟩
  | .mmax h x => some ⟨h, 0x184, some (x.imm8.getLsbD 0), [], c.multiplyBad x (c.acting h),
      forActing (c.acting h) (.mmax x.acc.toNat (shapeN x.shape.toNat) (x.imm8.getLsbD 0) (x.ctl.getLsbD 0) (x.ctl.getLsbD 1) (x.ta == 0) (c.acting h))⟩
  | .mz h x => some ⟨h, 0x185, none, [], c.tileBad x,
      forActing (c.acting h) (.mz x.acc.toNat (x.ctl.getLsbD 0) (x.ctl.getLsbD 1) (c.acting h))⟩
  | .mdr h x =>
    let rd := c.reads 0 [x.sa, x.sb]
    let off (om : Nat × Byte) (r : Nat) : Nat := rowOff (src (rd (leadLane om)) 0) r (src (rd (leadLane om)) 1).toNat
    some ⟨h, 0x186, none, [x.sa, x.sb],
      ((c.acting h).flatMap fun om => (rowsOf om.2).flatMap fun r => c.rowBad (8 * om.1 + r) (src (rd (leadLane om)) 0) (off om r)
        (shapeN x.shape.toNat * elemWidth x.ta.toNat / 8)) ++ c.tileBad x ++ c.shapeBad x ++ c.ruleBad (drainOk x),
      forActing (c.acting h) (.mdr x.acc.toNat (shapeN x.shape.toNat) x.ta.toNat x.ctl.toNat ((c.acting h).map fun om => (om.1, octetRows om.2 (off om))))⟩
  | .mdra h x => some ⟨h, 0x187, none, [], c.tileBad x ++ c.shapeBad x,
      forActing (c.acting h) (.mdra x.acc.toNat (shapeN x.shape.toNat) x.ta.toNat x.ctl.toNat (c.acting h))⟩
  | .msca h x =>
    let rd := c.reads 0 [x.sa, x.sb]
    let scales (o k : Nat) : List Nat := (List.range 8).map fun r => (src (rd (8 * o + r)) k).toNat
    some ⟨h, 0x188, none, [x.sa, x.sb], c.tileBad x ++ c.shapeBad x,
      forActing (c.acting h) (.msca x.acc.toNat (shapeN x.shape.toNat) ((c.acting h).map fun om => (om.1, om.2, scales om.1 0, scales om.1 1)))⟩
  | .mcfg h x =>
    let rd := c.reads 0 [x.sa, x.sb]
    some ⟨h, 0x18B, none, [x.sa, x.sb], [], (c.firstLane? h).map fun l =>
      .mcfg (if x.ctl.getLsbD 0 then some ((src (rd l) 0).extractLsb' 0 16) else none) (if x.ctl.getLsbD 1 then some ((src (rd l) 1).extractLsb' 0 16) else none)⟩
  | _ => none

/-! ## What the array computes (R72 to R78, R204 to R208) -/

def intTotal (ns : List Int) : Int := ns.foldl (· + ·) 0

/-- An FP32 word is p/d units of 2^−149, rounded to nearest even (R59). -/
def f32Is (p : Int) (d : Nat) (w : Word) : Prop :=
  (¬ overflows 23 0 p d → roundsTo 23 0 p d w.toNat) ∧ (overflows 23 0 p d → w.toNat = beyondCode 23 0 false p)

/-- w is the FP32 sum of a and b: rounded once, an infinity kept, the canonical NaN of opposite infinities and of a NaN. -/
def f32Sum (a b w : Word) : Prop :=
  let kept (x : Word) : Word := if x.toNat % 2 ^ 23 = 0 then x else 0x7FC00000
  match unitsOf 23 a.toNat, unitsOf 23 b.toNat with
  | some x, some y => f32Is (x + y) 1 w
  | none, some _ => w = kept a
  | some _, none => w = kept b
  | none, none => w = if a = b then kept a else 0x7FC00000

/-- Twice the sum of a K-block's products: exact (R72), or with a BF16 operand each cut toward zero 63 places below the greatest, half a place of the
sum's sign standing for what was cut (R73). -/
def blockNum (bf : Bool) (ns : List Int) : Int :=
  let cut : Int := 2 ^ ((ns.map fun n => Nat.log2 n.natAbs).foldl max 0 - 63)
  let s := intTotal (ns.map fun n => n.tdiv cut * cut)
  if bf then 2 * s + (if ns.any fun n => n.tdiv cut * cut != n then s.sign * cut else 0) else 2 * intTotal ns

/-- A K-block's partial sum of finite products, in units of 2^−149/d (R72, R73). -/
def partialIs (bf : Bool) (ns : List Int) (d : Nat) (w : Word) : Prop :=
  f32Is (blockNum bf ns) (2 * d) w ∧ (blockNum bf ns = 0 → w = 0)

/-- The sign of an element that is an infinity. -/
def infinityOf (ty xv code : Nat) : Option Bool :=
  let x := if ty = 8 ∧ code = 8 then xv else code
  if ty = 4 ∧ x % 2 ^ 31 = 255 * 2 ^ 23 then some (decide (2 ^ 31 ≤ x))
  else if (ty = 13 ∨ (ty = 8 ∧ code = 8)) ∧ x % 2 ^ 15 = 255 * 2 ^ 7 then some (decide (2 ^ 15 ≤ x))
  else none

/-- R74: of two rows of 32 codes, a NaN, NX, or infinity times zero, or infinite products of both signs, give the canonical NaN; of one sign, that
infinity. -/
def blockSpecial (ta tb xa xb : Nat) (as bs : List Nat) (w : Word) : Prop :=
  let va (k : Nat) := elementValue ta xa (as.getD k 0)
  let vb (k : Nat) := elementValue tb xb (bs.getD k 0)
  let ia (k : Nat) := infinityOf ta xa (as.getD k 0)
  let ib (k : Nat) := infinityOf tb xb (bs.getD k 0)
  let zero (v : Option (Int × Nat)) : Prop := ∃ e, v = some (0, e)
  let minus (i : Option Bool) (v : Option (Int × Nat)) : Bool := i.getD ((v.map fun p => decide (p.1 < 0)).getD false)
  let nan : Prop := ∃ k, k < 32 ∧ ((va k = none ∧ ia k = none) ∨ (vb k = none ∧ ib k = none) ∨ (ia k ≠ none ∧ zero (vb k)) ∨ (ib k ≠ none ∧ zero (va k)))
  let inf (neg : Bool) : Prop := ∃ k, k < 32 ∧ (ia k ≠ none ∨ ib k ≠ none) ∧ neg = (minus (ia k) (va k) != minus (ib k) (vb k))
  (nan ∨ (inf true ∧ inf false) → w = 0x7FC00000) ∧
  (¬ nan → ∀ neg, inf neg → ¬ inf (!neg) → w = if neg then 0xFF800000 else 0x7F800000)

/-- The partial sum of two rows of 32 codes of the types of R204 (R72 to R74). -/
def blockIs (ta tb xa xb : Nat) (as bs : List Nat) (w : Word) : Prop :=
  blockSpecial ta tb xa xb as bs w ∧
  ∀ x y : Nat → Int × Nat, (∀ k, k < 32 → elementValue ta xa (as.getD k 0) = some (x k) ∧ elementValue tb xb (bs.getD k 0) = some (y k)) →
    partialIs (ta == 13 || tb == 13) ((List.range 32).map fun k => (x k).1 * 2 ^ (133 - (x k).2) * ((y k).1 * 2 ^ (133 - (y k).2))) (2 ^ 117) w

/-- The word of MMA (R204). -/
def mmaIs (ta tb xa xb : Nat) (part zero int : Bool) (acc : Word) (as bs : List Nat) (w : Word) : Prop :=
  let n (ty code : Nat) : Int := ((elementValue ty 0 code).map (·.1)).getD 0
  if int then w = (if zero then 0 else acc) + BitVec.ofInt 32 (intTotal ((List.range 32).map fun k => n ta (as.getD k 0) * n tb (bs.getD k 0)))
  else ∃ p, blockIs ta tb xa xb as bs p ∧ if part || zero then w = p else f32Sum acc p w

/-- A number of units of 2^−149 cut to BF16 toward zero; the slices hi, mid and lo of one (R76). -/
def cutBf16 (n : Int) : Int :=
  let cut : Int := 2 ^ max 16 (Nat.log2 n.natAbs - 7)
  n.tdiv cut * cut

def bfSlice (i : Nat) (n : Int) : Int :=
  let hi := cutBf16 n
  let mid := cutBf16 (n - hi)
  if i = 0 then hi else if i = 1 then mid else cutBf16 (n - hi - mid)

/-- Partial sums accumulated one by one (R77). -/
def chainIs (start w : Word) : List (List Int) → Prop
  | [] => w = start
  | ns :: rest => ∃ p acc, partialIs true ns (2 ^ 149) p ∧ f32Sum start p acc ∧ chainIs acc w rest

/-- The word of MMAX (R205): of integers the sum of the products; of FP32 the slice products of R77, the smallest first, and where an element is
an infinity or a NaN the one sum of R76. -/
def mmaxIs (x3 int : Bool) (start : Word) (as bs : List Nat) (w : Word) : Prop :=
  if int then w = start + BitVec.ofNat 32 ((List.range 32).foldl (fun n k => n + as.getD k 0 * bs.getD k 0) 0)
  else
    (∀ x y : Nat → Int, (∀ k, k < 32 → unitsOf 23 (as.getD k 0) = some (x k) ∧ unitsOf 23 (bs.getD k 0) = some (y k)) →
      chainIs start w (((if x3 then [] else [(2, 0), (0, 2), (1, 1)]) ++ [(1, 0), (0, 1), (0, 0)]).map fun (ij : Nat × Nat) =>
        (List.range 32).map fun k => bfSlice ij.1 (x k) * bfSlice ij.2 (y k))) ∧
    ((∃ k, k < 32 ∧ (unitsOf 23 (as.getD k 0) = none ∨ unitsOf 23 (bs.getD k 0) = none)) → ∃ p, blockSpecial 4 4 0 0 as bs p ∧ f32Sum start p w)

/-- The word of MSCA (R75, R208). -/
def mscaIs (acc p : Word) (sa sb : Nat) (w : Word) : Prop :=
  (sa = 255 ∨ sb = 255 → w = 0x7FC00000) ∧
  (sa < 255 → sb < 255 → ∀ x y, unitsOf 23 acc.toNat = some x → unitsOf 23 p.toNat = some y → f32Is (x * 2 ^ 254 + y * 2 ^ (sa + sb)) (2 ^ 254) w) ∧
  (isNaN 23 acc.toNat ∨ isNaN 23 p.toNat → w = 0x7FC00000)

/-- The code that MDR and MDRA make of a tile word (R210): its bits for .i32 and .f32, else converted by CTL's rounding and SAT. -/
def drainedIs (ty ctl : Nat) (w : Word) (code : Nat) : Prop :=
  (ty = 0 ∨ ty = 4 → code = w.toNat) ∧
  (ty ∈ [6, 7, 8, 9, 10, 13] → ∀ n, unitsOf 23 w.toNat = some n → ∃ flags, convertsTo ty (ctl % 4) (ctl / 4 % 2 == 1) n (2 ^ 149) code flags) ∧
  (isNaN 23 w.toNat → (ty = 6 → code = 0x80) ∧ (ty = 7 → code = 0x20) ∧ (ty ∈ [8, 9, 10] → code = 0) ∧ (ty = 13 → code = 0x7FC0))

/-- No row of the pool that an operation of a warp with a B latch may read has an error (R217). -/
def Warp.soundRows (w : Warp) (g : Group) (b : Bool) : Prop :=
  (∀ o, (w.octet o).bad = [] ∧ (w.octet o).latch.bad = []) ∧ (g.bLatch b).bad = [] ∧ w.cfgBad = none

/-- What a load leaves in a latch row (R196, R215; log 22): in each byte what a row held at issue, or after a write of it since; zeros without an
address. -/
def State.loadedRow (s : State) (m : MatOp) (g : GroupKey) (n : Nat) (at_ : Option Nat) (row : List Byte) : Prop :=
  row.length = n ∧ ∀ i, i < n → match at_ with
    | none => row.getD i 0 = 0
    | some off => row.getD i 0 = (s.scratchSee g off n).getD i 0 ∨ ∃ r ∈ m.rows, r.1 = off ∧ ∃ old ∈ r.2, row.getD i 0 = old.getD i 0

/-! ## Worklists and channels -/

/-- What EPOP leaves in a lane (R240): on the queue 0 for a lane that got a task and the status for another executing one, and a task's payload,
priority and auxiliary word in four frame slots. -/
def Ctx.poppedLane (c : Ctx) (h : Hdr) (fs : Nat) (got : List (Nat × ETask)) (status : Word) (l : Nat) (k : Lane) : Lane :=
  let task := (got.find? (·.1 == l)).map (·.2)
  let word : Word := if (c.exec h).getLsbD l && task.isNone then status else 0
  { k with
      a := if c.active.getLsbD l then Vector.ofFn (fun i => if i.val = 0 then word else k.a.getD (i.val - 1) 0) else k.a
      f := match task with
        | some t => (((k.f.set! fs (t.payload.extractLsb' 0 32)).set! (fs + 1) (t.payload.extractLsb' 32 32)).set! (fs + 2) t.prio).set! (fs + 3) t.aux
        | none => k.f }

/-- EPOP answers r from s1 with some lanes' tasks, the others a status. -/
def Ctx.popsTo (c : Ctx) (r : Host.Outcome State Fault Refusal) (s1 : State) (h : Hdr) (fs : Nat) (got : List (Nat × ETask)) (status : Word) : Prop :=
  ∃ (w : Warp), r = .next (c.finish h nextPc s1.bumpId w) ∧
    (∀ l : Nat, w.lanes[l]? = (c.warp.lanes[l]?).map (c.poppedLane h fs got status l)) ∧
    w.longs = c.warp.longs ++ [⟨s1.nextId, c.iss.strand, c.slices.headD 0, [], none, c.pc⟩] ∧
    { w with lanes := c.warp.lanes, longs := c.warp.longs, busy := c.warp.busy } = c.warp

/-- A task less whether it is in spill. -/
def ETask.plain (t : ETask) : Word64 × Word × Word := (t.payload, t.prio, t.aux)

/-- The reduction of a channel's arrivals of one operation (R251): AND, unsigned minimum or sum. -/
def reducedAs (op : Nat) (vs : List Word) : Word :=
  match op, vs with
  | _, [] => 0
  | 0, v :: rest => rest.foldl (· &&& ·) v
  | 1, v :: rest => rest.foldl (fun a b => if b.toNat < a.toNat then b else a) v
  | _, v :: rest => rest.foldl (· + ·) v

/-! ## Barriers -/

/-- What other agents wrote and an agent sees is as wide as its release (R267, R270): a write that its group has made and some agents do not see yet
is performed at the scope; another's, seen in part of the die, has reached the whole die, and for .pnl and .sys the panel; beyond the die every
live die has applied what its own die has. -/
def State.carriesAlong (s : State) (a : Agent) (scope : Nat) : Prop :=
  (∀ e ∈ s.partials a.die, e.free = false → e.by_.reaches e.unit.level a = true →
    if e.by_ = a then e.unit.performedAt scope = true else scope = 0 ∨ (if scope ≤ 3 then 4 else 5) ≤ e.unit.level.rank) ∧
  (scope ≤ 3 ∨ ∀ p ∈ s.memory.sent ++ s.memory.log, p.only = none → p.src ≠ a.die → p.seenBy a.die = true → ∀ d ∈ s.liveDies, p.seenBy d = true)

/-- The conditions of FENCE.ar at a scope (R175): every load and ATOM of the warp has its value, every earlier store, ATOM and RED is performed there. -/
def Warp.fencedAt (w : Warp) (scope : Nat) : Prop :=
  (∀ a ∈ w.accs, a.kind ≠ .load) ∧ (∀ l ∈ w.longs, l.access = none) ∧
  ∀ a ∈ w.accs, (a.kind = .atom ∨ a.kind = .red ∨ (a.kind = .store ∧ (a.nt = false ∨ a.drained = true))) → ∀ u ∈ a.units, u.performedAt scope = true

/-! ## Records -/

/-- Record k of window win was parsed from s, and its completion record has a status in t (R315, R320, R323). -/
def State.finishedRecord (s t : State) (win status : Nat) : Prop :=
  (t.window win).next = (s.window win).next + 1 ∧ t.recStatus win (s.window win).next = some status

/-- A command done, or turned away with the field at fault. -/
def State.didCommand (s t : State) : Prop := s.finishedRecord t 0 0
def State.turnedAway (s t : State) : Prop :=
  s.finishedRecord t 0 0x0020 ∧ { t with windows := s.windows, parseCount := s.parseCount, out := s.out, module := s.module, nextId := s.nextId } = s

/-! ## Management and SPDM answers -/

/-- A management response (R395): its opcode with bit 15 set, its tag, a status, the payload's length and the payload. -/
def answerBytes (op : Nat) (tag : Word) (status : Nat) (payload : List Byte) : List Byte :=
  leBytes 2 (op + 0x8000) ++ [0, 0] ++ leBytes 4 tag.toNat ++ leBytes 4 status ++ leBytes 4 payload.length ++ payload

/-- s with a response sent, in the next secured message of an open session. -/
def State.mgmtSent (s : State) (r : List Byte) : State :=
  { s with out := s.out ++ [.mgmt r (s.module.session.record r)], module := { s.module with session := s.module.session.sent } }

/-- s1 with a response with no payload sent. -/
def answered (s1 : State) (op : Nat) (tag : Word) (status : Nat) : Host.Outcome State Fault Refusal := .next (s1.mgmtSent (answerBytes op tag status []))

end Sys2Proof.Machine
end

