-- ==== Sys2Proof/Certificates/Slice0/Obligations.lean ====
section
/-! DEFINITION. Sys2Proof/Certificates/Slice0/Obligations.lean: the statements for the provers. Each docstring names the rules of spec/ it
formalises; c is the gang that issues, h the guard field of its word. -/

open Sys2Proof Sys2Proof.Machine

/-- (R33, R34, R82, R139, R142, R143, R145, R247, R338) Ending an issue changes groups and cores alone; of a group only its warps; of the
issuing warp, beside slices, C-strand queues, marks and causes raised, only what waits for the issue and the record of what its locations held;
of every other warp nothing but those; of a core only event counters and the front end of the strand, which the issue occupies.
A slice of the issuing gang for which nothing ends goes on exactly where the instruction sends it. Where the not-taken arm ends (no active lane,
or the PC at the reconvergence point), the pending arm runs; where the last arm ends, the slice stands at the reconvergence point with the
join's mask and the tag that a REJOIN of the arms set, else the enclosing arm's; where both arms hold lanes and their tags differ, 0x22 is raised
there with both tags in AUX, lower tag low, and the strand stops; where every lane of a loop has gone, those that waited go on behind its BRD.
(The model's own readings in it: log 13, 30, 63.) -/
def Obligations.IssueEnds : Prop :=
  (∀ (c : Ctx) (h : Hdr) (upd : Nat → Slice → Slice) (s : State) (w : Warp), w.key = c.iss.w →
    let t := c.finish h upd s w
    { t with groups := s.groups, cores := s.cores } = s ∧
    t.groups.map Group.shell = s.groups.map Group.shell ∧
    (∀ k, k ≠ c.iss.w → (t.warp? k).map Warp.rest = (s.warp? k).map Warp.rest) ∧
    (t.warp? c.iss.w).map Warp.rest = (s.warp? c.iss.w).map (fun _ => ({ w.modStrand c.iss.strand fun u =>
      { u with parked := h.sw, walking := [], walk := [], midway := false, first := false, pops := u.pops.filter (·.1 != c.iss.gang) } with
      past := c.snap :: w.past } : Warp).rest) ∧
    (∀ d n, (t.core d n).shell =
      if c.grp.die = d ∧ c.grp.core = n then
        (match c.iss.strand with
         | .c => { (s.core d n).shell with feUntil := s.now + w.width / 16, feDom := c.grp.dom, lastC := some c.iss.w }
         | .a => { (s.core d n).shell with aUntil := s.now + w.width / 16, lastA := some c.iss.w })
      else (s.core d n).shell)) ∧
  (∀ (c : Ctx) (h : Hdr) (upd : Nat → Slice → Slice) (s : State) (w : Warp) (i : Nat), w.key = c.iss.w → (s.warp? c.iss.w).isSome →
    i ∈ c.slices → c.slices.Nodup → i < (w.strand c.iss.strand).slices.length →
    let sl := upd i ((w.strand c.iss.strand).slice i)
    let t := c.finish h upd s w
    sl.live ≠ 0 → sl.hold = .none →
    (sl.goesOn = true → t.sliceIs c i sl) ∧
    (∀ rcv mask pc r m ot os nt rest, sl.stack = .pending rcv mask pc :: .join r m ot os nt :: rest → sl.base < sl.stack.length →
      (sl.active = 0 ∨ sl.pc = rcv) →
      let sl' : Slice := { sl with
        pc := pc, active := mask &&& sl.live, tag := 0, tagSet := false, stack := .join r m ot os (some ⟨sl.tag, sl.tagSet, sl.active != 0⟩) :: rest }
      sl'.goesOn = true → t.sliceIs c i sl') ∧
    (∀ rcv mask ot os nt rest, sl.stack = .join rcv mask ot os (some nt) :: rest → sl.base < sl.stack.length → (sl.active = 0 ∨ sl.pc = rcv) →
      let tag : Byte × Bool := if nt.held && nt.set then (nt.tag, true) else if sl.active != 0 && sl.tagSet then (sl.tag, true) else (ot, os)
      let sl' : Slice := { sl with pc := rcv, active := mask &&& sl.live, stack := rest, tag := tag.1, tagSet := tag.2 }
      ((nt.held = true ∧ sl.active ≠ 0 → nt.tag = sl.tag) → sl'.goesOn = true → t.sliceIs c i sl') ∧
      (nt.held = true ∧ sl.active ≠ 0 ∧ nt.tag ≠ sl.tag →
        (∃ x b, t.sliceIs c i { sl' with tag := x, tagSet := b }) ∧
        ∃ w' r, t.warp? c.iss.w = some w' ∧ r ∈ w'.pending ∧ (w'.strand c.iss.strand).stopped = true ∧ r.code = 0x22 ∧ r.slice = i ∧
          r.strand = c.iss.strand ∧ r.pc = rcv ∧ r.aux = min nt.tag.toNat sl.tag.toNat + 256 * max nt.tag.toNat sl.tag.toNat)) ∧
    (∀ at_ mask rest, sl.stack = .loop at_ mask :: rest → sl.base < sl.stack.length → sl.active = 0 →
      let sl' : Slice := { sl with pc := at_ + 1, active := mask &&& sl.live, stack := rest }
      sl'.goesOn = true → t.sliceIs c i sl'))

/-- (R106, R108, R111 to R130, R134 to R138) The 37 integer and logic rows, the 30 floating-point, special-function and conversion rows, the
cross-lane rows, MOV and MOVI complete with the result their tables give.
Completion said for: iadd, isub, imul, imulh, imad, idiv, irem, imin, imax, iabs, ineg, icmp, andBits, orBits, xorBits, notBits, shl, shr, sar,
rot, popc, clz, brev, bfx, bfi, sel, selh, iaddImm, imulImm, andBitsImm, orBitsImm, xorBitsImm, shlImm, shrImm, sarImm, iminImm, imaxImm, fadd,
fsub, fmul, ffma, fmin, fmax, fabs, fneg, fcmp, frnd, fclass, fdiv, fsqrt, faddImm, fmulImm, fminImm, fmaxImm, rcp, rsq, ex2, lg2, sin, cos, tanh,
sigm, cvt, qnt, dqnt, pack, unpk, shfl, vote, wred, wscan, matchLanes, bcast, mov, movi.
(The model's own readings in it: log 7, 16, 27, 29, 71.) -/
def Obligations.LaneRowsComplete : Prop :=
  (LaneRowCompletes intOp) ∧
  (LaneRowCompletes floatOp) ∧
  (LaneRowCompletes crossOp)

/-- (R16, R19, R20) Where a coupling queue has not what a lane-by-lane row takes, or no room, the row stalls and every register, queue and memory
byte stays; where the strand that would fill the queue has exited, it raises 0x24 with the queues in AUX.
When both strands of a warp in the active set have stalled on coupling queues for 256 ck, 0x24 is raised at the C-strand's lowest stalled
slice with the queues in AUX, and both strands stop.
Completion said for: strandDeadlock.
(The model's own readings in it: log 61, 79.) -/
def Obligations.CouplingQueuesHold : Prop :=
  (∀ (s : State) (c : Ctx) (i : Instr) (o : LaneOp), s.ctx? = some c →
    (intOp c i = some o ∨ floatOp c i = some o ∨ crossOp c i = some o) →
    (∀ qs, c.laneGate o = .stall qs → ∃ (t : State), exec i s = .next t ∧ t.memory = s.memory ∧
      ∀ k, (t.warp? k).map Warp.rest = (s.warp? k).map Warp.rest) ∧
    (∀ qs, c.laneGate o = .dead qs → ∃ (t : State), exec i s = .next t ∧ t.memory = s.memory ∧
      ∃ w, (t.warp? c.iss.w) = some w ∧ w.pending = c.warp.pending ++ [c.cause 0x24 qs.toNat] ∧ w.lanes = c.warp.lanes)) ∧
  (∀ (s : State) (k : WarpKey) (g : Group) (w : Warp) (t0 : Nat), s.group? k.group = some g → g.warp? k = some w → g.active = true →
    w.deadlocked = true → w.stuckSince = some t0 → t0 + 256 ≤ s.now → w.pending = [] →
    ∃ (w' : Warp) (r : Raised), exec (.strandDeadlock k) s = .next (s.modWarp k fun _ => w') ∧ w'.pending = [r] ∧ r.code = 0x24 ∧ r.strand = .c ∧
      (w.waitsFor w.c r.slice).isSome = true ∧ r.pc = (w.c.slice r.slice).pc ∧
      (∀ j < r.slice, (w.c.slice j).live = 0 ∨ w.waitsFor w.c j = none) ∧
      (∀ st i q b, i < (w.strand st).slices.length → ((w.strand st).slice i).live ≠ 0 → w.waitsFor (w.strand st) i = some q →
        q.bits.getLsbD b = true → r.aux.testBit b = true) ∧
      w'.c.stopped = true ∧ w'.a.stopped = true ∧ w'.lanes = w.lanes ∧ w'.y = w.y ∧ w'.m = w.m ∧ w'.g = w.g)

/-- (R131 to R133, R136) DUP pushes n copies of a lane's ages in every active lane; SAVE copies ages to frame slots in executing lanes;
REJOIN permutes the executing lanes' queues and records the tag; a ballot with kind 6 writes a whole mask register and is long.
Completion said for: dup, save, rejoin, vote.
(The model's own readings in it: log 16, 71.) -/
def Obligations.QueueOpsComplete : Prop :=
  ∀ (s : State) (c : Ctx) (h : Hdr), s.ctx? = some c →
    (∀ q : FormQ, ∃ (w : Warp), exec (.dup h q) s = .next (c.finish h nextPc s w) ∧
      (∀ l : Nat, w.lanes[l]? = (c.warp.lanes[l]?).map fun k => if c.active.getLsbD l then
        { k with a := dupQueue (q.sub.toNat % 8) ((c.exec h).getLsbD l) k.a (c.queue l) } else k) ∧
      { w with lanes := c.warp.lanes, busy := c.warp.busy } = c.warp) ∧
    (∀ q : FormQ, ∃ (w : Warp), exec (.save h q) s = .next (c.finish h nextPc s w) ∧
      (∀ l : Nat, w.lanes[l]? = (c.warp.lanes[l]?).map fun k => if (c.exec h).getLsbD l then
        { k with f := saveFrame q.fs.toNat q.sa.toNat (q.sub.toNat % 8 + 1) (c.queue l) k.f } else k) ∧
      { w with lanes := c.warp.lanes, busy := c.warp.busy } = c.warp) ∧
    (∀ q : FormQI, ∃ (w : Warp), exec (.rejoin h q) s = .next (c.finish h
        (fun _ sl => { sl with pc := sl.pc + 1, tag := q.imm.extractLsb' 24 8, tagSet := true }) s w) ∧
      (∀ l : Nat, w.lanes[l]? = (c.warp.lanes[l]?).map fun k => if (c.exec h).getLsbD l then
        { k with a := rejoinQueue q.imm.toNat (c.queue l) } else k) ∧
      { w with lanes := c.warp.lanes, busy := c.warp.busy } = c.warp) ∧
    (∀ q : FormQ, q.sub.toNat % 4 = 0 → q.dk = 6 → c.lqGate (lqNeed [q.sa]) = .go →
      ∃ (w : Warp), exec (.vote h q) s = .next (c.finish h nextPc s.bumpId w) ∧
      w.m = c.warp.m.set! (q.fs.toNat % 8) (ballotOf c.warp.width (c.exec h) (c.aOf 1 q.sa)) ∧
      (∀ l : Nat, w.lanes[l]? = (c.warp.lanes[l]?).map fun k => if c.gangMask.getLsbD l then { k with lq := k.lq.drop (lqPops [q.sa]) } else k) ∧
      w.longs = c.warp.longs ++ [⟨s.nextId, c.iss.strand, c.slices.headD 0, [], none, c.pc⟩] ∧
      { w with lanes := c.warp.lanes, m := c.warp.m, busy := c.warp.busy, longs := c.warp.longs } = c.warp)

/-- (R151 to R154) The A-strand rows that write xD or XD complete: executing lanes' register or pair, nothing else of the warp but marks.
Completion said for: aadd, asub, amul, amad, ashl, ashr, aand, aor, axor, amin, amax, amov, amovi, asel, aaddImm, asubImm, amulImm, ashlImm,
ashrImm, aandImm, aorImm, axorImm, aminImm, amaxImm. -/
def Obligations.AddressOpsComplete : Prop :=
  ∀ (s : State) (c : Ctx) (i : Instr) (o : AddrOp), s.ctx? = some c → addrOp c i = some o →
    ∃ (w : Warp), exec i s = .next (c.finish o.h nextPc s w) ∧
      (∀ l : Nat, w.lanes[l]? = (c.warp.lanes[l]?).map (c.addrAfter o l)) ∧
      { w with lanes := c.warp.lanes, busy := c.warp.busy } = c.warp

/-- (R18, R153, R154) ACMP in both forms completes: the executing lanes' bits of one A-strand mask register. POPI completes when every lane of
the gang has an IQ entry: all pop one, the executing lanes take it by type.
Completion said for: acmp, acmpImm, popi. -/
def Obligations.ComparePopComplete : Prop :=
  (∀ (s : State) (c : Ctx) (i : Instr) (h : Hdr) (g : Nat) (bit : Nat → Bool), s.ctx? = some c → acmpOp c i = some (h, g, bit) →
    ∃ (w : Warp), exec i s = .next (c.finish h nextPc s w) ∧
      (∀ j l, (w.g.getD j 0).getLsbD l = if j = g ∧ (c.exec h).getLsbD l = true then bit l else (c.warp.g.getD j 0).getLsbD l) ∧
      { w with g := c.warp.g } = c.warp) ∧
  (∀ (s : State) (c : Ctx) (h : Hdr) (a : FormA), s.ctx? = some c → c.popGate false 1 = .go →
    ∃ (w : Warp), exec (.popi h a) s = .next (c.finish h nextPc s w) ∧
      (∀ l : Nat, w.lanes[l]? = (c.warp.lanes[l]?).map fun k =>
        c.addrAfter ⟨h, a.ty, a.xd, fun j => immA a.ty ((c.warp.lane j).iq.getD 0 0)⟩ l
          (if c.gangMask.getLsbD l then { k with iq := k.iq.drop 1 } else k)) ∧
      { w with lanes := c.warp.lanes, busy := c.warp.busy } = c.warp)

/-- (R140, R144, R147, R304) NOP and BRA complete: no state but the pc; BRA sends the whole gang the same way.
BRX sends each slice to the entry of the table segment that its index names, held to the last, and changes nothing else but the leaves'
accessed bits; it waits at a page in transition or under a flip; an entry that cannot be read raises 0x10 in the slice that met it.
Completion said for: nop, bra, brx.
(The model's own reading in it: log 64.) -/
def Obligations.BranchesComplete : Prop :=
  (∀ (s : State) (c : Ctx) (h : Hdr) (b : FormB), s.ctx? = some c →
    exec (.nop h b) s = .next (c.finish h nextPc s c.warp) ∧
    exec (.bra h b) s = .next (c.finish h
      (fun _ sl => { sl with pc := if c.braHolds h b then fromNext sl.pc b.off else sl.pc + 1 }) s c.warp)) ∧
  (∀ (s : State) (c : Ctx) (h : Hdr) (b : FormB), s.ctx? = some c → c.lqGate (lqNeed (if c.iss.strand = .c then [b.src] else [])) = .go →
    let off (i : Nat) : Nat := b.off.toNat + 4 * min (c.indexOf b.src i).toNat (b.tableLen - 1)
    ((∃ i ∈ c.slices, s.tableWaits c (off i) = true) → exec (.brx h b) s = .next s) ∧
    ((∀ i ∈ c.slices, s.tableWaits c (off i) = false) → ∀ t vs, State.tableWords c off c.slices s = (t, .ok vs) →
      ∃ (w : Warp) (f : Nat → Slice → Slice), exec (.brx h b) s = .next (c.finish h f t w) ∧ vs.map (·.1) = c.slices ∧
        (∀ i v sl, (i, v) ∈ vs → c.slices.Nodup → f i sl = { sl with pc := v }) ∧
        (∀ l : Nat, w.lanes[l]? = (c.warp.lanes[l]?).map fun k => if c.gangMask.getLsbD l then
          { k with lq := k.lq.drop (if c.iss.strand = .c then lqPops [b.src] else 0) } else k) ∧ { w with lanes := c.warp.lanes } = c.warp) ∧
    ((∀ i ∈ c.slices, s.tableWaits c (off i) = false) → ∀ t i walk va, State.tableWords c off c.slices s = (t, .error (i, walk, va)) →
      ∃ (r : Raised), exec (.brx h b) s = .next (c.raise t r) ∧ r.code = 0x10 ∧ r.slice = i ∧ r.walk = walk ∧ r.va = va ∧ r.done = false) ∧
    (c.warp.handler = false → ∀ l i, s.launch? c.iss.w.seq = some l → l.code.tSeg.2 < off i + 4 →
      (s.tableWord c (off i)).2 = .error (0xFF, l.code.base + l.code.tSeg.1 + off i)) ∧
    (c.warp.handler = false → ∀ l i t p, s.launch? c.iss.w.seq = some l → off i + 4 ≤ l.code.tSeg.2 →
      s.resolve c.grp.die c.grp.core c.grp.dom (l.code.base + l.code.tSeg.1 + off i) = (t, .ok p) →
      let u := t.markLeaf c.grp.dom p false
      s.tableWord c (off i) = (u, .ok (BitVec.ofNat 32 (u.memory.nat (u.visible c.grp.die p (p.at_ (l.code.base + l.code.tSeg.1 + off i))) 4)))))

/-- (R33, R141, R143) BRD.if completes where every stack of the gang has room for two entries, BRD.loop where every one has room for one: each
slice goes on alone as its own lanes decide. Where one slice has no room BRD.if raises 0x23 with AUX 1 and changes no register.
Completion said for: brdIf, brdLoop.
(The model's own reading in it: log 63.) -/
def Obligations.DivergenceCompletes : Prop :=
  (∀ (s : State) (c : Ctx) (h : Hdr) (b : FormBD), s.ctx? = some c → (∀ i ∈ c.slices, (c.st.slice i).stack.length + 2 ≤ 32) →
    exec (.brdIf h b) s = .next (c.finish h (fun i sl => ifAfter (c.guardNib h i) b sl) s c.warp)) ∧
  (∀ (s : State) (c : Ctx) (h : Hdr) (b : FormBD), s.ctx? = some c → (∀ i ∈ c.slices, (c.st.slice i).stack.length + 1 ≤ 32) →
    exec (.brdLoop h b) s = .next (c.finish h (fun i sl =>
      match sl.loopTop with
      | some (m, rest) => loopAgain (c.guardNib h i) b sl m rest
      | none => loopAfter (c.guardNib h i) b sl) s c.warp)) ∧
  (∀ (s : State) (c : Ctx) (h : Hdr) (b : FormBD) (i : Nat), s.ctx? = some c → c.slices = [i] → (c.st.slice i).stack.length = 32 →
    (c.st.slice i).active &&& c.guardNib h i ≠ 0 → (c.st.slice i).active &&& ~~~(c.guardNib h i) ≠ 0 →
    ∃ (r : Raised), exec (.brdIf h b) s = .next (c.raise s r) ∧ r.code = 0x23 ∧ r.aux = 1 ∧ r.slice = i ∧ r.done = false)

/-- (R17, R81, R155 to R163, R281, R304) A load whose checks pass completes: it puts one access in flight with a unit for each piece of each
executing lane, owes x(XD) as a long result or reserves LQ entries, pops its IQ entry, and leaves every register and, but for the leaves'
accessed bits, every byte of memory.
Completion said for: ld, lds, ldx, ldc, ldLq, ldsLq, ldxLq, ldcLq. -/
def Obligations.LoadsComplete : Prop :=
  ∀ (s : State) (c : Ctx) (i : Instr) (o : MemOp), s.ctx? = some c → loadOp s c i = some o → o.clear → c.loadGate o.m o.queue o.pop = .go →
    ∃ (t : State) (w : Warp), exec i s = .next (c.finish o.h nextPc t w) ∧ accessed s t o.found.pages ∧
      w.accs = withAccess c.warp.accs ⟨s.nextId, .load, o.m.size.toNat, o.m.scope.toNat, o.m.nt, o.m.pol.toNat, 0,
        if o.queue then .lq else .xreg o.m.xd.toNat, o.found.units, false, c.slices.headD 0, c.pc⟩ ∧
      (∀ l : Nat, w.lanes[l]? = (c.warp.lanes[l]?).map (c.queuesAfter o.h (if o.pop then 1 else 0) 0
        (if o.queue && !c.warp.c.exited then some (s.nextId, sizeWords o.m.size.toNat) else none) l)) ∧
      w.longs = c.warp.longs ++ (if o.queue || o.found.units = [] then [] else [⟨s.nextId, .a, c.slices.headD 0, [], some s.nextId, c.pc⟩]) ∧
      { w with lanes := c.warp.lanes, accs := c.warp.accs, longs := c.warp.longs, busy := c.warp.busy } = c.warp

/-- (R155 to R163, R304) A store whose checks pass completes: one access in flight whose units hold the bytes to store (x registers, or the SQ
entries it pops); no register changes and no byte of memory but the leaves' accessed and dirty bits.
Completion said for: st, sts, stx, stSq, stsSq, stxSq. -/
def Obligations.StoresIssue : Prop :=
  ∀ (s : State) (c : Ctx) (i : Instr) (o : MemOp), s.ctx? = some c → storeOp s c i = some o → o.clear → c.storeGate o.m o.queue o.pop = .go →
    ∃ (t : State) (w : Warp), exec i s = .next (c.finish o.h nextPc t w) ∧ accessed s t o.found.pages ∧
      w.accs = withAccess c.warp.accs ⟨s.nextId, .store, o.m.size.toNat, o.m.scope.toNat, o.m.nt, o.m.pol.toNat, 0, .none,
        o.found.units.map (fun u => { u with data := bytesAt (c.storeData o.m o.queue u.lane) u.off u.len }), false, c.slices.headD 0, c.pc⟩ ∧
      (∀ l : Nat, w.lanes[l]? = (c.warp.lanes[l]?).map (c.queuesAfter o.h (if o.pop then 1 else 0)
        (if o.queue then sizeWords o.m.size.toNat else 0) none l)) ∧
      { w with lanes := c.warp.lanes, accs := c.warp.accs, busy := c.warp.busy } = c.warp

/-- (R168 to R173) An atomic whose checks pass completes: one access in flight with each lane's operands; an ATOM owes x(XR).
Completion said for: atom, red, mred. -/
def Obligations.AtomicsIssue : Prop :=
  ∀ (s : State) (c : Ctx) (i : Instr) (o : MemOp) (kind : AccessKind), s.ctx? = some c → atomicOp s c i = some (o, kind) → o.clear →
    ∃ (t : State) (w : Warp), exec i s = .next (c.finish o.h nextPc t w) ∧ accessed s t o.found.pages ∧
      w.accs = withAccess c.warp.accs ⟨s.nextId, kind, o.m.size.toNat, o.m.scope.toNat, false, o.m.pol.toNat, o.m.aop.toNat,
        if kind = .atom then .xreg o.m.xr.toNat else .none, o.found.units.map (fun u => { u with data := c.atomData o.m u.lane }),
        false, c.slices.headD 0, c.pc⟩ ∧
      w.longs = c.warp.longs ++ (if kind = .atom ∧ o.found.units ≠ [] then [⟨s.nextId, .a, c.slices.headD 0, [], some s.nextId, c.pc⟩] else []) ∧
      { w with accs := c.warp.accs, longs := c.warp.longs, busy := c.warp.busy } = c.warp

/-- (R53, R158, R159, R169, R349) A load, store or atomic with a failed check and no walk to wait for raises the lowest cause that a lane met, of the
lowest lane among equals, and changes nothing else but the walk it has read: no access goes in flight, no register or byte of memory
changes. A misaligned b64, b128 or atomic meets 0x13 with its size in AUX, in memory as in scratch; an access to a slot without a group, or beyond
the group's scratch, 0x14 with the slot in AUX. A page that is not readable or writable as asked meets 0x11.
The units of an access: whole when naturally aligned (b128 as two of 8 bytes), else byte by byte; they cover it once.
(The model's own readings in it: log 67, 82.) -/
def Obligations.AccessFaults : Prop :=
  ((∀ (s : State) (c : Ctx) (i : Instr) (o : MemOp), s.ctx? = some c →
    ((loadOp s c i = some o ∧ c.loadGate o.m o.queue o.pop = .go) ∨ (storeOp s c i = some o ∧ c.storeGate o.m o.queue o.pop = .go) ∨
      ∃ k, atomicOp s c i = some (o, k)) → o.found.miss = [] → o.found.bad ≠ [] →
    ∃ b r t, b ∈ o.found.bad ∧ (∀ d ∈ o.found.bad, b.code * 64 + b.lane ≤ d.code * 64 + d.lane) ∧
      exec i s = .next t ∧ t = c.raise s r ∧ r.code = b.code ∧ r.aux = b.aux ∧ r.lane = b.lane ∧ r.slice = b.lane / 4 ∧ r.va = b.va ∧ r.done = false ∧
      t.memory = s.memory ∧ ∀ k, (t.warp? k).map (·.lanes) = (s.warp? k).map (·.lanes)) ∧
  (∀ (s : State) (c : Ctx) (need : Need) (n l : Nat) (ea : Word64), (8 ≤ n ∨ need.aligned = true) → ea.toNat % n ≠ 0 →
    ∃ b ∈ (s.checkMem c need n l ea).bad, b.code = 0x13 ∧ b.aux = n ∧ b.lane = l ∧ b.va = ea.toNat)) ∧
  (∀ (s : State) (c : Ctx) (need : Need) (n l : Nat) (ea : Word64), n ∈ [1, 2, 4, 8, 16] →
    let slot := ea.toNat / 2 ^ 24 % 256
    ((8 ≤ n ∨ need.aligned = true) → ea.toNat % n ≠ 0 →
      ∃ b ∈ (s.checkScratch c need n l ea).bad, b.code = 0x13 ∧ b.aux = n ∧ b.lane = l ∧ b.va = ea.toNat) ∧
    ((slot ≠ 0xFF ∧ (∀ j ∈ c.grp.cohort, ∀ g, s.group? ⟨c.grp.key.seq, j⟩ = some g → g.slot ≠ slot)) ∨
        (slot = 0xFF ∧ 148 * c.grp.scRows < ea.toNat % 2 ^ 24 + n) →
      ∃ b ∈ (s.checkScratch c need n l ea).bad, b.code = 0x14 ∧ b.aux = slot ∧ b.lane = l ∧ b.va = ea.toNat) ∧
    (slot = 0xFF → ea.toNat % 2 ^ 24 + n ≤ 148 * c.grp.scRows → ea.toNat % n = 0 → (s.checkScratch c need n l ea).bad = []) ∧
    (∀ p, s.look c ea.toNat = .page p → ((need.r = true ∧ p.r = false) ∨ (need.w = true ∧ (p.w = false ∨ p.fx = true))) →
      ∃ b ∈ (s.checkMem c need n l ea).bad, b.code = 0x11 ∧ b.aux = 0 ∧ b.lane = l ∧ b.va = ea.toNat)) ∧
  (∀ (ea n : Nat), n ∈ [1, 2, 4, 8, 16] →
    ((pieces ea n).map (fun p => (List.range p.2).map (p.1 + ·))).flatten = List.range n ∧
    (ea % n = 0 → n ≤ 8 → pieces ea n = [(0, n)]) ∧ (ea % 16 = 0 → pieces ea 16 = [(0, 8), (8, 8)]) ∧
    (ea % n ≠ 0 → ∀ p ∈ pieces ea n, p.2 = 1))

/-- (R166, R174 to R178, R267, R270) FENCE, RFENCE and DRAIN complete when what they wait for is performed at the scope, and else leave the state as
it is; a release covers the writes of others that it has seen. DRAIN makes non-temporal stores ordinary. PF completes always, changing caches
alone. CWB and CINV, once their checks pass and no access of the warp is to be made first, clean each SC line of the executing lanes: where the
die is the home of those that are dirty they complete, no aimed line has a dirty byte left, each byte that was dirty stands at its home, every
other byte is as before, and CINV has dropped the lines; what another die homes is sent to it, and they wait for it. At a scope of the die or
narrower they complete with nothing moved.
Completion said for: fence, rfence, drain, pf, cwb, cinv.
(The model's own readings in it: log 26, 81.) -/
def Obligations.FencesComplete : Prop :=
  (∀ (s : State) (c : Ctx) (h : Hdr) (m : FormM), s.ctx? = some c →
    let done := (∀ a ∈ c.warp.accs, a.kind ≠ .load) ∧ (∀ l ∈ c.warp.longs, l.access = none) ∧
      (m.size = 1 ∨ ∀ a ∈ c.warp.accs, (a.kind = .atom ∨ a.kind = .red ∨ (a.kind = .store ∧ (a.nt = false ∨ a.drained = true))) →
        ∀ u ∈ a.units, u.performedAt m.scope.toNat = true) ∧ (m.size = 1 ∨ s.carriesAlong c.grp.agent m.scope.toNat)
    (done → exec (.fence h m) s = .next (c.finish h nextPc s c.warp)) ∧ (¬ done → exec (.fence h m) s = .next s)) ∧
  (∀ (s : State) (c : Ctx) (h : Hdr) (m : FormM), s.ctx? = some c →
    let done := ∀ a ∈ c.warp.accs, a.kind = .mred → ∀ u ∈ a.units, u.level = .panel ∨
      (u.level = .die ∧ m.scope.toNat ≤ 3 ∧ ∀ p ∈ s.memory.sent ++ s.memory.log, some p.id = u.packet → p.seenBy c.grp.die = true)
    (done → exec (.rfence h m) s = .next (c.finish h nextPc s c.warp)) ∧ (¬ done → exec (.rfence h m) s = .next s)) ∧
  (∀ (s : State) (c : Ctx) (h : Hdr) (m : FormM), s.ctx? = some c →
    let done := ∀ a ∈ c.warp.accs, a.kind = .store → a.nt = true → ∀ u ∈ a.units, u.performedAt m.scope.toNat = true
    (done → exec (.drain h m) s = .next (c.finish h nextPc s
      { c.warp with accs := c.warp.accs.map fun a => if a.kind = .store ∧ a.nt = true then { a with drained := true } else a })) ∧
    (¬ done → exec (.drain h m) s = .next s)) ∧
  (∀ (s : State) (c : Ctx) (h : Hdr) (m : FormM), s.ctx? = some c →
    ∃ t : State, exec (.pf h m) s = .next (c.finish h nextPc t c.warp) ∧
      { t with memory := s.memory, dies := s.dies, module := s.module, nextId := s.nextId } = s ∧
      ((∀ d ∈ s.dies, ∀ l ∈ d.lines, l.dirty = 0) → ∀ a, t.memory.byte a = s.memory.byte a)) ∧
  (∀ (s : State) (c : Ctx) (h : Hdr) (m : FormM), s.ctx? = some c →
    let k := c.allChecks h fun l => s.checkMem c needLine 1 l (c.eaOf m 1 false l)
    let s1 := k.pages.foldl (fun s x => s.reach c.grp.die c.grp.core c.grp.dom false x) s
    let die := c.grp.die
    let lines := s.scAimed c m.scope.toNat k.units
    let dirtyAt (a : Nat) (l : CacheLine) : Prop :=
      l ∈ (s1.die die).lines ∧ l.line ∈ lines ∧ l.sc = true ∧ 128 * l.line ≤ a ∧ a < 128 * l.line + 128 ∧ l.dirty.getLsbD (a - 128 * l.line) = true
    k.miss = [] → k.bad = [] → c.warp.accs = [] → s1.memory.wf = true → (∀ n ∈ lines, s1.memory.ownOnWay die n = false) →
    (∀ l ∈ (s1.die die).lines, ∀ q ∈ (s1.die die).lines, l.line ∈ lines → q.line = l.line → q = l) →
    usedLeaves s s1 k.pages ∧
    (m.scope.toNat ≤ 3 → exec (.cwb h m) s = .next (c.finish h nextPc s1 c.warp) ∧ exec (.cinv h m) s = .next (c.finish h nextPc s1 c.warp)) ∧
    ((∀ l ∈ (s1.die die).lines, l.line ∈ lines → l.sc = true → l.dirty ≠ 0 → s1.homeOf (stackOf (128 * l.line)) = die) → ∀ drop : Bool,
      ∃ t : State, exec (if drop then .cinv h m else .cwb h m) s = .next (c.finish h nextPc t c.warp) ∧
        { t with memory := s1.memory, dies := s1.dies, module := s1.module } = s1 ∧
        (∀ l ∈ (t.die die).lines, l.line ∈ lines → l.dirty = 0 ∧ drop = false) ∧
        (∀ l ∈ (s1.die die).lines, l.line ∉ lines → l ∈ (t.die die).lines) ∧
        (∀ a l, dirtyAt a l → t.memory.byte a = l.data.getD (a - 128 * l.line) 0) ∧
        (∀ a, (∀ l, ¬ dirtyAt a l) → t.memory.byte a = s1.memory.byte a)) ∧
    ((∃ l ∈ (s1.die die).lines, l.line ∈ lines ∧ l.sc = true ∧ l.dirty ≠ 0 ∧ s1.homeOf (stackOf (128 * l.line)) ≠ die) → ∀ drop : Bool,
      ∃ t : State, exec (if drop then .cinv h m else .cwb h m) s = .next (c.waits t) ∧
        (∀ l ∈ (t.die die).lines, l.line ∈ lines → l.dirty = 0) ∧
        (∀ a l, dirtyAt a l → s1.homeOf (stackOf a) ≠ die → ∃ p ∈ t.memory.sent, p.src = die ∧ p.only = some (s1.homeOf (stackOf a)) ∧
          p.pa ≤ a ∧ a < p.pa + p.bytes.length ∧ p.bytes.getD (a - p.pa) 0 = l.data.getD (a - 128 * l.line) 0)))

/-- (R17, R27, R81, R158, R162, R281, R385) A load's unit that nothing earlier blocks reads its bytes at one instant; with the last unit of its lane the
value stands in the registers it still owes, or in its LQ entries, and with the last lane the access is over. A poisoned sector gives 0 and
raises 0x08 in the unit's lane. Nothing else of the lanes changes.
The bytes: of scratch those that stand there, with no window of the group open; of an HC line what the die sees of it, which is its own newest
write on its way, and where every write to the home has been applied the home's byte; of a line held of an SC page, at a scope of the die or
narrower, and of a CP page, the line's; beyond the die, with no dirty copy held, and where the die holds no line, the home's.
A long result that is no load is written: its marks go, its flags are set in its lanes, its cause is raised, and nothing else of the warp
but the stall of its slices changes. An ATOM's result waits until every unit has its old value.
Completion said for: loadDataReturn, longResultWrite.
(The model's own readings in it: log 11, 13, 62, 65.) -/
def Obligations.ResultsReturn : Prop :=
  (∀ (s s1 : State) (k : WarpKey) (id n : Nat) (f : Flight) (u : AUnit) (bs : List Byte) (bad : Bool) (w : Warp),
    s.flight? k id = some f → f.acc.units[n]? = some u → f.acc.kind = .load → u.level = .issued → f.blocked u = false →
    s.readUnit f u = some (bs, bad, s1) → s1.warp? k = some w →
    let a := f.readAs n u bs bad
    let ws := loadWords a.size (a.laneValue u.lane)
    ∃ (w' : Warp), exec (.loadDataReturn k id n) s = .next (s1.modWarp k fun _ => w') ∧
      w'.accs = (if a.finished then w.accs.filter (·.id != a.id) else w.accs.map fun b => if b.id = a.id then a else b) ∧
      w'.longs = (if a.finished then w.longs.filter (·.access != some a.id) else w.longs) ∧
      (∀ l : Nat, w'.lanes[l]? = (w.lanes[l]?).map fun q =>
        if l = u.lane ∧ a.laneRead u.lane = true then
          match a.dest with
          | .none => q
          | .xreg i => { q with x := loadedX w.busy a.id l i ws q.x }
          | .lq => { q with lq := fillLq a.id q.lq ws }
        else q) ∧
      w'.y = w.y ∧ w'.m = w.m ∧ w'.g = w.g ∧ w'.mode = w.mode ∧
      (bad = false → w'.pending = w.pending) ∧
      (bad = true → w.saved = none → ∃ r ∈ w'.pending, r.code = 0x08 ∧ r.lane = u.lane ∧ r.slice = u.lane / 4 ∧ r.va = u.va ∧ r.pc = f.acc.pc)) ∧
  (∀ (s : State) (f : Flight) (u : AUnit),
    let reads (v : Nat → Byte) (bad : Bool) : Prop :=
      ∃ bs s1, s.readUnit f u = some (bs, bad, s1) ∧ bs.length = u.len ∧ ∀ j, j < u.len → bs.getD j 0 = v j
    (∀ g off grp, u.place = .scratch g off → s.group? g = some grp → grp.rowsOut = false →
      (∀ w ∈ (s.core grp.die grp.core).windows, w.open_ = true → w.owner ≠ g) → reads (fun j => cellRead grp.scratch (off + j)) false) ∧
    (∀ pa page, u.place = .mem pa page → page.pp = none → pa % 128 + u.len ≤ 128 → s.memory.wf = true →
      (∀ e ∈ s.earlies f.die, e.by_.reaches e.unit.level f.agent = true →
        ∀ q p, e.unit.place = .mem q p → overlaps q e.unit.len pa u.len = false) →
      (page.cc = 0 → s.leaving f.die pa = false → reads (fun j => s.memory.view f.die (pa + j)) (s.memory.poisoned pa u.len)) ∧
      (∀ l, ((page.cc = 1 ∧ f.acc.scope ≤ 3) ∨ page.cc = 2) → s.cached? f.die (lineOf pa) = some l → l.data.length = 128 →
        reads (fun j => l.data.getD (pa % 128 + j) 0) (linePoisoned l (pa % 128) u.len)) ∧
      ((page.cc = 1 ∨ page.cc = 2) → s.leaving f.die pa = false →
        (∀ q ∈ s.memory.sent, q.src = f.die → overlaps q.pa q.bytes.length pa u.len = false) →
        (page.cc = 1 → 4 ≤ f.acc.scope → (∀ l ∈ (s.die f.die).lines, l.line = lineOf pa → l.dirty = 0) →
          reads (fun j => s.memory.byte (pa + j)) (s.memory.poisoned pa u.len)) ∧
        (s.cached? f.die (lineOf pa) = none → ∃ bad, reads (fun j => s.memory.byte (pa + j)) bad)))) ∧
  (∀ (m : Memory) (d a : Nat), (∀ p ∈ m.sent, p.src = d → covers p.pa p.bytes.length a = false) →
    (∀ p ∈ m.log, covers p.pa p.bytes.length a = true → p.seenBy d = true) → m.view d a = m.byte a) ∧
  (∀ (m : Memory) (d a : Nat) (older younger : List Packet) (p : Packet), m.sent = older ++ p :: younger → p.src = d →
    covers p.pa p.bytes.length a = true → (∀ q ∈ younger, q.src = d → covers q.pa q.bytes.length a = false) →
    m.view d a = p.bytes.getD (a - p.pa) 0) ∧
  (∀ (s : State) (k : WarpKey) (id : Nat) (w : Warp) (l : LongOp), s.warp? k = some w → w.longs.find? (·.id == id) = some l →
    (l.access = none → ∃ (w' : Warp), exec (.longResultWrite k id) s = .next (s.modWarp k fun _ => w') ∧
      w'.busy = w.busy.filter (·.id != l.id) ∧ w'.longs = w.longs.filter (·.id != l.id) ∧
      (∀ j : Nat, w'.lanes[j]? = (w.lanes[j]?).map fun q => { q with status := q.status ||| (l.flags.foldl (fun b p => if p.1 = j then b ||| p.2 else b) 0) }) ∧
      w'.y = w.y ∧ w'.m = w.m ∧ w'.g = w.g ∧ w'.accs = w.accs ∧
      w'.pending = w.pending ++ (match arithCause w.mode l.flags with
        | some (code, j) => [{ Raised.plain code 0 (j / 4) l.strand true l.pc [j / 4] with lane := j }]
        | none => [])) ∧
    (∀ i a, l.access = some i → w.accs.find? (·.id == i) = some a → a.kind = .atom → (∃ u ∈ a.units, u.level = .issued) →
      exec (.longResultWrite k id) s = .next s))

/-- (R158, R161, R164, R170 to R172, R174, R260, R264, R265, R286, R292, R296) A store's unit that nothing earlier blocks is made: in scratch its bytes
stand where the unit's place says and every other byte is as before, and it is performed everywhere. In memory it is first performed for its group, then its
cluster, then its cohort, which changes no byte of memory; then at its die: a non-temporal store, or one to a write-around page, of a line that
the die does not hold and homes writes the home's bytes and no other; a store to a line that the die holds on a write-back page writes the
line's bytes, dirty, and no byte of the home; on a write-through page the line and the home have them, the line clean there.
A store to an HC line that its die homes stands at the home, in a packet that the die has applied and no other yet: what the others see stays.
Homed elsewhere it is on its way, seen by its die alone. It is performed at the panel once every die has what precedes it: then every die has
applied it, and of one that was on its way every die without a newer write of its own sees the bytes.
An atomic's unit reads the old bytes and leaves the operation's result, every other byte as before: in scratch; at the home of an HC line, and of
an SC line at a scope beyond the die, but on a poisoned sector it changes nothing; and else in the line that the die holds.
Completion said for: storePerformed.
(The model's own readings in it: log 10, 68, 84.) -/
def Obligations.StoresPerform : Prop :=
  (∀ (s : State) (k : WarpKey) (id n : Nat) (f : Flight) (u : AUnit),
    s.flight? k id = some f → f.acc.units[n]? = some u → f.acc.kind = .store →
    (∀ g off grp, u.level = .issued → f.blocked u = false → u.place = .scratch g off → s.group? g = some grp → grp.rowsOut = false →
      cellsWf grp.scratch = true →
      ∃ (s1 : State) (u' : AUnit), exec (.storePerformed k id n) s = .next (s1.advanced k f n u') ∧ u'.level = .panel ∧
        (∀ j, j < u.data.length → s1.scratchRead g (off + j) 1 = [u.data.getD j 0]) ∧
        (∀ a, a < off ∨ off + u.data.length ≤ a → s1.scratchRead g a 1 = s.scratchRead g a 1) ∧ s1.memory = s.memory) ∧
    (∀ pa page, u.place = .mem pa page → page.pp = none →
      (u.level = .issued → f.blocked u = false → s.waitsEarly f u = false → s.crowded f pa u.len .grp = false →
        exec (.storePerformed k id n) s = .next (s.advanced k f n { u with level := .grp })) ∧
      (u.level = .grp → s.crowded f pa u.len .clu = false →
        exec (.storePerformed k id n) s = .next (s.advanced k f n { u with level := .clu })) ∧
      (u.level = .clu → s.crowded f pa u.len .coh = false →
        exec (.storePerformed k id n) s = .next (s.advanced k f n { u with level := .coh })) ∧
      (u.level = .coh → page.cc ≠ 0 → (f.acc.nt = true ∨ page.wp = 2) → s.cached? f.die (lineOf pa) = none → s.homeOf (stackOf pa) = f.die →
        s.memory.wf = true →
        ∃ (s1 : State) (u' : AUnit), exec (.storePerformed k id n) s = .next (s1.advanced k f n u') ∧ u'.level = .die ∧
          (∀ j, j < u.data.length → s1.memory.byte (pa + j) = u.data.getD j 0) ∧
          (∀ a, a < pa ∨ pa + u.data.length ≤ a → s1.memory.byte a = s.memory.byte a) ∧ s1.groups = s.groups) ∧
      (∀ l, u.level = .coh → page.cc ≠ 0 → f.acc.nt = false → page.wp = 0 → (page.cc = 2 ∨ f.acc.scope ≤ 3) → f.acc.pol ≠ 3 →
        s.cached? f.die (lineOf pa) = some l → l.data.length = 128 → pa % 128 + u.data.length ≤ 128 →
        ∃ (s1 : State) (u' : AUnit) (l' : CacheLine), exec (.storePerformed k id n) s = .next (s1.advanced k f n u') ∧ u'.level = .die ∧
          s1.memory = s.memory ∧ s1.groups = s.groups ∧ s1.cached? f.die (lineOf pa) = some l' ∧
          (∀ j, j < u.data.length → l'.data.getD (pa % 128 + j) 0 = u.data.getD j 0 ∧ l'.dirty.getLsbD (pa % 128 + j) = true) ∧
          (∀ i, i < pa % 128 ∨ pa % 128 + u.data.length ≤ i → l'.data.getD i 0 = l.data.getD i 0 ∧ l'.dirty.getLsbD i = l.dirty.getLsbD i)) ∧
      (∀ l, u.level = .coh → page.cc ≠ 0 → f.acc.nt = false → page.wp = 1 → f.acc.pol ≠ 3 → s.cached? f.die (lineOf pa) = some l →
        l.data.length = 128 → pa % 128 + u.data.length ≤ 128 → s.homeOf (stackOf pa) = f.die → s.memory.wf = true →
        ∃ (s1 : State) (u' : AUnit) (l' : CacheLine), exec (.storePerformed k id n) s = .next (s1.advanced k f n u') ∧ u'.level = .die ∧
          s1.groups = s.groups ∧ s1.cached? f.die (lineOf pa) = some l' ∧
          (∀ j, j < u.data.length → l'.data.getD (pa % 128 + j) 0 = u.data.getD j 0 ∧ l'.dirty.getLsbD (pa % 128 + j) = false ∧
            s1.memory.byte (pa + j) = u.data.getD j 0) ∧
          ∀ a, a < pa ∨ pa + u.data.length ≤ a → s1.memory.byte a = s.memory.byte a))) ∧
  (∀ (s : State) (k : WarpKey) (id n : Nat) (f : Flight) (u : AUnit) (pa : Nat) (page : Page),
    s.flight? k id = some f → f.acc.units[n]? = some u → f.acc.kind = .store → u.place = .mem pa page → page.pp = none → page.cc = 0 →
    s.memory.wf = true →
    (u.level = .coh → pa % 128 + u.data.length ≤ 128 → (∀ l ∈ (s.die f.die).lines, l.sc = true → l.dirty = 0) →
      (s.homeOf (stackOf pa) = f.die → s.memory.ownOnWay f.die (lineOf pa) = false →
        ∃ (s1 : State) (u' : AUnit), exec (.storePerformed k id n) s = .next (s1.advanced k f n u') ∧ u'.level = .die ∧ s1.groups = s.groups ∧
          (∀ j, j < u.data.length → s1.memory.byte (pa + j) = u.data.getD j 0 ∧ s1.memory.view f.die (pa + j) = u.data.getD j 0) ∧
          (∀ a, a < pa ∨ pa + u.data.length ≤ a → s1.memory.byte a = s.memory.byte a) ∧
          (∀ d, d ≠ f.die → ∀ a, s1.memory.view d a = s.memory.view d a) ∧
          ∃ p ∈ s1.memory.log, u'.packet = some p.id ∧ p.src = f.die ∧ p.pa = pa ∧ p.bytes = u.data ∧ p.applied = [f.die] ∧ p.all = false) ∧
      (s.homeOf (stackOf pa) ≠ f.die → s.memory.dirAt (lineOf pa) ≠ .o f.die →
        ∃ (s1 : State) (u' : AUnit), exec (.storePerformed k id n) s = .next (s1.advanced k f n u') ∧ u'.level = .die ∧ s1.groups = s.groups ∧
          (∀ a, s1.memory.byte a = s.memory.byte a) ∧
          (∀ j, j < u.data.length → s1.memory.view f.die (pa + j) = u.data.getD j 0) ∧
          (∀ d, d ≠ f.die → ∀ a, s1.memory.view d a = s.memory.view d a) ∧
          ∃ p ∈ s1.memory.sent, u'.packet = some p.id ∧ p.src = f.die ∧ p.pa = pa ∧ p.bytes = u.data ∧ p.old = none ∧ p.only = none)) ∧
    (∀ p, u.level = .die → u.packet = some p.id → (s.memory.sent ++ s.memory.log).find? (·.id == p.id) = some p →
      ((∃ q ∈ s.memory.sent ++ s.memory.log, q.id ≠ p.id ∧ q.all = false ∧ before q p = true) → exec (.storePerformed k id n) s = .next s) ∧
      ((∀ q ∈ s.memory.sent ++ s.memory.log, q.id = p.id ∨ q.all = true ∨ before q p = false) →
        ∃ (s1 : State) (u' : AUnit), exec (.storePerformed k id n) s = .next (s1.advanced k f n u') ∧ u'.level = .panel ∧ s1.groups = s.groups ∧
          (∀ q ∈ s1.memory.log, q.id = p.id → q.all = true) ∧ (p.old.isSome = true → s1.memory.mem = s.memory.mem) ∧
          (p.old = none → p.only = none → ∀ j, j < p.bytes.length → s1.memory.byte (p.pa + j) = p.bytes.getD j 0 ∧
            ∀ d, (∀ q ∈ s.memory.sent, q.src = d → q ≠ p → covers q.pa q.bytes.length (p.pa + j) = false) →
              s1.memory.view d (p.pa + j) = p.bytes.getD j 0)))) ∧
  (∀ (s : State) (k : WarpKey) (id n : Nat) (f : Flight) (u : AUnit) (pa : Nat) (page : Page),
    s.flight? k id = some f → f.acc.units[n]? = some u → (f.acc.kind = .atom ∨ f.acc.kind = .red) → u.level = .issued → f.blocked u = false →
    s.waitsEarly f u = false → u.place = .mem pa page → page.pp = none → s.memory.wf = true →
    ((page.cc = 0 ∨ (page.cc = 1 ∧ 4 ≤ f.acc.scope ∧ s.cached? f.die (lineOf pa) = none)) → s.leaving f.die pa = false →
      s.memory.ownOnWay f.die (lineOf pa) = false → (page.cc = 0 → ∀ q ∈ s.memory.log, overlaps q.pa q.bytes.length pa u.len = true → q.seenBy f.die = true) →
      (s.homeOf (stackOf pa) = f.die ∨ ∀ q ∈ s.memory.sent ++ s.memory.log, q.seenBy (s.homeOf (stackOf pa)) = true) →
      ∃ (s1 : State) (u' : AUnit), exec (.storePerformed k id n) s = .next (s1.advanced k f n u') ∧
        (s.memory.poisoned pa u.len = false → u'.level = (if page.cc = 0 then .die else .panel) ∧ u'.data = s.memory.bytes pa u.len ∧
          u'.poisoned = u.poisoned ∧ s1.memory.bytes pa u.len = atomBytes f.acc.aop u.len u.data (s.memory.bytes pa u.len) ∧
          ∀ a, a < pa ∨ pa + u.len ≤ a → s1.memory.byte a = s.memory.byte a) ∧
        (s.memory.poisoned pa u.len = true → u'.level = .panel ∧ u'.poisoned = true ∧ s1.memory = s.memory)) ∧
    (∀ l, ((page.cc = 1 ∧ f.acc.scope ≤ 3) ∨ page.cc = 2) → f.acc.pol ≠ 3 → s.cached? f.die (lineOf pa) = some l → l.data.length = 128 →
      pa % 128 + u.len ≤ 128 → linePoisoned l (pa % 128) u.len = false →
      ∃ (s1 : State) (u' : AUnit) (l' : CacheLine), exec (.storePerformed k id n) s = .next (s1.advanced k f n u') ∧ u'.level = .die ∧
        u'.data = bytesAt l.data (pa % 128) u.len ∧ s1.memory = s.memory ∧ s1.cached? f.die (lineOf pa) = some l' ∧
        bytesAt l'.data (pa % 128) u.len = atomBytes f.acc.aop u.len u.data (bytesAt l.data (pa % 128) u.len) ∧
        (∀ i, i < pa % 128 ∨ pa % 128 + u.len ≤ i → l'.data.getD i 0 = l.data.getD i 0))) ∧
  (∀ (s : State) (k : WarpKey) (id n : Nat) (f : Flight) (u : AUnit) (g : GroupKey) (off : Nat) (grp : Group),
    s.flight? k id = some f → f.acc.units[n]? = some u → (f.acc.kind = .atom ∨ f.acc.kind = .red) → u.level = .issued → f.blocked u = false →
    u.place = .scratch g off → s.group? g = some grp → grp.rowsOut = false → cellsWf grp.scratch = true → u.len ≤ 8 →
    ∃ (s1 : State) (u' : AUnit), exec (.storePerformed k id n) s = .next (s1.advanced k f n u') ∧ u'.level = .panel ∧ u'.data = s.scratchSee g off u.len ∧
      s1.scratchRead g off u.len = atomBytes f.acc.aop u.len u.data (s.scratchSee g off u.len) ∧
      (∀ a, a < off ∨ off + u.len ≤ a → s1.scratchRead g a 1 = s.scratchRead g a 1))

/-- (R173, R264, R276, R294, R296, R385) A write that a live die may apply next, its sender's earlier writes and what those followed having got
there, is applied: at the home it leaves the home's bytes as the packet says and no other byte changes; elsewhere the die is added to those that
have it, and keeps no copy of the line unless the line's order has been delegated to it. A write of which something earlier is missing changes
nothing.
The memory-side unit applies an MRED to a page that is not HC: the home holds the operation's result, every other byte is as
before; on a poisoned sector it changes no byte and logs an error of unit 5.
Completion said for: remoteWriteApply, mredApply.
(The model's own readings in it: log 10, 11.) -/
def Obligations.HomesApply : Prop :=
  (∀ (s : State) (die src : Nat) (p : Packet), s.isLive die = true → s.memory.nextFor die src = some p →
    (s.memory.applicable die p = false → exec (.remoteWriteApply die src) s = .next s) ∧
    (s.memory.applicable die p = true → p.old = none → s.homeOf (stackOf p.pa) = die → s.memory.wf = true →
      ∃ (t : State), exec (.remoteWriteApply die src) s = .next t ∧ { t with memory := s.memory, dies := s.dies, module := s.module } = s ∧
        (∀ j, j < p.bytes.length → t.memory.byte (p.pa + j) = p.bytes.getD j 0) ∧
        (∀ a, a < p.pa ∨ p.pa + p.bytes.length ≤ a → t.memory.byte a = s.memory.byte a)) ∧
    (s.memory.applicable die p = true → p.old.isSome = true →
      ∃ (t : State), exec (.remoteWriteApply die src) s = .next t ∧ { t with memory := s.memory, dies := s.dies, module := s.module } = s ∧
        t.memory.mem = s.memory.mem ∧
        (s.memory.dirAt (lineOf p.pa) ≠ .o die → ∀ l ∈ (t.die die).lines, l.sc = false → l.line ≠ lineOf p.pa) ∧
        t.memory.log = s.memory.log.map fun q =>
          if q.src = p.src ∧ q.seq = p.seq ∧ q.id = p.id then { q with applied := die :: q.applied } else q)) ∧
  (∀ (s : State) (k : WarpKey) (id n : Nat) (f : Flight) (u : AUnit) (pa : Nat) (page : Page),
    s.flight? k id = some f → f.acc.units[n]? = some u → f.acc.kind = .mred → u.level = .issued → u.place = .mem pa page →
    page.pp = none → page.cc ≠ 0 → s.homeOf (stackOf pa) = f.die → s.leaving f.die pa = false → s.memory.ownOnWay f.die (lineOf pa) = false →
    s.memory.wf = true →
    ∃ (s1 : State) (u' : AUnit), exec (.mredApply k id n) s = .next (s1.advanced k f n u') ∧ u'.level = .panel ∧
      (s.memory.poisoned pa u.len = false →
        s1.memory.bytes pa u.len = atomBytes f.acc.aop u.len u.data (s.memory.bytes pa u.len) ∧
        ∀ a, a < pa ∨ pa + u.len ≤ a → s1.memory.byte a = s.memory.byte a) ∧
      (s.memory.poisoned pa u.len = true → s1.memory = s.memory ∧ u'.poisoned = true ∧ s1.module.logged = s.module.logged + 1))

/-- (R297, R299 to R302, R305 to R308) What a walk finds: through table entries the leaf of a 1 GiB, 2 MiB or 64 KiB page gives the page of its fields;
an entry with V = 0 gives result 0, a non-canonical address 1, a leaf too high, a reserved code or a reserved bit of a table entry 2.
A leaf with DP = 1 and HOMED = 0 takes a page at first touch: the die's reserve, else the first of the rings that is not empty, the die's own before
the nearest stack by hops and then by number; the leaf holds the page and HOMED, of an unclaimed CP page also the core, the ring's head has
risen by one, and no other byte changes. With every ring empty the result is 3 and nothing changes.
A walk for a strand that waits ends: with a page it is in the translation caches of the die and of the core, and no strand of the die waits for
the page any more; with a fault the strands that wait get the result it failed with; a page in transition answers nothing, and the strands that
wait for it are at an instruction boundary.
Completion said for: translationWalkComplete.
(The model's own readings in it: log 60, 66.) -/
def Obligations.WalksComplete : Prop :=
  (∀ (s : State) (d core dom va root : Nat), (va / 2 ^ 56 = 0 ∨ va / 2 ^ 56 = 255) → (s.domain dom).root = some root →
    (∀ l, l ∈ [2, 3, 4] → (∀ k, k < l → s.pointer root va k) → s.plainLeaf root va l →
      let e := s.levelEntry root va l
      let at_ := s.tableAt root va l + 8 * walkIndex l va
      ((e.testBit 13 = false ∨ e.testBit 14 = true) → s.resolve d core dom va = (s, .ok (leafPage l at_ e))) ∧
      (e.testBit 13 = true → e.testBit 14 = false → s.memory.wf = true →
        (∀ pg m, s.takesPage d (4 - l) pg m → pg % 65536 = 0 → pg < 2 ^ 48 → (∀ a, at_ ≤ a → a < at_ + 8 → m.byte a = s.memory.byte a) →
          ∃ (t : State), s.resolve d core dom va = (t, .ok (leafPage l at_ (t.memory.nat at_ 8))) ∧ (leafPage l at_ (t.memory.nat at_ 8)).pa = pg ∧
            (∀ i, i < 64 → (t.memory.nat at_ 8).testBit i =
              if 16 ≤ i ∧ i < 48 then pg.testBit i else if i = 14 then true
              else if 52 ≤ i ∧ e / 2 ^ 5 % 4 = 2 ∧ e / 2 ^ 52 = 0xFFF then core.testBit (i - 52) else e.testBit i) ∧
            (∀ a, (a < at_ ∨ at_ + 8 ≤ a) → t.memory.byte a = m.byte a)) ∧
        (tableGet (4 - l) (s.die d).reserve = none → (∀ r ∈ s.rings, r.1.2 = 4 - l → s.memory.nat (r.2 + 4) 4 = s.memory.nat (r.2 + 8) 4) →
          ∃ t : State, s.resolve d core dom va = (t, .error 3) ∧ t.memory = s.memory))) ∧
    (∀ k, k ≤ 4 → (∀ j, j < k → s.pointer root va j) →
      let e := s.levelEntry root va k
      (e % 2 = 0 → s.resolve d core dom va = (s, .error 0)) ∧
      (e % 4 = 3 → (k < 2 ∨ e / 2 ^ 9 % 4 = 3 ∨ e / 2 ^ 7 % 4 = 3 ∨ e / 2 ^ 5 % 4 = 3 ∨ (e.testBit 15 = true ∧ e / 2 ^ 5 % 4 = 2)) →
        s.resolve d core dom va = (s, .error 2)) ∧
      (e % 4 = 1 → (k = 4 ∨ e / 2 ^ 48 ≠ 0 ∨ e / 4 % 64 ≠ 0) → s.resolve d core dom va = (s, .error 2)))) ∧
  (∀ (s : State) (d core dom va : Nat), va / 2 ^ 56 ≠ 0 → va / 2 ^ 56 ≠ 255 → s.resolve d core dom va = (s, .error 1)) ∧
  ∀ (s s1 : State) (die dom va page : Nat) (x : Group × StrandSt) (rest : List (Group × StrandSt)), s.isLive die = true →
    s.walkers die dom va = x :: rest →
    (∀ p, s.resolve die x.1.core dom va = (s1, .ok p) →
      (p.qz = true → exec (.translationWalkComplete die dom va page) s = .next { s with groups := s.groups.map fun g =>
        if g.die = die ∧ g.dom = dom then { g with warps := g.warps.map fun w =>
          { w with c := { w.c with midway := w.c.midway && !(w.c.awaits va p.size) }, a := { w.a with midway := w.a.midway && !(w.a.awaits va p.size) } } }
        else g }) ∧
      (p.qz = false → ∃ t : State, exec (.translationWalkComplete die dom va page) s = .next t ∧ (page = 0 → t.memory = s1.memory) ∧
        (∃ e ∈ (t.die die).tlb, e.1.1 = dom ∧ e.2 = p) ∧ (∃ e ∈ (t.core die x.1.core).tlb, e.1.1 = dom ∧ e.2 = p) ∧
        ∀ g' ∈ t.groups, g'.die = die → g'.dom = dom → ∀ w' ∈ g'.warps, w'.c.awaits va p.size = false ∧ w'.a.awaits va p.size = false)) ∧
    (∀ r, s.resolve die x.1.core dom va = (s1, .error r) →
      ∃ t : State, exec (.translationWalkComplete die dom va page) s = .next t ∧ t.memory = s1.memory ∧
        ∀ g' ∈ t.groups, g'.die = die → g'.dom = dom → ∀ w' ∈ g'.warps, w'.c.awaits va 65536 = false ∧ w'.a.awaits va 65536 = false)

/-- (R179 to R185, R188, R306) A copy instruction with an executing lane, room on its core, its descriptor (for COPYS its records) readable and its
fields valid puts one running copy with the descriptor's fields in flight; one of length 0 completes at once; without an executing lane
nothing happens; while the core holds 32 it waits. What the checks of the descriptor find wrong raises the lowest cause. The registers stay.
Completion said for: copy, copyg, copys.
(The model's own readings in it: log 25, 66, 82.) -/
def Obligations.CopiesStart : Prop :=
  (∀ (s : State) (c : Ctx) (h : Hdr) (m : FormM), s.ctx? = some c →
    (c.firstLane? h = none →
      exec (.copy h m) s = .next (c.finish h nextPc s c.warp) ∧ exec (.copyg h m) s = .next (c.finish h nextPc s c.warp) ∧
      exec (.copys h m) s = .next (c.finish h nextPc s c.warp)) ∧
    ((c.firstLane? h).isSome = true → 32 ≤ s.copiesOn c.grp.die c.grp.core →
      exec (.copy h m) s = .next (c.waits s) ∧ exec (.copyg h m) s = .next (c.waits s) ∧ exec (.copys h m) s = .next (c.waits s))) ∧
  (∀ (s s2 s3 : State) (c : Ctx) (h : Hdr) (m : FormM) (l : Nat) (d : List Byte) (g : Bool), s.ctx? = some c → c.firstLane? h = some l →
    s.copiesOn c.grp.die c.grp.core < 32 →
    let ea := c.eaOf m 8 false l
    let k := s.checkRecord c l 64 ea
    let s1 := k.pages.foldl (fun s x => s.reach c.grp.die c.grp.core c.grp.dom false x) s
    k.miss = [] → k.bad = [] → k.wait = false → c.readEights 8 ea.toNat s1 = some (s2, d) →
    let p := if g then s2.planGather c l d else s2.planPlain c l d
    (∀ b, worstBad p.bad = some b →
      ∃ r : Raised, exec (if g then .copyg h m else .copy h m) s = .next (c.raise s2 r) ∧ r.code = b.code ∧ r.aux = b.aux ∧ r.lane = l ∧ r.done = false) ∧
    (p.bad = [] → (if ctlBit d 2 && p.total != 0 then s2.taskAdd c.grp.key false else some s2) = some s3 →
      ∃ (t : State) (q : Copy), exec (if g then .copyg h m else .copy h m) s = .next (c.finish h nextPc t c.warp) ∧ q.startsAs s3 c l ea.toNat d p ∧
        t.copies = (if p.total = 0 then s3.copies else s3.copies ++ [q]) ∧ t.memory = s3.memory)) ∧
  (∀ (s s2 s4 s5 s6 : State) (c : Ctx) (h : Hdr) (m : FormM) (l : Nat) (d ra rb : List Byte), s.ctx? = some c → c.firstLane? h = some l →
    s.copiesOn c.grp.die c.grp.core < 32 →
    let ea := c.eaOf m 8 false l
    let k := s.checkRecord c l 64 ea
    let s1 := k.pages.foldl (fun s x => s.reach c.grp.die c.grp.core c.grp.dom false x) s
    k.miss = [] → k.bad = [] → k.wait = false → c.readEights 8 ea.toNat s1 = some (s2, d) →
    let k2 := (s2.checkRecord c l 32 (BitVec.ofNat 64 (leAt d 0x18 8))).add (s2.checkRecord c l 32 (BitVec.ofNat 64 (leAt d 0x20 8)))
    let s3 := k2.pages.foldl (fun s x => s.reach c.grp.die c.grp.core c.grp.dom false x) s2
    k2.miss = [] → k2.bad = [] → k2.wait = false → c.readEights 4 (BitVec.ofNat 64 (leAt d 0x18 8)).toNat s3 = some (s4, ra) →
    c.readEights 4 (BitVec.ofNat 64 (leAt d 0x20 8)).toNat s4 = some (s5, rb) →
    let p := s5.planTile c l d (layoutOf ra) (layoutOf rb)
    (∀ b, worstBad p.bad = some b →
      ∃ r : Raised, exec (.copys h m) s = .next (c.raise s5 r) ∧ r.code = b.code ∧ r.aux = b.aux ∧ r.lane = l ∧ r.done = false) ∧
    (p.bad = [] → (if ctlBit d 2 && p.total != 0 then s5.taskAdd c.grp.key false else some s5) = some s6 →
      ∃ (t : State) (q : Copy), exec (.copys h m) s = .next (c.finish h nextPc t c.warp) ∧ q.startsAs s6 c l ea.toNat d p ∧
        t.copies = (if p.total = 0 then s6.copies else s6.copies ++ [q]) ∧ t.memory = s6.memory))

/-- (R182, R183, R185 to R190) A chunk of a running copy whose rows' index entries can be read takes the bytes that can be moved, and its state
follows them. Stream byte i of a COPY goes from the source's byte i to the destination's; of a COPYG between the contiguous row i / row and the
row that its index entry names, zero bytes gathered and nothing scattered for one at or above the limit; of a COPYS between the places of its
row, column and byte in the two layouts, with zeros, the nearest or the mirrored element where the source has none. Where no destination byte is
a source byte or another's destination, scratch then holds what the sources held and else what it did; a byte of an HC page reads as the die sees
it, and a byte copied to one is what the die sees there.
A copy whose chunks are all written and performed completes and leaves the core; a copy whose cursor's chunk meets a fault suspends with a fault
record of kind 1 and keeps the index entries it has read.
CPSTAT gives every executing lane one value of its stage as a long result: the count, the count once it has reached x, the count with the
stage set to zero, the status word, or the group's number of copies. An aborted stage with poison traps .ge with 0x08.
Completion said for: copyChunkComplete, copyComplete, copySuspend, cpstat.
(The model's own readings in it: log 25, 86.) -/
def Obligations.CopiesProgress : Prop :=
  (∀ (s : State) (id : Nat) (k : Copy), s.copy? id = some k → k.run = .running →
    (∀ chunk n us q s1, s.relDone k = true → s.isLive k.die = true → k.cursor ≤ chunk → chunk < k.chunks → 0 < n →
      k.written chunk + n ≤ k.chunkLen chunk →
      let lo := k.chunkAt chunk
      let r := s.reachRows k (lo + k.chunkLen chunk)
      let s0 := r.1.modCopy id fun _ => r.2.1
      r.2.2 = none → s0.poisonIn r.2.1 lo (k.chunkLen chunk) = none →
      State.moveBytes (lo, lo + k.chunkLen chunk) n (lo + k.written chunk) s0 r.2.1 = .ok (us, q) s1 →
      ∃ t : State, exec (.copyChunkComplete id chunk n) s = .next t ∧ t.memory = s1.memory ∧ t.copies.map (·.id) = s1.copies.map (·.id) ∧
        ∀ k1, s1.copy? id = some k1 → ∃ k2, t.copy? id = some k2 ∧ k2.kind = k.kind ∧ k2.run = .running ∧ k.cursor ≤ k2.cursor ∧
          k2.index = r.2.1.index ∧
          (k.written k.cursor < k.chunkLen k.cursor → k.written chunk + n < k.chunkLen chunk → k2.cursor = k.cursor ∧ k2.written chunk = k.written chunk + n)) ∧
    (∀ chunk n gd grp, s.relDone k = true → s.isLive k.die = true → k.cursor ≤ chunk → chunk < k.chunks → 0 < n →
      k.written chunk + n ≤ k.chunkLen chunk → k.apart → s.group? gd = some grp →
      let lo := k.chunkAt chunk
      let hi := lo + k.chunkLen chunk
      let first := lo + k.written chunk
      k.rowsBelow hi ≤ k.index.length → grp.rowsOut = false → cellsWf grp.scratch = true →
      (∀ i, lo ≤ i → i < hi → ∃ b, k.byte i = some b ∧ (∃ v, s.scratchSource b v) ∧ (b.dst = none ∨ ∃ off, b.dst = some (.scratch gd off)) ∧
        ∀ j c, lo ≤ j → j < hi → k.byte j = some c → (b.src = none ∨ b.src ≠ c.dst) ∧ (j = i ∨ b.dst = none ∨ b.dst ≠ c.dst)) →
      ∃ t : State, exec (.copyChunkComplete id chunk n) s = .next t ∧ t.memory = s.memory ∧
        (∀ i b v off, first ≤ i → i < first + n → k.byte i = some b → b.dst = some (.scratch gd off) → s.scratchSource b v →
          t.scratchRead gd off 1 = [v]) ∧
        ∀ off, (∀ i b, first ≤ i → i < first + n → k.byte i = some b → b.dst ≠ some (.scratch gd off)) →
          t.scratchRead gd off 1 = s.scratchRead gd off 1) ∧
    (∀ chunk va p, s.relDone k = true → s.isLive k.die = true → k.cursor ≤ chunk → chunk < k.chunks → k.written chunk < k.chunkLen chunk → k.apart →
      let lo := k.chunkAt chunk
      let i := lo + k.written chunk
      let pa := p.at_ va
      k.rowsBelow (lo + k.chunkLen chunk) ≤ k.index.length → s.poisonIn k lo (k.chunkLen chunk) = none → s.memory.wf = true →
      s.resolve k.die k.core k.dom va = (s, .ok p) → p.qz = false → p.pp = none → p.cc = 0 →
      (∀ e ∈ s.earlies k.die, ∀ q g, e.unit.place = .mem q g → overlaps q e.unit.len pa 1 = false) →
      (∀ gd off grp, k.byte i = some ⟨some (.scratch gd off), some (.mem va)⟩ → p.r = true → s.leaving k.die pa = false →
        (pa + 1 ≤ p.leafAt ∨ p.leafAt + 8 ≤ pa) → s.memory.poisoned pa 1 = false → s.group? gd = some grp → grp.rowsOut = false →
        cellsWf grp.scratch = true → (∀ j b, lo ≤ j → j < i → k.byte j = some b → b.dst ≠ some (.scratch gd off)) →
        ∃ t : State, exec (.copyChunkComplete id chunk 1) s = .next t ∧ t.scratchRead gd off 1 = [s.memory.view k.die pa] ∧
          ∀ o, o ≠ off → t.scratchRead gd o 1 = s.scratchRead gd o 1) ∧
      (∀ b v, k.byte i = some b → b.dst = some (.mem va) → s.scratchSource b v → p.w = true → p.fx = false → s.inCode k.dom va 1 = false →
        s.inWorkspace k.dom va = false → (s.homeOf (stackOf pa) = k.die → s.memory.ownOnWay k.die (lineOf pa) = false) →
        (∀ j c, lo ≤ j → j < i → k.byte j = some c → c.dst ≠ some (.mem va)) →
        ∃ t : State, exec (.copyChunkComplete id chunk 1) s = .next t ∧ t.memory.view k.die pa = v ∧ t.groups.map (·.scratch) = s.groups.map (·.scratch))) ∧
    (k.chunks ≤ k.cursor → s.copyPerformed k = true →
      ∃ (t : State), exec (.copyComplete id) s = .next t ∧ t.copies = s.copies.filter (·.id != id) ∧
        (k.succ = false → { t with copies := s.copies } = s)) ∧
    (∀ s0 k1 f, s.relDone k = true → k.cursor < k.chunks → s.copyFault k = (s0, k1, some f) → s0.faultFree k.dom (s0.nextFault k.dom) = true →
      ∃ (t : State) (r : FaultRec), exec (.copySuspend id) s = .next t ∧ { k1 with index := k.index } = k ∧ k.index <+: k1.index ∧
        t.copies = updFirst (·.id == id) (fun _ => { k1 with run := .suspended (some (s0.nextFault k.dom)) (f.code == 0x08), done := [] }) s.copies ∧
        r ∈ t.faultRecs ∧ r.dom = k.dom ∧ r.idx = s0.nextFault k.dom ∧ r.kind = 1 ∧ r.state = 1 ∧ r.code = f.code ∧ r.copy = some id)) ∧
  (∀ k : Copy,
    let place (g : Option GroupKey) (a : Nat) : CLoc := match g with
      | some q => .scratch q a
      | none => .mem (a % 2 ^ 64)
    (∀ src dst len i, k.kind = .plain src dst len → k.byte i = some ⟨some (place k.dstS (dst + i)), some (place k.srcS (src + i))⟩) ∧
    (∀ src dst list count row ss ds limit i x, k.index[i / row]? = some x →
      (k.kind = .gather false src dst list count row ss ds limit → k.byte i = some
        ⟨some (place k.dstS (dst + i / row * ds + i % row)), if x < limit then some (place k.srcS (src + x * ss + i % row)) else none⟩) ∧
      (k.kind = .gather true src dst list count row ss ds limit → k.byte i = some (if x < limit then
        ⟨some (place k.dstS (dst + x * ds + i % row)), some (place k.srcS (src + i / row * ss + i % row))⟩ else ⟨none, none⟩))) ∧
    (∀ (a b : Nat × Nat × Nat × Nat) (es : Nat) (scol srow dcol drow : Int) (tw th edge i : Nat),
      k.kind = .tile a b es scol srow dcol drow tw th edge → edge ≤ 2 → 0 < a.2.1 → 0 < a.2.2.1 →
      let r := i / (tw * es)
      let j := i % (tw * es) / es
      ∃ q, k.byte i = some ⟨some (place k.dstS (b.1 + (drow.toNat + r) * b.2.2.2 * 4 + (dcol.toNat + j) * es + i % es)), q⟩ ∧
        (∀ x y, takesElem edge (srow + r) a.2.2.1 x → takesElem edge (scol + j) a.2.1 y →
          q = some (place k.srcS (a.1 + x * a.2.2.2 * 4 + y * es + i % es))) ∧
        (edge = 0 → (srow + r < 0 ∨ (a.2.2.1 : Int) ≤ srow + r ∨ scol + j < 0 ∨ (a.2.1 : Int) ≤ scol + j) → q = none))) ∧
  (∀ (s : State) (c : Ctx) (h : Hdr) (m : FormM) (l : Nat), s.ctx? = some c → c.firstLane? h = some l →
    let i := m.imm.toNat % 8
    let t := c.grp.stages.getD i Stage.zero
    let mine := s.copies.filter fun k => k.g == c.grp.key
    let gives (s' : State) (v : Word) : Prop := ∃ (w : Warp), exec (.cpstat h m) s = .next (c.finish h nextPc s'.bumpId w) ∧
      (∀ j : Nat, w.lanes[j]? = (c.warp.lanes[j]?).map fun q => if (c.exec h).getLsbD j then { q with x := q.x.set! m.xd.toNat v } else q) ∧
      w.longs = c.warp.longs ++ [⟨s.nextId, .a, c.slices.headD 0, [], none, c.pc⟩] ∧
      { w with lanes := c.warp.lanes, longs := c.warp.longs, busy := c.warp.busy } = c.warp
    (m.imm.toNat / 8 = 0 → gives s t.count) ∧
    (m.imm.toNat / 8 = 1 → t.abortBit = false → (c.x l m.xd.toNat).toNat ≤ t.count.toNat → gives s t.count) ∧
    (m.imm.toNat / 8 = 1 → t.abortBit = false → t.count.toNat < (c.x l m.xd.toNat).toNat → exec (.cpstat h m) s = .next s) ∧
    (m.imm.toNat / 8 = 1 → t.abortBit = true → t.poisonAbort = true → exec (.cpstat h m) s = .next (c.raise s (c.cause 0x08 0))) ∧
    (m.imm.toNat / 8 = 2 → gives (s.modGroup c.grp.key (·.setStage i fun _ => Stage.zero)) t.count) ∧
    (m.imm.toNat / 8 = 3 → gives s (stageStatus t (mine.filter (·.stage == some i)))) ∧
    (m.imm.toNat / 8 = 4 → gives s (BitVec.ofNat 32 mine.length)))

/-- (R191, R309 to R312) PUBLISH without an executing lane does nothing; on a page that is no publish pair it raises 0x11; while a copy of the group
still fills the buffer it waits, with its checks over; else it puts a flip in flight and holds the strand. Each stage of the flip completes: the
request is taken up, a live die closes the buffer, all closed the flip goes out, each live die inverts its V, and with all taken the strand goes on.
Completion said for: publish, publishFlipRequest, flipClose, flipAndComplete, flipTake, flipDone.
(The model's own readings in it: log 6, 87.) -/
def Obligations.PublishFlips : Prop :=
  (∀ (s : State) (c : Ctx) (h : Hdr) (m : FormM), s.ctx? = some c → c.firstLane? h = none →
    exec (.publish h m) s = .next (c.finish h nextPc s c.warp)) ∧
  (∀ (s : State) (c : Ctx) (h : Hdr) (m : FormM) (l : Nat) (p : Page), s.ctx? = some c → c.firstLane? h = some l →
    s.look c (vaOf (c.eaOf m 1 false l) 0) = .page p →
    (p.pp = none → ∃ r : Raised, exec (.publish h m) s = .next (c.raise s r) ∧ r.code = 0x11 ∧ r.lane = l ∧ r.done = false) ∧
    (∀ e, p.pp = some e → s.copyInto c.grp e = true → exec (.publish h m) s = .next (c.waits s)) ∧
    (∀ e, p.pp = some e → s.copyInto c.grp e = false →
      exec (.publish h m) s = .next (c.finish h nextPc
        { s with nextId := s.nextId + 1, flips := s.flips ++ [⟨s.nextId, e, c.iss.w, c.iss.gang, 0, [], [], s.now⟩] }
        (c.warp.modStrand c.iss.strand fun t => { t with publish := some s.nextId })))) ∧
  (∀ (s : State) (id : Nat) (f : Flip), s.flip? id = some f →
    (f.stage = 0 → (∀ q ∈ s.flips, q.entry = f.entry → q.id ≠ f.id → q.stage = 0) →
      exec (.publishFlipRequest id) s = .next (s.modFlip id fun f => { f with stage := 1, started := s.now })) ∧
    (∀ die, f.stage = 1 → s.isLive die = true → die ∉ f.closed →
      ∃ (t : State), exec (.flipClose id die) s = .next t ∧ f.entry ∈ (t.die die).closed ∧
        (s.begun die f.entry = false → ∃ f', t.flip? id = some f' ∧ f'.closed = die :: f.closed) ∧
        (s.begun die f.entry = true → t.flips = s.flips)) ∧
    (f.stage = 1 → (∀ d ∈ s.liveDies, d ∈ f.closed) → ∃ (t : State) (f' : Flip), exec (.flipAndComplete id) s = .next t ∧ t.flip? id = some f' ∧ f'.stage = 2) ∧
    (∀ die, f.stage = 2 → s.isLive die = true → die ∉ f.taken →
      ∃ (t : State) (f' : Flip), exec (.flipTake id die) s = .next t ∧ t.flip? id = some f' ∧ f'.taken = die :: f.taken ∧ f.entry ∉ (t.die die).closed ∧
        (tableGet f.entry (t.die die).flips).getD false = !((tableGet f.entry (s.die die).flips).getD false)) ∧
    (∀ w, f.stage = 2 → (∀ d ∈ s.liveDies, d ∈ f.taken) → s.warp? f.w = some w → w.a.publish = some id → w.key = f.w →
      ∃ (t : State) (w' : Warp), exec (.flipDone id) s = .next t ∧ t.flips = s.flips.filter (·.id != id) ∧ t.warp? f.w = some w' ∧ w'.a.publish = none ∧
        w'.lanes = w.lanes))

/-- (R86, R193, R195 to R213, R217) A matrix instruction issued by every live slice, with no machine check of its warp or latch and nothing its rules
forbid, completes: its operation with the operands captured now joins the warp's queue, or nothing when no octet acts; LQ pops; registers,
scratch and memory stay. What its rules forbid raises the lowest cause. With 64 operations queued it waits; from a part of
the warp it raises 0x20 with its opcode; after a machine check 0x01 with the unit, of the warp before those of the latch it names; where the
group's rows hold no tile, 0x21 or a lower cause of its own.
MFENCE closes the warp's open operations into its slot when that slot is empty, and MWAIT completes when its slot, or with CTL 1 every
operation of the warp, is done; else they wait.
Completion said for: mga, mla, mlb, mma, mmax, mz, mdr, mdra, msca, mcfg, mfence, mwait.
(The model's own readings in it: log 22, 72, 89, 90.) -/
def Obligations.MatrixIssues : Prop :=
  (∀ (s : State) (c : Ctx) (i : Instr) (o : MatReq), s.ctx? = some c → matReq c i = some o → c.lqGate (lqNeed o.codes) = .go →
    (c.parted = true → exec i s = .next (c.raise s (c.cause 0x20 o.op))) ∧
    (∀ u, c.parted = false → c.warp.machineCheck = some u →
      ∃ r : Raised, exec i s = .next (c.raise s r) ∧ r.code = 0x01 ∧ r.aux = u ∧ r.check = some .warp ∧ r.done = false) ∧
    (∀ b u, c.parted = false → c.warp.machineCheck = none → o.b = some b → c.warp.latchCheck.find? (·.1 == b) = some (b, u) →
      ∃ r : Raised, exec i s = .next (c.raise s r) ∧ r.code = 0x01 ∧ r.aux = u ∧ r.check = some (.latch b) ∧ r.done = false) ∧
    (c.parted = false → c.machine o.b = none → c.grp.tiles = none →
      ∃ r : Raised, exec i s = .next (c.raise s r) ∧ r.done = false ∧ r.code ≤ 0x21 ∧ (r.code = 0x21 ∨ ∃ b ∈ o.bad, r.code = b.code) ∧
        ∀ b ∈ o.bad, r.code ≤ b.code) ∧
    (∀ b, c.parted = false → c.machine o.b = none → c.grp.tiles.isSome = true → worstBad o.bad = some b →
      ∃ r : Raised, exec i s = .next (c.raise s r) ∧ r.code = b.code ∧ r.aux = b.aux ∧ r.lane = b.lane ∧ r.done = false) ∧
    (c.parted = false → c.machine o.b = none → c.grp.tiles.isSome = true → o.bad = [] →
      (∀ k, o.kind = some k → 64 ≤ (s.matOps.filter (·.w == c.iss.w)).length → exec i s = .next s) ∧
      (o.kind = none ∨ (s.matOps.filter (·.w == c.iss.w)).length < 64 →
        ∃ (t : State) (w : Warp), exec i s = .next (c.finish o.h nextPc t w) ∧ t.memory = s.memory ∧
          t.matOps = s.matOps ++ (match o.kind with
            | some k => [⟨s.nextId, c.iss.w, k, none, c.grp.dom, k.reads.map fun r => (r.1, [s.scratchSee c.grp.key r.1 r.2])⟩]
            | none => []) ∧
          t.groups.map (·.scratch) = s.groups.map (·.scratch) ∧
          (∀ l : Nat, w.lanes[l]? = (c.warp.lanes[l]?).map fun k => if c.gangMask.getLsbD l then { k with lq := k.lq.drop (lqPops o.codes) } else k) ∧
          { w with lanes := c.warp.lanes, octets := c.warp.octets } = c.warp))) ∧
  (∀ (s : State) (c : Ctx) (h : Hdr) (x : FormX), s.ctx? = some c →
    (c.parted = true → exec (.mfence h x) s = .next (c.raise s (c.cause 0x20 0x189)) ∧ exec (.mwait h x) s = .next (c.raise s (c.cause 0x20 0x18A))) ∧
    (c.parted = false → c.machine none = none → c.grp.tiles = none →
      exec (.mfence h x) s = .next (c.raise s (c.cause 0x21 0)) ∧ exec (.mwait h x) s = .next (c.raise s (c.cause 0x21 0)))) ∧
  (∀ (s : State) (c : Ctx) (h : Hdr) (x : FormX), s.ctx? = some c → c.parted = false → c.machine none = none → c.grp.tiles.isSome = true →
    ((∀ m ∈ s.matOps, m.w = c.iss.w → m.slot ≠ some x.imm8.toNat) →
      exec (.mfence h x) s = .next (c.finish h nextPc
        { s with matOps := s.matOps.map fun m => if m.w = c.iss.w ∧ m.slot = none then { m with slot := some x.imm8.toNat } else m } c.warp)) ∧
    ((∃ m ∈ s.matOps, m.w = c.iss.w ∧ m.slot = some x.imm8.toNat) → exec (.mfence h x) s = .next s) ∧
    ((∀ m ∈ s.matOps, m.w = c.iss.w → x.ctl.getLsbD 0 = false ∧ m.slot ≠ some x.imm8.toNat) →
      exec (.mwait h x) s = .next (c.finish h nextPc s c.warp)) ∧
    ((∃ m ∈ s.matOps, m.w = c.iss.w ∧ (x.ctl.getLsbD 0 = true ∨ m.slot = some x.imm8.toNat)) → exec (.mwait h x) s = .next s))

/-- (R72 to R78, R193, R196, R199 to R205, R208 to R212, R214, R215, R217) The oldest queued operation of a warp is performed and leaves the queue; a
younger one waits. No operation writes device memory or a register; status bits of the warp's matrix status only rise. With no error in the rows
it reads, it leaves: in a latch row of MGA, MLA and MLB what scratch held at issue, or after a write of it since, and zeros without an address;
in the words of the executing rows below column N the sums of MMA and MMAX, the scaled ones of MSCA, zeros of MZ; in scratch and in the A latch
the converted words of MDR and MDRA; and MCFG sets the XVs named. Other rows, columns, tiles and octets keep what they hold. A word of MMA from
a row with an error is the canonical NaN, or 0 of integers, and the warp has a machine check; a B latch's is every warp's.
Completion said for: matrixOpComplete.
(The model's own readings in it: log 22.) -/
def Obligations.MatrixPerforms : Prop :=
  (∀ (s : State) (m : MatOp) (g : Group) (w : Warp), s.matOps.find? (·.id == m.id) = some m → s.group? m.w.group = some g → g.warp? m.w = some w →
    (∀ q, s.matOps.find? (·.w == m.w) = some q → q.id ≠ m.id → exec (.matrixOpComplete m.id) s = .next s) ∧
    (s.matOps.find? (·.w == m.w) = some m → ∃ (t : State) (w' : Warp), exec (.matrixOpComplete m.id) s = .next t ∧
      t.matOps.map (fun q => { q with rows := [] }) = (s.matOps.filter (·.id != m.id)).map (fun q => { q with rows := [] }) ∧
      t.memory = s.memory ∧ t.warp? m.w = some w' ∧ w'.lanes = w.lanes ∧ w'.y = w.y ∧ w'.m = w.m ∧
      w'.mstatus &&& w.mstatus = w.mstatus ∧
      (∀ a b, m.kind = .mcfg a b → w'.xva = a.getD w.xva ∧ w'.xvb = b.getD w.xvb ∧ w'.octets = w.octets))) ∧
  (∀ (s : State) (m : MatOp) (g : Group) (w : Warp) (t : State), s.matOps.find? (·.id == m.id) = some m → s.group? m.w.group = some g →
    g.warp? m.w = some w → s.matOps.find? (·.w == m.w) = some m → exec (.matrixOpComplete m.id) s = .next t →
    ∃ (g' : Group) (w' : Warp), t.group? m.w.group = some g' ∧ g'.warp? m.w = some w' ∧
      let word (w : Warp) (o : Nat) (tile : Option Nat) (r c : Nat) : Word := (w.octet o).word tile r c
      let kept (wrote : Nat → Option Nat → Nat → Nat → Prop) : Prop := ∀ o tile r c, c < 32 → ¬ wrote o tile r c → word w' o tile r c = word w o tile r c
      (∀ ty octs, m.kind = .loadA ty octs → (octs.map (·.1)).Nodup → w.cfgBad = none → kept (fun _ _ _ _ => False) ∧ ∀ o rows, (o, rows) ∈ octs →
        (∀ r, r < rows.length → s.loadedRow m g.key (4 * codeBits ty) (rows.getD r none) ((w'.octet o).latch.rows.getD r [])) ∧
        (w'.octet o).latch.xv = if ty = 8 then w.xva else (w.octet o).latch.xv) ∧
      (∀ b ty rows, m.kind = .loadB b ty rows → w.cfgBad = none →
        (∀ c, c < rows.length → s.loadedRow m g.key (4 * codeBits ty) rows[c]? ((g'.bLatch b).rows.getD c [])) ∧
        (∀ c, rows.length ≤ c → (g'.bLatch b).rows.getD c [] = (g.bLatch b).rows.getD c []) ∧
        (g'.bLatch b).xv = (if ty = 8 then w.xvb else (g.bLatch b).xv) ∧ g'.bLatch (!b) = g.bLatch (!b) ∧ w'.octets = w.octets) ∧
      (∀ acc n ta tb b part zero int octs, m.kind = .mma acc n ta tb b part zero int octs → (octs.map (·.1)).Nodup → n ≤ 32 →
        (if int then ta ∈ [9, 10] ∧ tb ∈ [9, 10] else ta ∈ [6, 7, 8, 9, 10, 13] ∧ tb ∈ [6, 7, 8, 9, 10, 13]) →
        let tile := if part then none else some acc
        kept (fun o q r c => ∃ rs, (o, rs) ∈ octs ∧ q = tile ∧ rs.getLsbD r = true ∧ c < n) ∧
        ∀ o rs r c, (o, rs) ∈ octs → r < 8 → rs.getLsbD r = true → c < n →
          let la := (w.octet o).latch
          let lb := g.bLatch b
          (w.soundRows g b → mmaIs ta tb la.xv.toNat lb.xv.toNat part zero int (word w o tile r c) (la.codes ta r) (lb.codes tb c) (word w' o tile r c)) ∧
          ((∃ q ∈ la.bad, overlaps (148 * q.1) 148 (128 * r) (4 * codeBits ta) = true) ∨
              (part = false ∧ zero = false ∧ ∃ q ∈ (w.octet o).bad, q.1 = tileRow tile r c) →
            word w' o tile r c = (if int then 0 else 0x7FC00000) ∧ w'.machineCheck.isSome = true) ∧
          ((∃ q ∈ lb.bad, overlaps (148 * q.1) 148 (128 * c) (4 * codeBits tb) = true) →
            word w' o tile r c = (if int then 0 else 0x7FC00000) ∧ ∀ v ∈ g'.warps, ∃ q ∈ v.latchCheck, q.1 = b)) ∧
      (∀ acc n b x3 zero int octs, m.kind = .mmax acc n b x3 zero int octs → (octs.map (·.1)).Nodup → n ≤ 32 → w.soundRows g b →
        kept (fun o q r c => ∃ rs, (o, rs) ∈ octs ∧ q = some acc ∧ rs.getLsbD r = true ∧ c < n) ∧
        ∀ o rs r c, (o, rs) ∈ octs → r < 8 → rs.getLsbD r = true → c < n →
          mmaxIs x3 int (if zero then 0 else word w o (some acc) r c) ((w.octet o).latch.codes 4 r) ((g.bLatch b).codes 4 c) (word w' o (some acc) r c)) ∧
      (∀ acc n octs, m.kind = .msca acc n octs → (octs.map (·.1)).Nodup → n ≤ 32 → (∀ o, (w.octet o).bad = []) →
        kept (fun o q r c => ∃ e ∈ octs, e.1 = o ∧ q = some acc ∧ e.2.1.getLsbD r = true ∧ c < n) ∧
        ∀ e ∈ octs, ∀ r c : Nat, r < 8 → e.2.1.getLsbD r = true → c < n →
          mscaIs (word w e.1 (some acc) r c) (word w e.1 none r c) (e.2.2.1.getD r 0 % 256) (e.2.2.2.getD (c / 4) 0 / 2 ^ (8 * (c % 4)) % 256)
            (word w' e.1 (some acc) r c)) ∧
      (∀ acc part all octs, m.kind = .mz acc part all octs →
        kept (fun o _ r c => ∃ rs, (o, rs) ∈ octs ∧ rs.getLsbD r = true ∧ c < 32) ∧
        ∀ o rs r c, (o, rs) ∈ octs → r < 8 → rs.getLsbD r = true → c < 32 →
          (part = true → word w' o none r c = 0) ∧ (part = false → word w' o none r c = word w o none r c) ∧
          (all = false → word w' o (some acc) r c = 0 ∧ ∀ k, k ≠ acc → word w' o (some k) r c = word w o (some k) r c) ∧
          (all = true → ∀ k, k < g.tiles.getD 0 → word w' o (some k) r c = 0)) ∧
      (∀ acc n ty ctl octs, m.kind = .mdr acc n ty ctl octs → ty ∈ [0, 4, 6, 7, 8, 9, 10, 13] → n ≤ 32 → n % 8 = 0 → (∀ o, (w.octet o).bad = []) → cellsWf g.scratch = true →
        let len := n * codeBits ty / 8
        let row (o r off : Nat) : Prop := ∃ rows, (o, rows) ∈ octs ∧ r < 8 ∧ rows.getD r none = some off
        w'.octets = w.octets ∧
        (∀ a, (∀ o r off, row o r off → a < off ∨ off + len ≤ a) → t.scratchRead g.key a 1 = s.scratchRead g.key a 1) ∧
        ∀ o r off c, row o r off → (octs.map (·.1)).Nodup → (∀ o' r' off', row o' r' off' → (o', r') = (o, r) ∨ overlaps off' len off len = false) → c < n →
          drainedIs ty ctl (word w o (some acc) r c) (leNat (t.scratchRead g.key off len) / 2 ^ (codeBits ty * c) % 2 ^ codeBits ty)) ∧
      (∀ acc n ty ctl octs, m.kind = .mdra acc n ty ctl octs → ty ∈ [0, 4, 6, 7, 8, 9, 10, 13] → (octs.map (·.1)).Nodup → n ≤ 32 → n % 8 = 0 → (∀ o, (w.octet o).bad = []) →
        w.cfgBad = none → kept (fun _ _ _ _ => False) ∧ ∀ o rs r c, (o, rs) ∈ octs → r < 8 → c < 32 →
          ((w'.octet o).latch.xv = if ty = 8 then w.xva else (w.octet o).latch.xv) ∧
          (rs.getLsbD r = true ∧ c < n → drainedIs ty ctl (word w o (some acc) r c) ((w'.octet o).latch.code ty r c)) ∧
          (rs.getLsbD r = false ∨ n ≤ c → (w'.octet o).latch.code ty r c = 0)))

/-- (R30, R31, R145) CALL and CALLX complete while no slice has eight levels: each slice opens one, its four queues go to the call stack region
and the callee sees k ages over zeros; an A-strand call touches no queue and no memory. With eight levels they raise 0x23 with AUX 0, and a
nonzero count in the A-strand raises 0x21.
Completion said for: call, callx.
(The model's own readings in it: log 36, 37, 64.) -/
def Obligations.CallsComplete : Prop :=
  ∀ (s : State) (c : Ctx) (h : Hdr) (b : FormB), s.ctx? = some c →
    let pops := if c.iss.strand = .c then lqPops [b.src] else 0
    let t := if c.iss.strand = .c then c.slices.foldl (fun s i => s.vStore (c.grp.die, c.grp.core) c.grp.dom (c.levelAddr i)
        (leBytes 8 ((c.st.slice i).pc.toNat + 1) ++ leBytes 4 (c.st.slice i).stack.length ++ [0, 0, 0, 0] ++
          [0, 1, 2, 3].flatMap fun j => bytesOfWords (c.queue (4 * i + j)).toList)) s else s
    ((c.iss.strand = .c ∨ b.k = 0) → (∀ i ∈ c.slices, (c.st.slice i).calls.length < 8) →
      (∃ w : Warp, exec (.call h b) s = .next (c.finish h (fun i sl => c.callAfter i (fromNext sl.pc b.off) sl) t w) ∧
        (∀ l : Nat, w.lanes[l]? = (c.warp.lanes[l]?).map (c.calleeLane b.k 0 l)) ∧
        { w with lanes := c.warp.lanes, busy := c.warp.busy } = c.warp) ∧
      (c.lqGate (lqNeed (if c.iss.strand = .c then [b.src] else [])) = .go →
        ∃ w : Warp, exec (.callx h b) s = .next (c.finish h (fun i sl => c.callAfter i (c.indexOf b.src i) sl) t w) ∧
          (∀ l : Nat, w.lanes[l]? = (c.warp.lanes[l]?).map (c.calleeLane b.k pops l)) ∧
          { w with lanes := c.warp.lanes, busy := c.warp.busy } = c.warp)) ∧
    ((c.iss.strand = .c ∨ b.k = 0) → ∀ i, c.slices = [i] → 8 ≤ (c.st.slice i).calls.length →
      ∃ r : Raised, exec (.call h b) s = .next (c.raise s r) ∧ r.code = 0x23 ∧ r.aux = 0 ∧ r.slice = i ∧ r.done = false) ∧
    (c.iss.strand = .a → b.k ≠ 0 → exec (.call h b) s = .next (c.raise s (c.cause 0x21 0)) ∧
      exec (.callx h b) s = .next (c.raise s (c.cause 0x21 0)) ∧ exec (.ret h b) s = .next (c.raise s (c.cause 0x21 0)))

/-- (R32, R145 to R147, R248) REGANG completes: its slices wait there. RET and EXIT outside a handler complete: lanes return, or leave the strand, and no
register and no memory changes; where the other strand has stopped at PHASE and theirs would exit, they raise 0x21. When the last
active lanes of a level return, the slice goes on at its return PC with the lanes that returned, its depth one less; in the C-strand each of
those has its saved queue back under the callee's j youngest entries, any other its saved queue.
Completion said for: regang, exit, ret.
(The model's own reading in it: log 63.) -/
def Obligations.ExitsComplete : Prop :=
  (∀ (s : State) (c : Ctx) (h : Hdr) (b : FormB), s.ctx? = some c →
    exec (.regang h b) s = .next (c.finish h (fun _ sl => { sl with hold := .regang }) s c.warp)) ∧
  (∀ (s : State) (c : Ctx) (h : Hdr) (b : FormB), s.ctx? = some c → c.warp.handler = false →
    ((c.warp.strand (other c.iss.strand)).phaseId = none →
      exec (.exit h b) s = .next (c.finish h (fun _ sl => { sl with live := sl.live &&& ~~~sl.active, active := 0 }) s c.warp) ∧
      ((c.iss.strand = .c ∨ b.k = 0) → exec (.ret h b) s = .next (c.finish h (fun _ sl => retAfter b.k sl) s c.warp))) ∧
    ((c.warp.strand (other c.iss.strand)).phaseId.isSome = true →
      ((∀ i, (c.st.slice i).live &&& (if i ∈ c.slices then ~~~(c.st.slice i).active else 15) = 0) →
        exec (.exit h b) s = .next (c.raise s (c.cause 0x21 0))) ∧
      (∀ i < c.st.slices.length, (c.st.slice i).live &&& (if i ∈ c.slices then ~~~(c.st.slice i).active else 15) ≠ 0 →
        exec (.exit h b) s = .next (c.finish h (fun _ sl => { sl with live := sl.live &&& ~~~sl.active, active := 0 }) s c.warp)) ∧
      (∀ i < c.st.slices.length, (c.st.slice i).live ≠ 0 → (c.st.slice i).calls ≠ [] → (c.iss.strand = .c ∨ b.k = 0) →
        exec (.ret h b) s = .next (c.finish h (fun _ sl => retAfter b.k sl) s c.warp)))) ∧
  (∀ (s : State) (c : Ctx) (h : Hdr) (b : FormB) (i : Nat) (f : CallFrame) (rest : List CallFrame), s.ctx? = some c → c.warp.handler = false →
    i ∈ c.slices → c.slices.Nodup → i < c.st.slices.length → i < 16 → (c.iss.strand = .c ∨ b.k = 0) →
    let sl := c.st.slice i
    let back := (f.returned ||| sl.active) &&& sl.live
    let sl' : Slice := { sl with pc := f.retPc, active := back, calls := rest }
    sl.calls = f :: rest → sl.stack.length ≤ f.depth → sl.live ≠ 0 → sl.hold = .none → sl'.goesOn = true →
    ∃ t : State, exec (.ret h b) s = .next t ∧ t.sliceIs c i sl' ∧
      (c.iss.strand = .c → ∃ w, t.warp? c.iss.w = some w ∧ ∀ j < 4, (w.lanes[4 * i + j]?).map (·.a) = (c.warp.lanes[4 * i + j]?).map fun _ =>
        if back.getLsbD j then returnQueue (f.saved.getD j (c.queue (4 * i + j))) (c.queue (4 * i + j)) b.k
        else f.saved.getD j (c.queue (4 * i + j))))

/-- (R223 to R225, R345) ROUTE waits while its window is open; else, with its descriptor, vector, ports and rows as R224 asks, it completes: the
window takes the next generation, its rows, owner and deadline, and one claim for each valid slot goes out in row and slot order. An unusable port
raises 0x61 with its number. Reading the table homes and marks its pages; while one is in transition ROUTE waits.
Completion said for: route.
(The model's own readings in it: log 24, 66.) -/
def Obligations.RouteOpensWindow : Prop :=
  ∀ (s : State) (c : Ctx) (h : Hdr) (e : FormE), s.ctx? = some c → c.lqGate (lqNeed [e.sa]) = .go →
    (∀ l, c.firstLane? h = some l →
      let old := s.rwindow c.grp.die c.grp.core e.window
      let at_ := (c.aOf 0 e.sa l).toNat
      let d := rdescOf (s.scratchSee c.grp.key (at_ % 2 ^ 24) 32)
      let vs := s.vector c.grp.key d.vec d.rows
      (old.open_ = true → exec (.route h e) s = .next s) ∧
      (old.open_ = false → c.areaBad l at_ 32 true = [] → c.areaBad l d.vec (16 * d.rows) false = [] → d.zeros = true → 1 ≤ d.rows → d.rows ≤ 64 →
        (∀ r ∈ vs, ∀ v ∈ r, v.zeros = true) →
        let named := vs.flatMap fun r => (r.filter (·.valid)).map (·.port)
        (s.tableReach (c.grp.die, c.grp.core) c.grp.dom e.table named = none → exec (.route h e) s = .next s) ∧
        ∀ z, s.tableReach (c.grp.die, c.grp.core) c.grp.dom e.table named = some z → partWrote s z ∧
        (z.header c.grp.dom e.table = none → exec (.route h e) s = .next (c.raise z (c.cause 0x61 0x0100))) ∧
        (∀ hd p, z.header c.grp.dom e.table = some hd → (∀ r ∈ vs, ∀ v ∈ r, v.valid = true → v.port = p) → (∃ r ∈ vs, ∃ v ∈ r, v.valid = true) →
          z.usable c.grp.dom e.table p = none → exec (.route h e) s = .next (c.raise z (c.cause 0x61 p))) ∧
        (∀ hd rb el, z.header c.grp.dom e.table = some hd → (∃ r ∈ vs, ∃ v ∈ r, v.valid = true) →
          (∀ r ∈ vs, ∀ v ∈ r, v.valid = true → ∃ u, z.usable c.grp.dom e.table v.port = some u ∧ u.1.rowBytes = rb ∧ u.1.elems = el) →
          c.rowsBad l d.input d.inStride d.rows rb = [] → c.rowsBad l d.output d.outStride d.rows (4 * el) = [] →
          ∀ s1, (if e.sube.getLsbD 0 then z.taskAdd c.grp.key false else some z) = some s1 →
          ∃ (t : State) (cs : List Claim), exec (.route h e) s = .next (c.finish h nextPc t (c.popLq (lqPops [e.sa]) c.warp)) ∧
            t.memory = s1.memory ∧ t.groups = s.groups ∧ t.claims = s.claims ++ cs ∧
            cs.map (fun k => (k.row, k.slot, k.port)) = (List.range d.rows).flatMap (fun i => [0, 1].filterMap fun j =>
              match (vs.getD i [])[j]? with
              | some v => if v.valid then some (i, j, v.port) else none
              | none => none) ∧
            (∀ k ∈ cs, k.dom = c.grp.dom ∧ k.table = e.table ∧ k.die = c.grp.die ∧ k.core = c.grp.core ∧ k.win = e.window ∧
              k.gen = (old.gen + 1) % 65536 ∧ k.owner = c.grp.key ∧ k.input = d.input % 2 ^ 24 + k.row * d.inStride * 4 ∧
              k.data = z.scratchRead c.grp.key k.input rb ∧ k.staged = none) ∧
            ((s.core c.grp.die c.grp.core).windows.length = 16 →
              let w := t.rwindow c.grp.die c.grp.core e.window
              w.gen = (old.gen + 1) % 65536 ∧ w.open_ = true ∧ w.byTimeout = old.byTimeout ∧ w.byClose = old.byClose ∧ w.owner = c.grp.key ∧ w.table = e.table ∧
              w.rowBytes = rb ∧ w.elems = el ∧ w.input = d.input % 2 ^ 24 ∧ w.output = d.output % 2 ^ 24 ∧ w.inStride = d.inStride ∧
              w.outStride = d.outStride ∧ w.rows.length = d.rows ∧ w.deadline = if hd.timeout = 0 then none else some (s.now + hd.timeout)))))

/-- (R226 to R230, R343, R344) Claims and returns: a claim that nothing of its ROUTE is ahead of is counted and accepted while the port's count for
the window is below CAP, its row then written to the port's staging ring if the inbox has no room for it and the ring has; it is dropped with
a notice when the count is not below CAP. The row accepted first enters the lowest free inbox slot, in the resident group's scratch: from the ring,
or each byte as it stood at issue or as it stands now. A return is applied to the open window of its generation and else counted as late.
Completion said for: claimArrive, inboxRowEnter, routeReturnArrive.
(The model's own readings in it: log 23, 56.) -/
def Obligations.ClaimsTravel : Prop :=
  (∀ (s z : State) (id : Nat) (k : Claim) (p : PortEntry) (g : Group), s.claims.find? (·.id == id) = some k → (∀ q ∈ s.claims, k.id ≤ q.id) →
    s.tableReach (k.die, k.core) k.dom k.table [k.port] = some z → z.usable k.dom k.table k.port = some (p, g) → z.isLive g.die = true →
    let q := z.port k.dom k.table k.port
    let n := (tableGet k.win q.counts).getD 0
    let s2 := ({ z with claims := s.claims.filter (·.id != id) }).setPort { q with counts := tableSet k.win (n + 1) q.counts, waiting := q.waiting ++ [k] }
    ∃ (t : State), exec (.claimArrive id) s = .next t ∧ t.claims = s.claims.filter (·.id != id) ∧ t.groups = s.groups ∧
      (n < p.cap → t.returns = s.returns ∧ tableGet k.win (t.port k.dom k.table k.port).counts = some (n + 1) ∧
        (g.rowsOut = false → q.waiting.length < p.depth - q.inbox.length →
          t.memory = z.memory ∧ (t.port k.dom k.table k.port).waiting = q.waiting ++ [k]) ∧
        (∀ tb, z.table? k.dom k.table = some tb → k.staged = none → (∀ x ∈ q.waiting, x.staged.isSome = true ∧ x.id ≠ k.id) →
          (g.rowsOut = true ∨ p.depth ≤ q.inbox.length) →
          (q.waiting.length < 16 * p.cap →
            t.memory = (s2.vStore (g.die, g.core) k.dom (s2.ringAt tb p k.port q.next) (s2.claimRow k)).memory ∧
            (t.port k.dom k.table k.port).waiting = q.waiting ++ [{ k with staged := some q.next }] ∧
            (t.port k.dom k.table k.port).next = (q.next + 1) % (16 * p.cap)) ∧
          (16 * p.cap ≤ q.waiting.length → t.memory = z.memory ∧ (t.port k.dom k.table k.port).waiting = q.waiting ++ [k]))) ∧
      (p.cap ≤ n → t.memory = z.memory ∧ t.ports = z.ports ∧ t.returns = s.returns ++ [⟨z.nextId, k, none, true⟩])) ∧
  (∀ (s0 s : State) (dom table port i : Nat) (p : PortEntry) (g : Group) (k : Claim) (rest : List Claim), s0.tableReach panelSite dom table [port] = some s →
    s.usable dom table port = some (p, g) → (s.port dom table port).waiting = k :: rest → (s.port dom table port).freeSlot p.depth = some i →
    g.rowsOut = false → s.isLive g.die = true → s.group? g.key = some g →
    let row := (s.enteringRow g p k).1
    (k.staged = none → ∀ (j : Nat) (b : Byte), row[j]? = some b →
      b = k.data.getD j 0 ∨ ((s.group? k.owner).isSome = true ∧ b = (s.scratchRead k.owner k.input k.data.length).getD j 0)) ∧
    (∀ n tb, k.staged = some n → s.table? k.dom k.table = some tb → row = s.vBytes k.dom (s.ringAt tb p k.port n) p.rowBytes) ∧
    partWrote s0 s ∧ ∃ (t : State), exec (.inboxRowEnter dom table port) s0 = .next t ∧ (t.port dom table port).waiting.map (·.id) = rest.map (·.id) ∧
      (t.port dom table port).inbox = (s.port dom table port).inbox ++ [⟨i, k, false⟩] ∧
      (cellsWf g.scratch = true → t.scratchRead g.key (p.first * 148 + i * p.rowBytes) row.length = row ∧
        ∀ a, a < p.first * 148 + i * p.rowBytes ∨ p.first * 148 + i * p.rowBytes + row.length ≤ a →
          t.scratchRead g.key a 1 = s.scratchRead g.key a 1) ∧ (rest = [] → t.memory = s.memory)) ∧
  (∀ (s : State) (id : Nat) (r : Return), s.returns.find? (·.id == id) = some r → (s.core r.claim.die r.claim.core).windows.length = 16 → r.claim.win < 16 →
    let old := s.rwindow r.claim.die r.claim.core r.claim.win
    ∃ (t : State), exec (.routeReturnArrive id) s = .next t ∧ t.returns = s.returns.filter (·.id != id) ∧ (old.succ = false → t.memory = s.memory) ∧
      (old.open_ = true → old.gen = r.claim.gen →
        (∀ x, ((t.rwindow r.claim.die r.claim.core r.claim.win).rows[r.claim.row]?).bind (fun row => row.slots[r.claim.slot]?) = some x →
          x.resolved = true ∧ x.ret = r.row) ∧
        (t.core r.claim.die r.claim.core).late = (s.core r.claim.die r.claim.core).late ∧
        (t.core r.claim.die r.claim.core).dropped = (s.core r.claim.die r.claim.core).dropped + if r.counted then 1 else 0) ∧
      ((old.open_ = false ∨ old.gen ≠ r.claim.gen) → t.groups = s.groups ∧
        (t.core r.claim.die r.claim.core).late = (s.core r.claim.die r.claim.core).late + 1))

/-- (R228, R229, R234, R235) RTAKE, RRET, RCLOSE.port and RSTAT on a usable port of the issuing group complete: the oldest row not taken is taken and
its scratch address written as a long result (.try gives all ones when there is none; .wait waits); RRET frees the taken slot and sends the
row's words, or with .drop a drop; RCLOSE.port sets the window's count to 0; RSTAT gives the word it names. Another group's port, and one that is
not usable, raises 0x61. While the part waits for a page of the table they wait.
Completion said for: rtake, rret, rclosePort, rstat.
(The model's own readings in it: log 57.) -/
def Obligations.PortOpsComplete : Prop :=
  (∀ (s : State) (c : Ctx) (h : Hdr) (e : FormE) (l : Nat), s.ctx? = some c → c.firstLane? h = some l → c.pushGate e.dk.toNat = .go →
    (s.tableReach (c.grp.die, c.grp.core) c.grp.dom e.table [e.port] = none → exec (.rtake h e) s = .next s ∧ exec (.rclosePort h e) s = .next s ∧
      (e.sube = 3 → exec (.rstat h e) s = .next s) ∧ (c.lqGate (lqNeed [e.sa, e.sb]) = .go → exec (.rret h e) s = .next s)) ∧
    (∀ z, s.tableReach (c.grp.die, c.grp.core) c.grp.dom e.table [e.port] = some z → partWrote s z ∧
      (z.usable c.grp.dom e.table e.port = none → let aux := if z.header c.grp.dom e.table = none then 0x0100 else e.port
        exec (.rtake h e) s = .next (c.raise z (c.cause 0x61 aux)) ∧ exec (.rclosePort h e) s = .next (c.raise z (c.cause 0x61 aux)) ∧
        (c.lqGate (lqNeed [e.sa, e.sb]) = .go → exec (.rret h e) s = .next (c.raise z (c.cause 0x61 aux)))))) ∧
  (∀ (s z : State) (c : Ctx) (h : Hdr) (e : FormE) (l : Nat) (p : PortEntry) (g : Group), s.ctx? = some c → c.firstLane? h = some l →
    s.tableReach (c.grp.die, c.grp.core) c.grp.dom e.table [e.port] = some z → z.usable c.grp.dom e.table e.port = some (p, g) →
    c.pushGate e.dk.toNat = .go →
    let q := z.port c.grp.dom e.table e.port
    (g.key ≠ c.grp.key → exec (.rtake h e) s = .next (c.raise z (c.cause 0x61 e.port)) ∧
      exec (.rclosePort h e) s = .next (c.raise z (c.cause 0x61 e.port))) ∧
    (g.key = c.grp.key →
      (∀ b, q.inbox.find? (fun b => !b.taken) = some b →
        c.gives (exec (.rtake h e) s)
          (z.setPort { q with inbox := q.inbox.map fun x => if x.idx = b.idx then { x with taken := true } else x }) h e.dk e.fs []
          fun _ => BitVec.ofNat 32 (0xFF000000 + p.first * 148 + b.idx * p.rowBytes)) ∧
      ((∀ b ∈ q.inbox, b.taken = true) → e.sube = 0 → exec (.rtake h e) s = .next z) ∧
      ((∀ b ∈ q.inbox, b.taken = true) → e.sube ≠ 0 → c.gives (exec (.rtake h e) s) z h e.dk e.fs [] fun _ => 0xFFFFFFFF) ∧
      exec (.rclosePort h e) s = .next (c.finish h nextPc (z.setPort { q with counts := tableSet e.window 0 q.counts }) c.warp) ∧
      (e.sube = 3 → c.gives (exec (.rstat h e) s) z h e.dk e.fs [] fun _ => BitVec.ofNat 32 ((tableGet e.window q.counts).getD 0)) ∧
      (∀ b, c.lqGate (lqNeed [e.sa, e.sb]) = .go →
        let row := (c.reads 0 [e.sa, e.sb] l).getD 1 0
        let at_ := (c.reads 0 [e.sa, e.sb] l).getD 0 0
        q.inbox.find? (fun b => b.taken && at_.toNat % 2 ^ 24 == p.first * 148 + b.idx * p.rowBytes &&
          (at_.toNat / 2 ^ 24 == 0xFF || at_.toNat / 2 ^ 24 == c.grp.slot)) = some b →
        (e.sube ≠ 1 → c.areaBad l row.toNat (p.elems * if p.retf then 4 else 2) false = [] →
          ∃ (t : State), exec (.rret h e) s = .next (c.finish h nextPc t (c.popLq (lqPops [e.sa, e.sb]) c.warp)) ∧
            (t.port c.grp.dom e.table e.port).inbox = q.inbox.filter (·.idx != b.idx) ∧
            t.returns = s.returns ++ [⟨z.nextId, b.claim, some ((List.range p.elems).map fun i =>
              let bytes := z.scratchSee c.grp.key (row.toNat % 2 ^ 24) (p.elems * if p.retf then 4 else 2)
              if p.retf then BitVec.ofNat 32 (leAt bytes (4 * i) 4) else BitVec.ofNat 32 (leAt bytes (2 * i) 2 * 65536)), false⟩]) ∧
        (e.sube = 1 → ∃ (t : State), exec (.rret h e) s = .next (c.finish h nextPc t (c.popLq (lqPops [e.sa, e.sb]) c.warp)) ∧
            (t.port c.grp.dom e.table e.port).inbox = q.inbox.filter (·.idx != b.idx) ∧
            t.returns = s.returns ++ [⟨z.nextId, b.claim, none, true⟩]))))

/-- (R231, R232, R234, R235) A window that its owner closes, or whose deadline has come, completes: every slot resolved, every row done, the entry
free with how it ended, and each output row in the owner's scratch; nothing of device memory changes. RSTAT of the window, of .late and of
.drop gives its word.
Completion said for: routeWindowTimeout, rcloseWin, rstat.
(The model's own readings in it: log 59.) -/
def Obligations.WindowsComplete : Prop :=
  (∀ (s : State) (die core win : Nat), (s.core die core).windows.length = 16 → win < 16 →
    let w := s.rwindow die core win
    ∀ t0, w.deadline = some t0 → t0 ≤ s.now → w.open_ = true →
      ∃ (t : State), exec (.routeWindowTimeout die core win) s = .next t ∧ (w.succ = false → t.memory = s.memory) ∧
        (∃ w', t.rwindow die core win = w' ∧
          { w' with rows := [] } = { w with open_ := false, byTimeout := true, byClose := false, deadline := none, rows := [] } ∧
          w'.rows.length = w.rows.length ∧
          ∀ (i : Nat) r r', w.rows[i]? = some r → w'.rows[i]? = some r' → r'.done = true ∧
            r'.slots = r.slots.map (fun x => { x with resolved := true }) ∧ (r.done = true → r'.pass = r.pass)) ∧
        (∀ k, k ≠ w.owner → t.group? k = s.group? k) ∧
        ∀ r g, w.rows = [r] → s.group? w.owner = some g → cellsWf g.scratch = true →
          let out := t.scratchRead w.owner w.output (4 * w.elems)
          let given := r.slots.any (·.ret.isSome)
          let thru := ((r.slots.find? (·.valid)).map (·.port)).bind fun p => tableGet p w.fallb
          (given = true → out = bytesOfWords (combine w.elems r.slots)) ∧
          (given = false → r.done = false → thru = some true →
            out = padTo (4 * w.elems) (s.scratchRead w.owner w.input (min w.rowBytes (4 * w.elems)))) ∧
          (given = false → r.done = false → thru ≠ some true → out = List.replicate (4 * w.elems) 0)) ∧
  (∀ (s : State) (die core win : Nat), (∀ t0, (s.rwindow die core win).deadline = some t0 → s.now < t0) →
    exec (.routeWindowTimeout die core win) s = .next s) ∧
  (∀ (s : State) (c : Ctx) (h : Hdr) (e : FormE) (l : Nat), s.ctx? = some c → c.firstLane? h = some l →
    let w := s.rwindow c.grp.die c.grp.core e.window
    (w.open_ = true → w.owner = c.grp.key → (s.core c.grp.die c.grp.core).windows.length = 16 →
      ∃ (t : State), exec (.rcloseWin h e) s = .next (c.finish h nextPc t c.warp) ∧ (w.succ = false → t.memory = s.memory) ∧
        (t.rwindow c.grp.die c.grp.core e.window).open_ = false ∧ (t.rwindow c.grp.die c.grp.core e.window).byClose = true ∧
        (t.rwindow c.grp.die c.grp.core e.window).byTimeout = false) ∧
    ((w.open_ = false ∨ w.owner ≠ c.grp.key) → exec (.rcloseWin h e) s = .next (c.finish h nextPc s c.warp)) ∧
    (c.pushGate e.dk.toNat = .go →
      (e.sube = 0 → c.gives (exec (.rstat h e) s) s h e.dk e.fs [] fun _ => BitVec.ofNat 32 ((if w.open_ then 1 else 0) +
        (if w.byTimeout then 2 else 0) + (if w.byClose then 4 else 0) + 256 * (w.rows.filter fun r => !r.done).length + 65536 * w.gen)) ∧
      (e.sube = 1 → c.gives (exec (.rstat h e) s) s h e.dk e.fs [] fun _ => (s.core c.grp.die c.grp.core).late) ∧
      (e.sube = 2 → c.gives (exec (.rstat h e) s) s h e.dk e.fs [] fun _ => (s.core c.grp.die c.grp.core).dropped)))

/-- (R236 to R241, R246) The Escapement rows complete on a worklist of the launch's domain, open on the die: EOPEN sends its open or close to every
live die, EPUSH adds the executing lanes' tasks and counts them, or raises 0x60 without room, EPOP serves tasks or gives status 1 or 2 or
waits, EDONE counts its lanes off, ESTAT reads. On a worklist of another domain each raises 0x11 with AUX 0xFFFF, on one not open 0x21, but for
EOPEN.open and ESTAT, and for an EPOP that waited as the close came.
Completion said for: eopenOpen, eopenClose, epush, epop, edone, estat.
(The model's own readings in it: log 31, 32.) -/
def Obligations.WorklistOpsComplete : Prop :=
  ∀ (s : State) (c : Ctx) (h : Hdr) (e : FormE) (l : Nat), s.ctx? = some c → c.firstLane? h = some l →
    let u := s.unit c.grp.die e.wl
    let plain := c.finish h nextPc
    ((s.worklist? e.wl).bind (·.dom) ≠ some c.grp.dom →
      (∀ i, i ∈ [Instr.edone h e, .eopenClose h e] → exec i s = .next (c.raise s (c.cause 0x11 0xFFFF))) ∧
      (c.lqGate (lqNeed [e.sa]) = .go → exec (.eopenOpen h e) s = .next (c.raise s (c.cause 0x11 0xFFFF))) ∧
      (c.lqGate (lqNeed [e.sa, e.sb, e.sc]) = .go → exec (.epush h e) s = .next (c.raise s (c.cause 0x11 0xFFFF))) ∧
      ((∀ p ∈ c.st.pops, p.1 = c.iss.gang → p.2.1 = e.wl → p.2.2 = false) → exec (.epop h e) s = .next (c.raise s (c.cause 0x11 0xFFFF))) ∧
      (c.pushGate e.dk.toNat = .go → exec (.estat h e) s = .next (c.raise s (c.cause 0x11 0xFFFF)))) ∧
    ((s.worklist? e.wl).bind (·.dom) = some c.grp.dom →
      (u.open_ = false →
        (∀ i, i ∈ [Instr.edone h e, .eopenClose h e] → exec i s = .next (c.raise s (c.cause 0x21 0))) ∧
        (c.lqGate (lqNeed [e.sa, e.sb, e.sc]) = .go → exec (.epush h e) s = .next (c.raise s (c.cause 0x21 0))) ∧
        ((∀ p ∈ c.st.pops, p.1 = c.iss.gang → p.2.1 = e.wl → p.2.2 = false) → exec (.epop h e) s = .next (c.raise s (c.cause 0x21 0))) ∧
        ((∃ p ∈ c.st.pops, p.1 = c.iss.gang ∧ p.2.1 = e.wl ∧ p.2.2 = true) → c.popsTo (exec (.epop h e) s) s h e.fs.toNat [] 1)) ∧
      (c.pushGate e.dk.toNat = .go → c.gives (exec (.estat h e) s) s h e.dk e.fs [] fun _ =>
        match e.sube.toNat with
        | 0 => if u.open_ then BitVec.ofNat 32 u.tasks.length else 0
        | 1 => if u.open_ then BitVec.ofNat 32 u.g else 256
        | 2 => u.lastSum
        | _ => BitVec.ofNat 32 ((if u.open_ then 1 else 0) + (if u.open_ && u.terminated then 2 else 0) + (if u.open_ && u.balancing then 4 else 0) +
            (if u.open_ && u.tasks.any (·.spilled) then 8 else 0) + 256 * u.shift + 65536 * u.lead)) ∧
      (∀ d : EDesc, d = edescOf (s.scratchSee c.grp.key ((c.aOf 0 e.sa l).toNat % 2 ^ 24) 32) → c.lqGate (lqNeed [e.sa]) = .go →
        c.areaBad l (c.aOf 0 e.sa l).toNat 32 true = [] →
        (d.legal = true → exec (.eopenOpen h e) s = .next (plain { s with
          nextId := s.nextId + 1
          eops := s.eops ++ [⟨s.nextId, e.wl, false, d.shift, d.lead, d.balancing, d.base, d.size, s.liveDies, s.now⟩] } (c.popLq (lqPops [e.sa]) c.warp))) ∧
        (d.legal = false → exec (.eopenOpen h e) s = .next (c.raise s (c.cause 0x21 0)))) ∧
      (u.open_ = true →
        (∃ (o : EOp), exec (.eopenClose h e) s = .next (plain { s with nextId := s.nextId + 1, eops := s.eops ++ [o] } c.warp) ∧
          o.id = s.nextId ∧ o.wl = e.wl ∧ o.close = true ∧ o.due = s.liveDies) ∧
        (∃ t : State, exec (.edone h e) s = .next (plain t c.warp) ∧ { t with dies := s.dies } = s ∧
          t.unit c.grp.die e.wl = { u with net := u.net - BitVec.ofNat 32 (c.execLanes h).length }) ∧
        (c.lqGate (lqNeed [e.sa, e.sb, e.sc]) = .go → ∀ ts, ts = c.pushed h e →
          (1024 + u.spillPart < u.tasks.length + ts.length → exec (.epush h e) s = .next (c.raise s (c.cause 0x60 e.wl))) ∧
          (u.tasks.length + ts.length ≤ 1024 + u.spillPart →
            ∃ t : State, exec (.epush h e) s = .next (plain t (c.popLq (lqPops [e.sa, e.sb, e.sc]) c.warp)) ∧
              (t.unit c.grp.die e.wl).tasks.map ETask.plain = (u.tasks ++ ts).map ETask.plain ∧
              (u.onChip ≤ 1024 → (t.unit c.grp.die e.wl).onChip ≤ 1024) ∧
              (t.unit c.grp.die e.wl).net = u.net + BitVec.ofNat 32 ts.length ∧ (t.unit c.grp.die e.wl).terminated = false ∧
              t.groups = s.groups ∧ (u.onChip + ts.length ≤ 1024 → t.memory = s.memory))) ∧
        (∀ ts u1 n, (∀ p ∈ c.st.pops, p.1 = c.iss.gang → p.2.1 = e.wl → p.2.2 = false) → u.serveN (c.execLanes h).length = (ts, u1, n) →
          (ts ≠ [] →
            let t := (s.spillTo c.grp.die c.grp.dom u1 n).dieEvent c.grp.die 0x0F c.grp.dom ts.length
            c.popsTo (exec (.epop h e) s) t h e.fs.toNat ((c.execLanes h).zip ts) 2 ∧ t.unit c.grp.die e.wl = u1 ∧
            t.groups = s.groups ∧ (n = 0 → t.memory = s.memory)) ∧
          (ts = [] → u.terminated = true → ((s.worklist? e.wl).map (·.terminated)) = some true → c.popsTo (exec (.epop h e) s) s h e.fs.toNat [] 1) ∧
          (ts = [] → u.terminated = false → e.sube = 1 → c.popsTo (exec (.epop h e) s) s h e.fs.toNat [] 2) ∧
          (ts = [] → u.terminated = false → e.sube ≠ 1 → ∃ t : State, exec (.epop h e) s = .next t ∧ t.memory = s.memory ∧ t.dies = s.dies ∧
            ∀ k, (t.warp? k).map (fun w => (w.lanes, w.y, w.m, w.g, w.longs, w.accs)) =
              (s.warp? k).map (fun w => (w.lanes, w.y, w.m, w.g, w.longs, w.accs))))))

/-- (R238, R239) A unit serves its lowest non-empty bucket, and only when that bucket is at most G + L: the oldest of its tasks, on chip or in spill.
A bucket that has tasks in spill alone is refilled first. No task is lost, and a chip that was not overfull is not after.
(The model's own reading in it: log 32.) -/
def Obligations.TasksServedInOrder : Prop :=
  ∀ (u : EUnit),
    (u.serve = none ↔ ∀ t ∈ u.tasks, u.g + u.lead < u.bucket t) ∧
    (∀ t u' n, u.serve = some (t, u', n) → ∃ older younger,
      (older ++ t :: younger).map ETask.plain = u.tasks.map ETask.plain ∧ u' = { u with tasks := older ++ younger } ∧
      u.bucket t ≤ u.g + u.lead ∧ (∀ q ∈ older ++ younger, u.bucket t ≤ u.bucket q) ∧ (∀ q ∈ older, u.bucket t < u.bucket q) ∧
      ((∃ q ∈ u.tasks, u.bucket q = u.bucket t ∧ q.spilled = false) → n = 0 ∧ older ++ t :: younger = u.tasks) ∧
      ((∀ q ∈ u.tasks, u.bucket q = u.bucket t → q.spilled = true) → u.onChip ≤ 1024 → t.spilled = false) ∧
      (u.onChip ≤ 1024 → u'.onChip ≤ 1024))

/-- (R237, R242, R244, R245) Events of a worklist: an open or close reaches a die; every 256 ck a sample with the SUM of the open units; a unit
adopts the oldest sample on its way to it, a closed one its SUM; a balancing unit with over 512 tasks sends up to 64 to a sharer that reported fewer than half;
what it sent enters the receiver; a close discards what it still reports. Device memory changes where tasks
go to spill alone.
Completion said for: eopenTakeEffect, arborSample, arborMinResult, balanceTick, balanceReceive.
(The model's own readings in it: log 31, 32.) -/
def Obligations.WorklistEvents : Prop :=
  (∀ (s : State) (id die : Nat) (o : EOp), s.eops.find? (·.id == id) = some o → die ∈ o.due → s.isLive die = true →
    ∃ t : State, exec (.eopenTakeEffect id die) s = .next t ∧ t.memory = s.memory ∧
      (o.close = false → (s.unit die o.wl).open_ = true → t.unit die o.wl = s.unit die o.wl) ∧
      (o.close = false → (s.unit die o.wl).open_ = false → (t.unit die o.wl).open_ = true ∧ (t.unit die o.wl).tasks = [] ∧ (t.unit die o.wl).g = 256 ∧
        (t.unit die o.wl).shift = o.shift ∧ (t.unit die o.wl).lead = o.lead ∧ (t.unit die o.wl).balancing = o.balancing ∧ (t.unit die o.wl).net = 0) ∧
      (o.close = true → (s.unit die o.wl).open_ = true →
        let mine := s.transfers.filter fun x => x.wl == o.wl && x.from_ == die
        (t.unit die o.wl).open_ = false ∧ (t.unit die o.wl).tasks = [] ∧
        (t.unit die o.wl).net = (s.unit die o.wl).net - BitVec.ofNat 32 ((s.unit die o.wl).tasks.length + (mine.map (·.tasks.length)).sum) ∧
        t.transfers = s.transfers.filter fun x => !(x.wl == o.wl && x.from_ == die))) ∧
  (∀ (s : State) (wl : Nat) (w : Worklist), s.worklist? wl = some w →
    ((s.openDies wl = [] ∨ s.now < w.sampledAt + 256) → exec (.arborSample wl) s = .next s) ∧
    (s.openDies wl ≠ [] → w.sampledAt + 256 ≤ s.now →
      ∃ (t : State) (x : Sample) (w1 : Worklist), exec (.arborSample wl) s = .next t ∧ { t with worklists := s.worklists } = s ∧
        t.worklist? wl = some w1 ∧ w1.samples = w.samples ++ [x] ∧ x.sum = s.sampleSum wl ∧ x.min = s.sampleMin wl ∧ x.due = s.liveDies ∧ w1.sampledAt = w.sampledAt + 256 ∧
        w1.zeros = (if s.sampleSum wl = 0 then w.zeros + 1 else 0) ∧
        (w.terminated = false → (w1.terminated = true ↔ s.sampleSum wl = 0 ∧ 1 ≤ w.zeros ∧ ∀ k ∈ s.transfers, k.wl ≠ wl)))) ∧
  (∀ (s : State) (wl die : Nat) (w : Worklist) (x : Sample) (rest : List Sample), s.worklist? wl = some w → w.samples = x :: rest → die ∈ x.due →
    s.isLive die = true →
    ∃ t : State, exec (.arborMinResult wl die) s = .next t ∧ t.memory = s.memory ∧ t.groups = s.groups ∧
      t.unit die wl = if (s.unit die wl).open_ then { s.unit die wl with g := x.min, lastSum := x.sum, terminated := x.term && w.terminated }
        else { s.unit die wl with lastSum := x.sum }) ∧
  (∀ (s : State) (wl die : Nat), s.isLive die = true → (s.unit die wl).open_ = true → (s.unit die wl).balancing = true →
    (s.unit die wl).tickedAt + 256 ≤ s.now →
    ∃ t : State, exec (.balanceTick wl die) s = .next t ∧ t.memory = s.memory ∧ t.groups = s.groups ∧
      ((s.unit die wl).onChip ≤ 512 → t.transfers = s.transfers ∧ (t.unit die wl).tasks = (s.unit die wl).tasks) ∧
      (∀ d, s.sharers wl die = [d] → 512 < (s.unit die wl).onChip → 2 * (s.unit d wl).reported < (s.unit die wl).onChip →
        ∃ x, t.transfers = s.transfers ++ [x] ∧ x.wl = wl ∧ x.from_ = die ∧ x.dest = d ∧ x.tasks.length = 64 ∧
          ((t.unit die wl).tasks ++ x.tasks).Perm (s.unit die wl).tasks ∧
          ∀ k ∈ x.tasks, ∀ q ∈ (t.unit die wl).tasks, (s.unit die wl).bucket q ≤ (s.unit die wl).bucket k)) ∧
  (∀ (s : State) (id : Nat) (x : Transfer), s.transfers.find? (·.id == id) = some x → s.isLive x.dest = true → (s.unit x.dest x.wl).open_ = true →
    ∃ t : State, exec (.balanceReceive id) s = .next t ∧ t.transfers = s.transfers.filter (·.id != id) ∧ t.groups = s.groups ∧
      (t.unit x.dest x.wl).tasks.map ETask.plain = ((s.unit x.dest x.wl).tasks ++ x.tasks).map ETask.plain ∧
      ((s.unit x.dest x.wl).onChip + x.tasks.length ≤ 1024 → t.memory = s.memory))

/-- (R41, R42, R175, R247 to R249, R267) BAR and CBAR hold every slice that issues one, in the A-strand once FENCE.ar would complete and what the group saw of
others' writes is seen as far (R267); a barrier that every
warp of the group has arrived at, or is excused from, releases them all, and one that some warp has not does nothing. PHASE stops its strand
and binds the successor task; on a resident launch it raises 0x20. SIGNAL counts the successor task up and down.
Completion said for: bar, cbar, phase, signalHold, signalRel.
(The model's own readings in it: log 26, 81.) -/
def Obligations.BarriersAndPhasesComplete : Prop :=
  (∀ (s : State) (c : Ctx) (h : Hdr) (e : FormE), s.ctx? = some c →
    let ready (n : Nat) : Prop := c.iss.strand = .c ∨ (c.warp.fencedAt n ∧ s.carriesAlong c.grp.agent n)
    (ready 0 → exec (.bar h e) s = .next (c.finish h (fun _ sl => { sl with hold := .bar }) s c.warp)) ∧
    (ready 2 → exec (.cbar h e) s = .next (c.finish h (fun _ sl => { sl with hold := .cbar }) s c.warp)) ∧
    (¬ ready 0 → exec (.bar h e) s = .next s) ∧ (¬ ready 2 → exec (.cbar h e) s = .next s) ∧
    (∀ l, s.launch? c.iss.w.seq = some l → l.code.resident = true → exec (.phase h e) s = .next (c.raise s (c.cause 0x20 0x1D5))) ∧
    (∀ l, s.launch? c.iss.w.seq = some l → l.code.resident = false → (∀ p ∈ l.code.phases, p.id ≠ e.imm16.toNat) →
      exec (.phase h e) s = .next (c.raise s (c.cause 0x21 0))) ∧
    (∀ l k, s.launch? c.iss.w.seq = some l → l.code.resident = false → (∃ p ∈ l.code.phases, p.id = e.imm16.toNat) →
      (c.warp.strand (other c.iss.strand)).exited = false → (c.warp.strand (other c.iss.strand)).phaseId ∈ [none, some e.imm16.toNat] →
      s.task? c.grp.key = some k → k.next ∈ [none, some e.imm16.toNat] →
      let t := (s.modTask c.grp.key fun k => { k with next := some e.imm16.toNat }).vStore (c.grp.die, c.grp.core) c.grp.dom k.recAt
        (leBytes 8 (e.imm16.toNat + c.grp.key.grp * 65536))
      exec (.phase h e) s = .next (c.finish h (fun _ sl => { sl with hold := .phase }) t
          (c.warp.modStrand c.iss.strand fun u => { u with phaseId := some e.imm16.toNat })) ∧
        partWrote { s with tasks := t.tasks } t ∧ t.task? c.grp.key = some { k with next := some e.imm16.toNat }) ∧
    (∀ k, s.task? c.grp.key = some k → k.count < 65535 →
      ∃ t : State, exec (.signalHold h e) s = .next (c.finish h nextPc t c.warp) ∧ partWrote { s with tasks := t.tasks } t ∧
        t.task? c.grp.key = some { k with count := k.count + 1, holds := k.holds + 1 }) ∧
    (∀ k, s.task? c.grp.key = some k → k.count = 65535 → exec (.signalHold h e) s = .next s) ∧
    (∀ l a, c.lqGate (lqNeed [e.sa]) = .go → c.firstLane? h = some a → s.launch? c.iss.w.seq = some l →
      let n := (c.aOf 0 e.sa a).toNat
      (l.groups ≤ n → exec (.signalRel h e) s = .next (c.raise s (c.cause 0x21 0))) ∧
      (n < l.groups →
        ∃ t : State, exec (.signalRel h e) s = .next (c.finish h nextPc t (c.popLq (lqPops [e.sa]) c.warp)) ∧
          partWrote { s with tasks := t.tasks, ready := t.ready } t ∧
          (∀ k, s.task? ⟨c.iss.w.seq, n⟩ = some k → 0 < k.holds → 0 < k.count →
            t.task? ⟨c.iss.w.seq, n⟩ = some { k with count := k.count - 1, holds := k.holds - 1 } ∧
            t.ready = s.ready ++ if k.count = 1 then [⟨c.iss.w.seq, n⟩] else []) ∧
          ((∀ k, s.task? ⟨c.iss.w.seq, n⟩ = some k → k.holds = 0) → t = s)))) ∧
  (∀ (s : State) (k : GroupKey) (g : Group) (st : Strand) (b : Hold), s.group? k = some g → b = .bar ∨ b = .cbar → (∀ w ∈ g.warps, w.saved = none) →
    ((∃ w ∈ g.warps, w.arrived st b = false ∧ w.excused st = false) → s.tryBarrier [k] st b = s) ∧
    ((∀ w ∈ g.warps, w.arrived st b = true ∨ w.excused st = true) →
      ∃ g', (s.tryBarrier [k] st b).group? k = some g' ∧ g'.warps.map Warp.rest = g.warps.map Warp.rest ∧
        ∀ w ∈ g'.warps, ∀ sl ∈ (w.strand st).slices, sl.live ≠ 0 → sl.hold ≠ b))

/-- (R250 to R252) ABAR and ARED arrive for the die at the channel's generation unless the die still waits for one, ARED with the generation as its
result; AWAIT waits for the last generation its die joined and gives its number or value, 0 when it never joined. A generation at which every
live participant has arrived releases with the reduced value of those, 0 when their operations differ.
Completion said for: abar, ared, await, arborRelease. -/
def Obligations.ChannelsComplete : Prop :=
  (∀ (s : State) (c : Ctx) (h : Hdr) (e : FormE), s.ctx? = some c →
    let k := s.channel c.iss.w.seq e.channel
    (k.waits c.grp.die = true → exec (.abar h e) s = .next s) ∧
    (k.waits c.grp.die = false → exec (.abar h e) s = .next (c.finish h nextPc (s.setChannel
      { k with arrivals := k.arrivals ++ [(c.grp.die, 0, 0xFFFFFFFF)], joined := tableSet c.grp.die k.gen k.joined }) c.warp)) ∧
    (∀ l, c.firstLane? h = some l →
      (c.lqGate (lqNeed [e.sa]) = .go → c.pushGate e.dk.toNat = .go →
        (k.waits c.grp.die = true → exec (.ared h e) s = .next s) ∧
        (k.waits c.grp.die = false → c.gives (exec (.ared h e) s) (s.setChannel { k with
            arrivals := k.arrivals ++ [(c.grp.die, e.sube.toNat, c.aOf 0 e.sa l)]
            joined := tableSet c.grp.die k.gen k.joined }) h e.dk e.fs [e.sa] fun _ => BitVec.ofNat 32 k.gen)) ∧
      (c.pushGate e.dk.toNat = .go →
        (tableGet c.grp.die k.joined = none → c.gives (exec (.await h e) s) s h e.dk e.fs [] fun _ => 0) ∧
        (∀ n, tableGet c.grp.die k.joined = some n →
          ((tableGet c.grp.die k.seen).getD 0 < n → exec (.await h e) s = .next s) ∧
          (n ≤ (tableGet c.grp.die k.seen).getD 0 → c.gives (exec (.await h e) s) s h e.dk e.fs [] fun _ =>
            if e.sube = 0 then BitVec.ofNat 32 n else (tableGet n k.values).getD 0))))) ∧
  (∀ (s : State) (seq num die : Nat) (k : Channel), s.channels.find? (fun q => q.seq == seq && q.num == num) = some k → s.isLive die = true →
    ∃ (t : State) (q : Channel), exec (.arborRelease seq num die) s = .next t ∧ { t with channels := s.channels } = s ∧ t.channel seq num = q ∧
      ((k.arrivals = [] ∨ ∃ d ∈ k.members, s.isLive d = true ∧ d ∉ k.arrivals.map (·.1)) →
        q = { k with seen := tableSet die (k.gen - 1) k.seen }) ∧
      (k.arrivals ≠ [] → (∀ d ∈ k.members, s.isLive d = true → d ∈ k.arrivals.map (·.1)) →
        q.gen = k.gen + 1 ∧ q.arrivals = [] ∧ q.seen = tableSet die k.gen k.seen ∧
        let got := k.arrivals.filter fun a => k.members.contains a.1 && s.isLive a.1
        (∀ op, (∀ a ∈ got, a.2.1 = op) → tableGet k.gen q.values = some (reducedAs op (got.map (·.2.2)))) ∧
        ((∃ a ∈ got, ∃ b ∈ got, a.2.1 ≠ b.2.1) → tableGet k.gen q.values = some 0)))

/-- (R253 to R256, R258, R259, R357, R362) SYS, TOPO, CLK and PERF write the word they select as a long result: mode, lane status, matrix status, launch tag and the
handler's words; the topology; the die's time counter with its upper half kept for CLK.hi, the offset table, the core's ck; a granted
counter with its upper half kept, 0 for one not granted. SYS.clr gives the status and clears the bits it names. SETXV writes bits 15:0 of y15. SLEEP sets the
strand's end of sleep, and SLEEP_EXPIRE takes it away when that has come.
SYS.wr of 0x0110 in the handler ends it: 1 retires the warp, 2 writes a final record of kind 2 and ends the launch with 0x0012 and the record's
index, 3 writes a pending record of kind 2 and parks the warp; another value raises 0x21; 2 and 3 wait for a free record, 3 also for the handler's stores.
Completion said for: sys, topo, clk, perf, setxv, setxvImm, sleep, sleepExpire.
(The model's own readings in it: log 8, 15, 33.) -/
def Obligations.SystemRowsComplete : Prop :=
  (∀ (s : State) (c : Ctx) (h : Hdr) (e : FormE) (l : Nat), s.ctx? = some c → c.firstLane? h = some l →
    let gives := c.gives
    (c.pushGate e.dk.toNat = .go → e.sube = 0 →
      (∀ f : Nat → Word, (e.imm16 = 0 ∧ (∀ j, f j = c.warp.mode)) ∨ (e.imm16 = 1 ∧ ∀ j, f j = (c.warp.lane j).status.setWidth 32) ∨
          (e.imm16 = 2 ∧ ∀ j, f j = c.warp.mstatus) ∨ (e.imm16 = 3 ∧ ∀ j, f j = BitVec.ofNat 32 (c.iss.w.seq % 65536)) ∨
          (c.warp.handler = true ∧ ∃ v, c.warp.saved = some v ∧ e.imm16 = 0x100 ∧ ∀ j, f j = v.cause) ∨
          (c.warp.handler = true ∧ e.imm16 = 0x101 ∧ ∀ j, f j = BitVec.ofNat 32 c.warp.ctx) ∨
          (c.warp.handler = true ∧ e.imm16 = 0x102 ∧ ∀ j, f j = BitVec.ofNat 32 (c.warp.ctx / 2 ^ 32)) ∨
          (c.warp.handler = true ∧ e.imm16 = 0x103 ∧ ∀ j, f j = (match c.warp.record with
            | some r => BitVec.ofNat 32 r
            | none => 0xFFFFFFFF)) ∨
          (c.warp.handler = true ∧ e.imm16 = 0x104 ∧ ∀ j, f j = BitVec.ofNat 32 c.iss.w.seq) ∨
          (c.warp.handler = true ∧ e.imm16 = 0x105 ∧ ∀ j, f j = BitVec.ofNat 32 c.iss.w.grp) ∨
          (c.warp.handler = true ∧ e.imm16 = 0x106 ∧ ∀ j, f j = BitVec.ofNat 32 (c.iss.w.warp % 16 + 16 * c.warp.width)) →
        gives (exec (.sys h e) s) s h e.dk e.fs [] f)) ∧
    (0x100 ≤ e.imm16.toNat → e.imm16.toNat ≤ 0x1FF → c.warp.handler = false → exec (.sys h e) s = .next (c.raise s (c.cause 0x20 0x1E0))) ∧
    (c.lqGate (lqNeed [e.sa]) = .go → c.pushGate e.dk.toNat = .go →
      (∀ w' : Warp, e.imm16 = 1 → e.sube = 1 → { w' with lanes := c.warp.lanes } = c.warp →
        (∀ j : Nat, w'.lanes[j]? = (c.warp.lanes[j]?).map fun k =>
          if (c.exec h).getLsbD j then { k with status := k.status &&& ~~~((c.aOf 0 e.sa j).extractLsb' 0 8) } else k) →
        Ctx.gives { c with warp := w' } (exec (.sys h e) s) s h e.dk e.fs [e.sa] fun j => (c.warp.lane j).status.setWidth 32) ∧
      (e.imm16 = 2 → e.sube = 1 → Ctx.gives { c with warp := { c.warp with mstatus := c.warp.mstatus &&& ~~~(c.aOf 0 e.sa l) } }
        (exec (.sys h e) s) s h e.dk e.fs [e.sa] fun _ => c.warp.mstatus) ∧
      gives (exec (.topo h e) s) s h e.dk e.fs [e.sa] (fun _ =>
        let v := (c.aOf 0 e.sa l).toNat
        match e.imm16.toNat with
        | 0 => BitVec.ofNat 32 ((if s.module.gradeB then 1 else 0) + 256 * s.liveDies.length)
        | 1 => BitVec.ofNat 32 (c.grp.die + 512 * (c.grp.core / 24) + 65536 * (c.grp.core % 24) + 2097152 * regionOf c.grp.die)
        | 2 => if 16 ≤ v then 0xFFFFFFFF else (List.range 32).foldl (fun m j => if s.isLive (32 * v + j) then m ||| (1 <<< j) else m) 0
        | 3 => if 512 ≤ v then 0xFFFFFFFF else BitVec.ofNat 32 (bandOf c.grp.die v)
        | 4 => if 6 ≤ v then 0xFFFFFFFF else BitVec.ofNat 32 (bandBound v)
        | _ => if 512 ≤ v then 0xFFFFFFFF else BitVec.ofNat 32 (regionOf v))) ∧
    (c.warp.handler = true → e.imm16 = 0x110 → e.sube = 2 → e.dk = 7 → c.lqGate (lqNeed [e.sa]) = .go → c.pushGate 7 = .go →
      let v := c.aOf 0 e.sa l
      let idx := s.nextFault c.grp.dom
      let free := s.faultFree c.grp.dom idx = true
      let named (t : State) (f : FaultRec) : Prop := f ∈ t.faultRecs ∧ f.dom = c.grp.dom ∧ f.idx = idx ∧ f.kind = 2 ∧
        ∀ x r, c.warp.saved = some x → x.raised = some r → f.code = r.code
      ((v = 0 ∨ 3 < v.toNat) → exec (.sys h e) s = .next (c.raise s (c.cause 0x21 0))) ∧
      (v = 1 → ∃ (t : State) (w' : Warp), exec (.sys h e) s = .next t ∧ t.warp? c.iss.w = some w' ∧ w'.ended = true ∧ w'.handler = false ∧
        w'.saved = none ∧ (∀ sl ∈ w'.c.slices ++ w'.a.slices, sl.live = 0) ∧ t.memory = s.memory) ∧
      (∀ k, v = 2 → s.launch? c.iss.w.seq = some k → k.ended = false → free →
        (∀ q ∈ s.faultRecs, q.state = 1 → ¬(q.dom = c.grp.dom ∧ q.idx = idx)) →
        ∃ (t : State) (k' : Launch) (f : FaultRec), exec (.sys h e) s = .next t ∧ t.launch? c.iss.w.seq = some k' ∧ k'.ended = true ∧
          k'.status = some 0x0012 ∧ k'.detail = idx ∧ named t f ∧ f.state = 2) ∧
      (v = 3 → c.warp.storesOut = false → free → ∃ (t : State) (w' : Warp) (f : FaultRec), exec (.sys h e) s = .next t ∧
        t.warp? c.iss.w = some w' ∧ w'.handler = false ∧ w'.parkedFor = true ∧ w'.record = some idx ∧ w'.pending = [] ∧ w'.c.stopped = true ∧
        w'.a.stopped = true ∧ w'.saved = c.warp.saved ∧ named t f ∧ f.state = 1) ∧
      ((v = 2 ∧ ¬ free) ∨ (v = 3 ∧ (c.warp.storesOut = true ∨ ¬ free)) → exec (.sys h e) s = .next s)) ∧
    (c.pushGate e.dk.toNat = .go →
      let t := s.dieTime c.grp.die
      let hi (v : Word64) : Word := v.extractLsb' 32 32
      (e.sube = 0 → Ctx.gives { c with warp := { c.warp with clkHi := hi t } } (exec (.clk h e) s) s h e.dk e.fs [] fun _ => t.extractLsb' 0 32) ∧
      (e.sube = 1 → gives (exec (.clk h e) s) s h e.dk e.fs [] fun _ => c.warp.clkHi) ∧
      (e.sube = 2 → gives (exec (.clk h e) s) s h e.dk e.fs [] fun _ => s.tofs (e.imm16.toNat % 16)) ∧
      (e.sube = 3 → gives (exec (.clk h e) s) s h e.dk e.fs [] fun _ => BitVec.ofNat 32 (s.now - max (s.die c.grp.die).leftReset s.module.poweredAt)) ∧
      (∀ v, v = s.perfValue c.grp (e.imm16.toNat % 64) → (e.sube = 0 →
        Ctx.gives { c with warp := { c.warp with perfHi := hi v } } (exec (.perf h e) s) s h e.dk e.fs [] fun _ => v.extractLsb' 0 32)) ∧
      (e.sube ≠ 0 → gives (exec (.perf h e) s) s h e.dk e.fs [] fun _ =>
        if (s.domain c.grp.dom).grant.getLsbD (e.imm16.toNat % 64) then c.warp.perfHi else 0) ∧
      ((s.domain c.grp.dom).grant.getLsbD (e.imm16.toNat % 64) = false → s.perfValue c.grp (e.imm16.toNat % 64) = 0)) ∧
    (∀ x : Half → Warp → Warp, (∀ v w, x v w = { w with y := w.y.set! 15 ((w.y.getD 15 0).extractLsb' 16 16 ++ v) }) →
      (c.lqGate (lqNeed [e.sa]) = .go → exec (.setxv h e) s = .next (c.finish h nextPc s (x ((c.aOf 0 e.sa l).extractLsb' 0 16)
        (c.popLq (lqPops [e.sa]) c.warp)))) ∧
      exec (.setxvImm h e) s = .next (c.finish h nextPc s (x e.imm16 c.warp))) ∧
    exec (.sleep h e) s = .next (c.finish h nextPc s (c.warp.modStrand c.iss.strand fun t => { t with sleepEnd := some (s.now + e.imm16.toNat) }))) ∧
  (∀ (s : State) (k : WarpKey) (st : Strand) (w : Warp) (n : Nat), s.warp? k = some w → (w.strand st).sleepEnd = some n →
    (n ≤ s.now → ∃ t : State, exec (.sleepExpire k st) s = .next t ∧
      (t.warp? k).map (fun v => v.strand st) = some { w.strand st with sleepEnd := none } ∧ { t with groups := s.groups } = s) ∧
    (s.now < n → exec (.sleepExpire k st) s = .next s))

/-- (R23, R106, R219, R253, R254) A row of the E formats with no executing lane, SYS and TOPO among them, has no effect but its coupling queues' and its pushes of zeros.
(The model's own readings in it: log 33.) -/
def Obligations.EmptyGuardsComplete : Prop :=
  ∀ (s : State) (c : Ctx) (h : Hdr) (e : FormE), s.ctx? = some c → c.firstLane? h = none →
    (c.pushGate e.dk.toNat = .go → ∀ i, i ∈ [Instr.rtake h e, .rstat h e, .estat h e, .await h e, .clk h e, .perf h e] →
      c.gives (exec i s) s h e.dk e.fs [] fun _ => 0) ∧
    (c.lqGate (lqNeed [e.sa]) = .go → c.pushGate e.dk.toNat = .go → c.gives (exec (.ared h e) s) s h e.dk e.fs [e.sa] fun _ => 0) ∧
    (∀ i, i ∈ [Instr.rcloseWin h e, .rclosePort h e, .eopenClose h e, .edone h e, .setxvImm h e] → exec i s = .next (c.finish h nextPc s c.warp)) ∧
    (c.lqGate (lqNeed [e.sa]) = .go → ∀ i, i ∈ [Instr.route h e, .eopenOpen h e, .setxv h e] →
      exec i s = .next (c.finish h nextPc s (c.popLq (lqPops [e.sa]) c.warp))) ∧
    (c.lqGate (lqNeed [e.sa, e.sb]) = .go → exec (.rret h e) s = .next (c.finish h nextPc s (c.popLq (lqPops [e.sa, e.sb]) c.warp))) ∧
    (c.lqGate (lqNeed [e.sa, e.sb, e.sc]) = .go → exec (.epush h e) s = .next (c.finish h nextPc s (c.popLq (lqPops [e.sa, e.sb, e.sc]) c.warp))) ∧
    c.popsTo (exec (.epop h e) s) s h e.fs.toNat [] 0 ∧
    (c.pushGate e.dk.toNat = .go → e.sube = 0 → (e.imm16.toNat ≤ 3 ∨ (c.warp.handler = true ∧ 0x100 ≤ e.imm16.toNat ∧ e.imm16.toNat ≤ 0x106)) →
      c.gives (exec (.sys h e) s) s h e.dk e.fs [] fun _ => 0) ∧
    (c.lqGate (lqNeed [e.sa]) = .go → c.pushGate e.dk.toNat = .go →
      ((e.sube = 1 ∧ (e.imm16 = 1 ∨ e.imm16 = 2)) ∨ (c.warp.handler = true ∧ e.imm16 = 0x110 ∧ e.sube = 2 ∧ e.dk = 7) →
        c.gives (exec (.sys h e) s) s h e.dk e.fs [e.sa] fun _ => 0) ∧
      c.gives (exec (.topo h e) s) s h e.dk e.fs [e.sa] fun _ => 0)

/-- (R50, R53, R80, R97, R98, R257, R357) TRAP raises 0x48 and BKPT 0x40 with IMM16 in AUX; RETT outside handler mode 0x20 with its opcode, and in it
holds its slices until the strand returns, once what the handler stored is in its block; a word with no instruction raises 0x20 with OP in AUX, a fetch that fails 0x10 with access 3. Each
cause names the lowest issuing slice and its PC, counts as not done, stops the strand, and changes no register and no memory.
Completion said for: trap, bkpt, rett, unassignedOpcode, instructionFetchFault.
(The model's own readings in it: log 15.) -/
def Obligations.TrapsRaise : Prop :=
  ∀ (s : State) (c : Ctx) (h : Hdr) (e : FormE), s.ctx? = some c →
    let one (i : Instr) (code aux : Nat) : Prop := ∃ (t : State) (r : Raised) (w : Warp), exec i s = .next t ∧ t.warp? c.iss.w = some w ∧
      w.pending = c.warp.pending ++ [r] ∧ (w.strand c.iss.strand).stopped = true ∧ w.lanes = c.warp.lanes ∧ w.y = c.warp.y ∧ w.m = c.warp.m ∧
      w.g = c.warp.g ∧ { t with groups := s.groups } = s ∧ (∀ k, k ≠ c.iss.w → t.warp? k = s.warp? k) ∧
      r.code = code ∧ r.aux = aux ∧ r.strand = c.iss.strand ∧ r.done = false ∧ r.gang = c.slices ∧ r.slice = c.slices.headD 0 ∧
      r.pc = (c.st.slice (c.slices.headD 0)).pc
    one (.trap h e) 0x48 e.imm16.toNat ∧ one (.bkpt h e) 0x40 e.imm16.toNat ∧
    (c.warp.handler = false → one (.rett h e) 0x20 0x1E6) ∧
    (c.warp.handler = true → c.warp.storesOut = false →
      exec (.rett h e) s = .next ((c.finish h (fun _ sl => { sl with hold := .rett (e.sube == 1) }) s c.warp).handlerEnds c.iss.w)) ∧
    (c.warp.handler = true → c.warp.storesOut = true → exec (.rett h e) s = .next s) ∧
    (∀ op, one (.unassignedOpcode op) 0x20 op.toNat) ∧
    (∀ walk va, (s.fetch c).2 = .fault walk va →
      ∃ (r : Raised), exec .instructionFetchFault s = .next (c.raise (s.fetch c).1 r) ∧ r.code = 0x10 ∧ r.walk = walk ∧ r.va = va ∧ r.access = 3 ∧ r.done = false)

/-- (R50, R217, R350, R351, R353 to R355, R358, R361, R364) CAUSE_TAKEN takes the lowest pending cause of a warp whose results are in: the handler starts with
the cause register, mode word and PCs of its object, the context block written and the trapped strands saved; a host cause holds the warp on
the next fault record, or waits while that is not free; 0x50 names the warp for eviction; a cause in handler mode ends the launch with 0x0012.
Of several of one code the C-strand's, of the lowest slice and its lowest lane, is taken. 0x01 clears the check that raised it, and no other.
With a long result outstanding, with an instruction midway in its walks, or once 0x50 is taken, nothing is taken.
Completion said for: causeTaken.
(The model's own readings in it: log 13, 14, 15, 36, 37, 62.) -/
def Obligations.CausesTaken : Prop :=
  ∀ (s : State) (k : WarpKey) (g : Group) (w : Warp), s.group? k.group = some g → g.warp? k = some w → w.gone = false →
    ((w.longs ≠ [] ∨ w.evictNamed = true ∨ w.midway = true) → exec (.causeTaken k) s = .next s) ∧
    (w.longs = [] → (∀ q ∈ w.lanes, ∀ x ∈ q.lq, x.data.isSome = true) → w.held = false → w.parkedFor = false → w.evicted = false →
      w.evictNamed = false → w.midway = false →
      (∀ r, r ∈ w.pending → w.asyncs = [] → (∀ q ∈ w.pending, q = r ∨ r.code < q.code ∨ (q.code = r.code ∧
          ((r.strand = .c ∧ q.strand = .a) ∨ (r.strand = q.strand ∧ 64 * r.slice + r.lane < 64 * q.slice + q.lane)))) → r.code ∉ [0x50, 0x51] →
        (w.handler = false → r.code ≠ 0x10 → (r.code ≠ 0x11 ∨ r.aux = 0xFFFF) →
          ∃ (t : State) (w' : Warp) (v : Saved), exec (.causeTaken k) s = .next t ∧ t.warp? k = some w' ∧ w'.handler = true ∧
            w'.cause = causeWord r.code r.slice r.strand r.aux ∧ w'.mode = (handlerEntry (s.handlerImage w.width)).2.2 ∧ w'.pending = [] ∧
            w'.busy = [] ∧ w'.record = none ∧ w'.saved = some v ∧ v.mode = w.mode ∧ v.cause = w'.cause ∧
            v.c.map (·.pc) = w.c.slices.map (·.pc) ∧ v.a.map (·.pc) = w.a.slices.map (·.pc) ∧
            v.issued = r.gang ∧ v.issuedStrand = r.strand ∧ v.advance = (!r.done) ∧ v.kept = w.pending.filter (fun q => q.done && q.code != r.code) ∧
            (∀ sl ∈ w'.c.slices, sl.pc = (handlerEntry (s.handlerImage w.width)).1) ∧
            (∀ sl ∈ w'.a.slices, sl.pc = (handlerEntry (s.handlerImage w.width)).2.1) ∧
            (∀ i, i < w.width / 4 → (w'.c.slice i).live = (if (w.c.slice i).live ≠ 0 ∨ (w.a.slice i).live ≠ 0 ∨
              (∀ j < w.width / 4, (w.c.slice j).live = 0 ∧ (w.a.slice j).live = 0) then 15 else 0)) ∧
            w'.lanes = startLanes w.width (BitVec.ofNat 64 w.ctx) g.key.grp w.key.warp g.phase ∧
            w'.y = startY g.key.grp w.key.warp g.cohortNo g.slot (BitVec.ofNat 64 w.ctx) g.phase w.width ∧
            w'.machineCheck = (if r.check = some .warp then none else w.machineCheck) ∧
            (∀ x, x ∈ w'.latchCheck ↔ x ∈ w.latchCheck ∧ ∀ b, r.check = some (.latch b) → x ≠ (b, r.aux)) ∧
            (t.memory = ((s.coreEvent g.die g.core 11 g.dom 1).vStore (g.die, g.core) g.dom w.ctx
              ({ w with cause := w'.cause }.block 1 0xFFFFFFFF)).memory)) ∧
        (w.handler = false → (r.code = 0x10 ∨ (r.code = 0x11 ∧ r.aux ≠ 0xFFFF)) →
          (s.faultFree g.dom (s.nextFault g.dom) = false → exec (.causeTaken k) s = .next s) ∧
          (s.faultFree g.dom (s.nextFault g.dom) = true →
            ∃ (t : State) (w' : Warp) (f : FaultRec), exec (.causeTaken k) s = .next t ∧ t.warp? k = some w' ∧ w'.held = true ∧
              w'.record = some (s.nextFault g.dom) ∧ w'.lanes = w.lanes ∧ w'.y = w.y ∧ w'.m = w.m ∧ w'.g = w.g ∧ w'.pending = [] ∧
              w'.cause = causeWord r.code r.slice r.strand (s.nextFault g.dom) ∧ (t.domain g.dom).faults = (s.domain g.dom).faults + 1 ∧
              f ∈ t.faultRecs ∧ f.dom = g.dom ∧ f.idx = s.nextFault g.dom ∧ f.kind = 0 ∧ f.state = 1 ∧ f.code = r.code ∧ f.w = some k)) ∧
        (∀ l, w.handler = true → s.launch? k.seq = some l → l.ended = false → s.faultFree g.dom (s.nextFault g.dom) = true → w.key = k →
          ∃ (t : State) (l' : Launch), exec (.causeTaken k) s = .next t ∧ t.launch? k.seq = some l' ∧ l'.ended = true ∧ l'.status = some 0x0012 ∧
            l'.detail = s.nextFault g.dom)) ∧
      (w.pending = [] → w.handler = false → w.c.first = false → w.a.first = false →
        (w.asyncs = [0x41] → ∃ (t : State) (w' : Warp), exec (.causeTaken k) s = .next t ∧ t.warp? k = some w' ∧ w'.handler = true ∧ w'.cause = 0x41 ∧
          w'.asyncs = []) ∧
        (w.asyncs = [0x50] → ∃ (t : State) (w' : Warp), exec (.causeTaken k) s = .next t ∧ t.warp? k = some w' ∧ w'.evictNamed = true ∧ w'.asyncs = [] ∧
          w'.lanes = w.lanes ∧ w'.cause = w.cause ∧ t.memory = s.memory)))

/-- (R50, R357, R359, R360, R385) When both strands of a handler have returned, the warp is reloaded from its context block: x registers, queues, frames, lane
status, y registers and masks as the block has them, its kernel's mode, the cause register empty after a handler or a parking and else as it was, the kept causes pending; each slice resumes at
the block's PC, one further after RETT.next in the slices that issued an uncompleted trapping instruction, and a slice for which nothing ends
there goes on from it. When both have exited the warp retires, and poison met before is still taken (R385).
(The model's own readings in it: log 15, 37, 63.) -/
def Obligations.HandlerReturns : Prop :=
  (∀ (s : State) (k : WarpKey) (g : Group) (w : Warp), s.group? k.group = some g → g.warp? k = some w →
    (w.handler = false → s.handlerEnds k = s) ∧
    (w.handler = true → w.c.exited = false → w.c.returned = true → w.a.returned = true →
      s.handlerEnds k = (({ s with free := s.free + 2 * freeStep }).modWarp w.key fun _ =>
        ((s.reload g.dom w (w.c.slices.any fun (sl : Slice) => sl.live != 0 && sl.hold == Hold.rett true)).resumeAt .c s.free).resumeAt .a (s.free + freeStep)).barriers g.key) ∧
    (w.handler = true → w.c.exited = true → w.a.exited = true → s.handlerEnds k = (s.modWarp k Warp.retire).barriers k.group)) ∧
  (∀ (w : Warp) (st : Strand) (free i : Nat), i < (w.strand st).slices.length → ((w.strand st).slice i).goesOn = true →
    ((w.strand st).slice i).live ≠ 0 → ∃ g, ((w.resumeAt st free).strand st).slice i = { (w.strand st).slice i with gang := g }) ∧
  (∀ w : Warp, w.retire.ended = true ∧ w.retire.handler = false ∧ w.retire.cause = 0 ∧ w.retire.bothExited = true ∧
    ∀ r, r ∈ w.retire.pending ↔ r.code = 0x08 ∧ ∃ v, w.saved = some v ∧ r ∈ v.kept) ∧
  (∀ (s : State) (dom : Nat) (w : Warp) (v : Saved) (move : Bool), w.saved = some v →
    let r := s.reload dom w move
    let at_ (off : Nat) : Word := BitVec.ofNat 32 (s.vNat dom (w.ctx + off) 4)
    r.handler = false ∧ r.saved = none ∧ r.cause = (if w.handler || w.parkedFor then 0 else w.cause) ∧ r.mode = v.mode ∧ r.pending = v.kept ∧ r.busy = [] ∧ r.record = none ∧ r.held = false ∧
    r.evicted = false ∧ r.lanes.length = w.width ∧
    (∀ l i : Nat, l < w.width → i < 32 → (r.lane l).x.getD i 0 = at_ (0x200 + 512 * l + 0xA0 + 4 * i) ∧
      (r.lane l).f.getD i 0 = at_ (0x200 + 512 * l + 0x20 + 4 * i) ∧ (i < 8 → (r.lane l).a.getD i 0 = at_ (0x200 + 512 * l + 4 * i))) ∧
    (∀ i : Nat, i < 16 → r.y.getD i 0 = at_ (0x180 + 4 * i)) ∧
    (∀ i : Nat, 0 < i → i < 8 → r.m.getD i 0 = BitVec.ofNat 64 (s.vNat dom (w.ctx + 0x100 + 8 * i) 8) &&& widthMask w.width ∧
      r.g.getD i 0 = BitVec.ofNat 64 (s.vNat dom (w.ctx + 0x140 + 8 * i) 8) &&& widthMask w.width) ∧
    (∀ i : Nat, i < v.c.length → i < 16 → (r.c.slice i).pc = at_ (0x10 + 4 * i) +
      if move = true ∧ v.advance = true ∧ v.issuedStrand = .c ∧ i ∈ v.issued then 1 else 0) ∧
    (∀ i : Nat, i < v.a.length → i < 16 → (r.a.slice i).pc = at_ (0x50 + 4 * i) +
      if move = true ∧ v.advance = true ∧ v.issuedStrand = .a ∧ i ∈ v.issued then 1 else 0))

/-- (R337, R339, R341, R351, R358) The sets of a core: with room in the active set the head of the pending set enters it; with none, an idle group that
parks or sleeps is swapped for the head; a group whose time slice is over gets 0x51 in its warps, and a warp that takes it has its group swapped;
a pre-emption names by 0x50 a warp that the Crown would evict first for work that finds no room, always one of a group of lower priority. No register and no byte of memory changes.
Completion said for: groupSwap, timeSliceExpiry, preemptionRequest.
(The model's own readings in it: log 14, 35, 38, 69.) -/
def Obligations.ScheduleEvents : Prop :=
  (∀ (s : State) (die core : Nat), let c := s.core die core
    (c.pending = [] → exec (.groupSwap die core) s = .next s) ∧
    (∀ k g, c.active.length < 8 → s.pendingHead c = some k → s.group? k = some g →
      ∃ (t : State) (g' : Group), exec (.groupSwap die core) s = .next t ∧ t.memory = s.memory ∧ t.group? k = some g' ∧ g'.active = true ∧
        k ∈ (t.core die core).active ∧ k ∉ (t.core die core).pending ∧ g'.warps.map (·.lanes) = g.warps.map (·.lanes)) ∧
    (∀ g n q, 8 ≤ c.active.length → (c.active.filterMap s.group?).find? (fun g => g.warps.any Warp.parks && s.groupIdle g) = some g →
      s.pendingHead c = some n → n ≠ g.key → g.die = die → g.core = core → s.group? n = some q →
      ∃ (t : State) (q' : Group), exec (.groupSwap die core) s = .next t ∧ t.memory = s.memory ∧
        (t.core die core).active = c.active.filter (· != g.key) ++ [n] ∧ (t.core die core).pending = c.pending.filter (· != n) ++ [g.key] ∧
        t.group? n = some q' ∧ q'.active = true ∧ q'.warps.map (·.lanes) = q.warps.map (·.lanes))) ∧
  (∀ (s : State) (k : GroupKey) (g : Group), s.group? k = some g →
    (g.active = true → s.sliceUnits ≠ 0 → g.entered + 1024 * s.sliceUnits ≤ s.now → (s.core g.die g.core).pending ≠ [] →
      (∃ w ∈ g.warps, w.gone = false ∧ w.evicted = false) →
      ∃ (t : State) (g' : Group), exec (.timeSliceExpiry k) s = .next t ∧ t.group? k = some g' ∧ g'.warps.map (·.lanes) = g.warps.map (·.lanes) ∧
        t.memory = s.memory ∧ ∀ (i : Nat) (w : Warp), g.warps[i]? = some w → ∃ (w' : Warp), g'.warps[i]? = some w' ∧
          w'.asyncs = if w.gone || w.evicted || w.asyncs.contains 0x51 then w.asyncs else w.asyncs ++ [0x51]) ∧
    ((g.active = false ∨ s.sliceUnits = 0 ∨ s.now < g.entered + 1024 * s.sliceUnits ∨ (s.core g.die g.core).pending = []) →
      exec (.timeSliceExpiry k) s = .next s) ∧
    (∀ w, g.warps = [w] → w.key.group = k → w.asyncs = [0x51] → w.pending = [] → w.longs = [] → (∀ q ∈ w.lanes, ∀ x ∈ q.lq, x.data.isSome = true) →
      w.held = false → w.parkedFor = false → w.evicted = false → w.handler = false → w.c.first = false → w.a.first = false → w.gone = false →
      w.evictNamed = false → w.midway = false → g.key = k → ∃ (t : State) (w' : Warp), exec (.causeTaken w.key) s = .next t ∧ t.memory = s.memory ∧ t.warp? w.key = some w' ∧ w'.asyncs = [] ∧
        w'.cause = w.cause ∧ w'.lanes = w.lanes)) ∧
  (∀ (s : State) (die core : Nat) (k : WarpKey),
    ((∀ x ∈ s.works, s.dieFor x = none → ∀ d cs, s.evictFor x = some (d, cs) → d = die → ∀ c ∈ cs, c.1 = core → c.2.1.head? ≠ some k) →
      exec (.preemptionRequest die core k) s = .next s) ∧
    (∀ x cs c, x ∈ s.works → s.dieFor x = none → s.evictFor x = some (die, cs) → c ∈ cs → c.1 = core → c.2.1.head? = some k →
      exec (.preemptionRequest die core k) s = .next (s.modWarp k fun w => { w with asyncs := w.asyncs ++ [0x50] }))) ∧
  (∀ (s : State) (die core prio : Nat), ∀ k ∈ s.evictOrder die core prio, ∃ g ∈ s.groups, g.die = die ∧ g.core = core ∧ g.prio < prio ∧
    ∃ w ∈ g.warps, w.key = k ∧ w.evictable = true)

/-- (R190, R342, R359, R364 to R366) A warp named for eviction, with its results in and no matrix operation left, goes to its context block and gives its
rows back; when every warp of a group has gone or is evicted, its scratch goes to its save area with its accumulator rows and its stages' counts and status words, in which the copies that the
eviction suspends count, and its rows are given back; a restored
group gets its scratch back, and a warp its registers, from memory.
Completion said for: warpEvict, groupRowsEvict, groupRestore.
(The model's own readings in it: log 36, 37.) -/
def Obligations.EvictionAndRestoration : Prop :=
  (∀ (s : State) (k : WarpKey) (g : Group) (w : Warp), s.group? k.group = some g → g.warp? k = some w → w.evicted = false → w.handler = false →
    ((w.evictNamed = false ∧ 0x50 ∉ w.asyncs) → exec (.warpEvict k) s = .next s) ∧
    (w.longs ≠ [] → exec (.warpEvict k) s = .next s) ∧
    (w.evictNamed = true → w.longs = [] → (∀ q ∈ w.lanes, ∀ x ∈ q.lq, x.data.isSome = true) → (∀ m ∈ s.matOps, m.w ≠ k) →
      w.held = false → w.parkedFor = false →
      ∃ (t : State) (g' : Group) (w' : Warp) (v : Saved), exec (.warpEvict k) s = .next t ∧ t.group? k.group = some g' ∧ g'.warp? k = some w' ∧
        w'.evicted = true ∧ w'.evictNamed = false ∧ w'.saved = some v ∧ v.mode = w.mode ∧ v.c.map (·.pc) = w.c.slices.map (·.pc) ∧
        v.a.map (·.pc) = w.a.slices.map (·.pc) ∧ g'.rowMap.length = g.rowMap.length ∧
        (∀ i : Nat, g'.rowMap[i]? = if w.rfFirst ≤ i ∧ i < w.rfFirst + rowsPerWarp w.width then (g.rowMap[i]?).map (fun _ => none) else g.rowMap[i]?) ∧
        t.memory = (s.vStore (g.die, g.core) g.dom w.ctx (w.block 4 0xFFFFFFFF)).memory)) ∧
  (∀ (s : State) (k : GroupKey) (g : Group), s.group? k = some g →
    ((∃ w ∈ g.warps, w.evicted = false ∧ w.gone = false) → exec (.groupRowsEvict k) s = .next s) ∧
    (g.rowsOut = false → (∀ w ∈ g.warps, w.evicted = true ∨ w.gone = true) → (∃ w ∈ g.warps, w.evicted = true) → s.openWindow g = false →
      (∀ c ∈ s.copies, c.inRegion k = true → c.run = .running ∧ c.atBoundary = true) → (∀ o ∈ s.matOps, o.w.group ≠ k) →
      ∃ (t : State) (g' : Group) (acc stages : List Byte), exec (.groupRowsEvict k) s = .next t ∧ t.group? k = some g' ∧ g'.rowsOut = true ∧
        g'.scratch = [] ∧ g'.rowMap = g.rowMap.map (fun _ => none) ∧
        t.memory = (s.vStore (g.die, g.core) g.dom g.saveArea (s.scratchRead k 0 g.scBytes ++ acc ++ stages)).memory ∧ stages.length = 64 ∧
        (∀ i : Nat, i < 8 → leAt stages (8 * i) 4 = (g.stages.getD i Stage.zero).count.toNat ∧
          (leAt stages (8 * i + 4) 4 % 2 = 1 ↔ ∃ c ∈ s.copies, c.g = k ∧ c.stage = some i ∧ (c.run ≠ .running ∨ c.inRegion k = true))) ∧
        t.copies = s.copies.map fun c => if c.inRegion k then { c with run := .evictHold, done := [] } else c)) ∧
  (∀ (s : State) (k : GroupKey) (g : Group) (w : Warp), s.group? k = some g → g.warps = [w] → w.key.group = k → g.key = k → w.evicted = true →
    s.isLive g.die = true → s.waitedFor g = false →
    (g.rowsOut = true → w.held = false → w.parkedFor = false → (∀ c ∈ s.copies, c.inRegion k = false) → g.rowMap.length - rowsPerWarp g.width ≤ s.coreFree g.die g.core →
      ∃ (t : State) (g' : Group), exec (.groupRestore k) s = .next t ∧ t.group? k = some g' ∧ g'.rowsOut = false ∧
        g'.scratch = cellWrites [] 0 (s.vBytes g.dom g.saveArea g.scBytes)) ∧
    (∀ v, g.rowsOut = false → rowsPerWarp w.width ≤ s.coreFree g.die g.core → w.held = false → w.parkedFor = false → w.saved = some v →
      ∃ (t : State) (w' : Warp), exec (.groupRestore k) s = .next t ∧ t.warp? w.key = some w' ∧ w'.evicted = false ∧ w'.mode = v.mode ∧ t.memory = s.memory ∧
        ∀ l i : Nat, l < w.width → i < 32 → (w'.lane l).x.getD i 0 = BitVec.ofNat 32 (s.vNat g.dom (w.ctx + 0x200 + 512 * l + 0xA0 + 4 * i) 4)))

/-- (R41 to R45, R46, R248, R267, R282, R321, R324, R335) A phase end of a group alone writes its carried state behind its record, gives back its rows and
takes 1 from its task's count, also in the record, a count of 0 making it ready; a group whose warps have all exited, with nothing outstanding, retires; a launch
whose groups have retired completes with 0x0000, or 0x0013 when its successor store faults, once what its dies sent home has got there and the
store's page is in no transition. A launch that was ended owes its record, or the successor store of a resident one that has reported, until its
writes are performed.
Completion said for: phaseEndComplete, groupRetire, launchComplete.
(The model's own readings in it: log 34, 36, 44, 81.) -/
def Obligations.GroupsEnd : Prop :=
  (∀ (s : State) (k : GroupKey) (g : Group) (l : Launch) (ph : Phase) (t0 : Task), s.group? k = some g → g.key = k → g.cohort = [k.grp] →
    s.launch? k.seq = some l → l.code.phases.find? (·.id == g.phase) = some ph → s.task? k = some t0 → 0 < t0.count →
    ((∃ w ∈ g.warps, w.phased = false ∧ w.gone = false) → exec (.phaseEndComplete k) s = .next s) ∧
    (s.phaseWaits g = true → exec (.phaseEndComplete k) s = .next s) ∧
    ((∀ w ∈ g.warps, w.phased = true ∨ w.gone = true) → (∃ w ∈ g.warps, w.phased = true) → s.phaseWaits g = false →
      ∃ (t : State), exec (.phaseEndComplete k) s = .next t ∧ t.group? k = none ∧
        t.task? k = some { t0 with phaseOver := true, cohort := [k.grp], home := g.firstLoad, count := t0.count - 1 } ∧
        t.ready = s.ready ++ (if t0.count = 1 then [k] else []) ∧
        let s1 := s.vStore (g.die, g.core) g.dom (g.recAt + 0x80) (s.carryBytes g ph.carry)
        let s2 := s1.modTask k fun t => { t with phaseOver := true, cohort := [k.grp], home := g.firstLoad }
        t.memory = (((s2.removeGroup k true).letIn g.die g.core).vStore panelSite l.dom (t0.recAt + 8) (leBytes 4 (t0.count - 1))).memory)) ∧
  (∀ (s : State) (k : GroupKey) (g : Group) (l : Launch), s.group? k = some g → g.key = k → s.launch? k.seq = some l →
    ((∃ w ∈ g.warps, w.gone = false) → exec (.groupRetire k) s = .next s) ∧
    ((∃ c ∈ s.copies, c.g = k) → exec (.groupRetire k) s = .next s) ∧
    ((∀ w ∈ g.warps, w.gone = true) → (∀ c ∈ s.copies, c.g ≠ k) → s.openWindow g = false →
      (∀ w ∈ g.warps, ∀ a ∈ w.accs, a.kind ≠ .atom ∧ a.kind ≠ .red) →
      ∃ (t : State) (l' : Launch), exec (.groupRetire k) s = .next t ∧ t.group? k = none ∧ t.task? k = none ∧ t.launch? k.seq = some l' ∧
        l'.retired = l.retired + 1 ∧ t.memory = s.memory ∧ ∀ j, j ≠ k →
          (t.group? j).map (fun q => (q.scratch, q.warps.map (·.lanes))) = (s.group? j).map fun q => (q.scratch, q.warps.map (·.lanes)))) ∧
  (∀ (s : State) (seq : Nat) (l : Launch), s.launch? seq = some l → l.started = true → l.ended = false →
    ((l.retired ≠ l.groups ∨ l.orphans ≠ [] ∨ (∃ t ∈ s.tasks, t.g.seq = seq) ∨ ∃ o ∈ s.matOps, o.w.seq = seq) →
      exec (.launchComplete seq) s = .next s) ∧
    (l.retired = l.groups → l.orphans = [] → (∀ t ∈ s.tasks, t.g.seq ≠ seq) → (∀ o ∈ s.matOps, o.w.seq ≠ seq) →
      let s1 := s.flushDies l.dies
      let ends (status : Nat) : Prop := ∃ (t : State) (l' : Launch), exec (.launchComplete seq) s = .next t ∧ t.launch? seq = some l' ∧
        l'.ended = true ∧ l'.owed = false ∧ l'.status = some status ∧ (l.reported = false → t.recStatus l.win l.k = some status)
      (s1.flushing l = true → exec (.launchComplete seq) s = .next s1) ∧
      (s1.flushing l = false → (l.succAddr = 0 → ends 0) ∧
        (l.succAddr ≠ 0 → (s1.successorStore l = .wait → exec (.launchComplete seq) s = .next s1) ∧
          (s1.successorStore l = .fault → ends 0x0013) ∧ (∀ s2, s1.successorStore l = .made s2 → ends 0))))) ∧
  (∀ (s : State) (seq : Nat) (l : Launch), s.launch? seq = some l → l.ended = true →
    ((l.owed = false ∨ l.orphans ≠ [] ∨ ∃ o ∈ s.matOps, o.w.seq = seq) → l.seq = seq → exec (.launchComplete seq) s = .next s) ∧
    (l.owed = true → l.orphans = [] → (∀ o ∈ s.matOps, o.w.seq ≠ seq) → l.seq = seq →
      let s1 := s.flushDies l.dies
      let isOver : Prop := ∃ t : State, exec (.launchComplete seq) s = .next t ∧ t.launch? seq = some { l with owed := false } ∧
        (l.reported = false → t.recStatus l.win l.k = some (l.status.getD 0))
      (s1.flushing l = true → exec (.launchComplete seq) s = .next s1) ∧
      (s1.flushing l = false → ((l.reported = false ∨ l.succAddr = 0) → isOver) ∧
        (l.reported = true → l.succAddr ≠ 0 → (s1.successorStore l = .wait → exec (.launchComplete seq) s = .next s1) ∧
          (s1.successorStore l = .fault → isOver) ∧ (∀ s2, s1.successorStore l = .made s2 → isOver))))) ∧
  (∀ (s s2 : State) (l : Launch), s.successorStore l = .made s2 → ∃ (s1 : State) (p : Page), s.resolve (l.dies.headD 0) 0 l.dom l.succAddr = (s1, .ok p) ∧
    p.qz = false ∧ p.w = true ∧ p.fx = false ∧ s.inWorkspace l.dom l.succAddr = false ∧
    (s.memory.wf = true → ∀ i, i < 8 → s2.memory.byte (s1.visible edieReplica p (p.at_ l.succAddr) + i) = BitVec.ofNat 8 (l.succVal.toNat / 256 ^ i)))

/-- (R14, R36, R40, R43, R320, R327 to R331, R334, R336, R337) A launch that is first in its stream with its dependences met starts, or ends with
0x0011 without a workspace; a failed dependence ends it with 0x000C; else it waits.
What waits for placement is tried by descending priority and then in the order parsed, and nothing is placed while what comes before it fits.
The next group of a started launch that goes alone is placed on the die the Crown chooses: its warps stand at the phase's start state with its mode
and PCs in every lane, its scratch reads 0, the launch's count rises; elsewhere nothing happens. A cohort is placed whole, member by member. A
later phase that is ready is placed with its record's carried words, and its task starts anew.
Completion said for: launchStart, crownPlace.
(The model's own readings in it: log 35, 45, 69.) -/
def Obligations.LaunchesPlaced : Prop :=
  (∀ (s : State) (seq : Nat) (l : Launch), s.launch? seq = some l → l.started = false → l.ended = false →
    let failed := ∃ d ∈ l.deps, ∃ v, s.recStatus d.1 d.2 = some v ∧ 1 < v
    let met := (∀ d ∈ l.deps, s.recStatus d.1 d.2 ≠ none) ∧ ∀ q ∈ s.launches, q.win = l.win → q.order < l.order → q.streamDone = true
    (failed → ∃ (t : State) (l' : Launch), exec (.launchStart seq) s = .next t ∧ t.launch? seq = some l' ∧ l'.ended = true ∧ l'.status = some 0x000C ∧
      l'.owed = false ∧ (l.reported = false → t.recStatus l.win l.k = some 0x000C)) ∧
    (¬ failed → ¬ met → exec (.launchStart seq) s = .next s) ∧
    (¬ failed → met → (s.domain l.dom).work = none →
      ∃ (t : State) (l' : Launch), exec (.launchStart seq) s = .next t ∧ t.launch? seq = some l' ∧ l'.ended = true ∧ l'.status = some 0x0011 ∧
        l'.owed = false ∧ (l.reported = false → t.recStatus l.win l.k = some 0x0011)) ∧
    (¬ failed → met → (s.domain l.dom).work ≠ none →
      exec (.launchStart seq) s = .next { s with launches := updFirst (·.seq == seq) (fun l => { l with started := true }) s.launches })) ∧
  (∀ s : State, (∀ l ∈ s.launches, l.prio ≤ 7 ∧ l.order < 2 ^ 64) →
    s.works.Pairwise fun a b => b.launch.prio < a.launch.prio ∨ (b.launch.prio = a.launch.prio ∧ a.launch.order ≤ b.launch.order)) ∧
  (∀ (s : State) (k : GroupKey) (die : Nat) (sites : List PlaceSite),
    let mine (w : Work) : Bool := w.launch.seq == k.seq && w.members.head? == some k.grp
    (s.works.find? mine = none → exec (.crownPlace k die sites) s = .next s) ∧
    ((s.works.takeWhile fun v => !(mine v)).any s.fits = true → exec (.crownPlace k die sites) s = .next s) ∧
    (∀ w s1, s.works.find? mine = some w → (s.works.takeWhile fun v => !(mine v)).any s.fits = false →
      s.place w.launch w.phase die w.members w.cohortNo w.home sites = some s1 → w.later = false → w.members.Nodup →
      (∀ n ∈ w.members, s.group? ⟨w.launch.seq, n⟩ = none ∧ s.task? ⟨w.launch.seq, n⟩ = none) →
      ∃ t : State, exec (.crownPlace k die sites) s = .next t ∧ w.members.length = sites.length ∧
        ∀ i n x, w.members[i]? = some n → sites[i]? = some x → ∃ g, t.group? ⟨w.launch.seq, n⟩ = some g ∧ g.slot = i ∧ g.die = die ∧ g.core = x.core ∧
          g.cohort = w.members ∧ g.phase = w.phase.id)) ∧
  (∀ (s : State) (k : GroupKey) (die : Nat) (site : PlaceSite) (l : Launch) (ph : Phase), s.launch? k.seq = some l → l.started = true → l.ended = false →
    s.group? k = none → (s.launches.map (·.seq)).Nodup →
    (s.works.takeWhile fun v => !(v.launch.seq == k.seq && v.members.head? == some k.grp)).any s.fits = false →
    (s.task? k = none → l.perCohort = 1 → k.grp = l.placed → l.placed < l.groups → l.code.phases.find? (·.id == l.firstPhase) = some ph →
      let pref := s.preferred l k.grp none
      (s.placeDie l pref 1 ≠ some die → exec (.crownPlace k die [site]) s = .next s) ∧
      (s.placeDie l pref 1 = some die → s.siteOk l ph die site = false → exec (.crownPlace k die [site]) s = .next s) ∧
      (s.placeDie l pref 1 = some die → s.siteOk l ph die site = true →
        ∃ (t : State) (g : Group) (l' : Launch), exec (.crownPlace k die [site]) s = .next t ∧ t.group? k = some g ∧ t.launch? k.seq = some l' ∧
          l'.placed = l.placed + 1 ∧ g.die = die ∧ g.core = site.core ∧ g.dom = l.dom ∧ g.phase = ph.id ∧ g.width = l.code.width ∧ g.prio = l.prio ∧
          g.scratch = [] ∧ g.slot = 0 ∧ g.cohort = [k.grp] ∧ g.warps.length = l.warps ∧
          (∀ v w, g.warps[v]? = some w → w.key = ⟨k.seq, k.grp, v⟩ ∧ w.mode = ph.mode ∧ w.cause = 0 ∧ w.width = l.code.width ∧
            w.lanes = startLanes l.code.width l.param k.grp v ph.id ∧ w.y = startY k.grp v k.grp 0 l.param ph.id l.code.width ∧
            w.pending = [] ∧ w.accs = [] ∧ w.longs = [] ∧ w.handler = false ∧
            (∀ sl ∈ w.c.slices, sl.pc = BitVec.ofNat 32 (ph.c / 8) ∧ sl.live = 15 ∧ sl.active = 15) ∧
            (∀ sl ∈ w.a.slices, sl.pc = BitVec.ofNat 32 (ph.a / 8) ∧ sl.live = 15 ∧ sl.active = 15)))) ∧
    (∀ t0, s.task? k = some t0 → k.grp < l.placed → t0.phaseOver = true → t0.cohort = [k.grp] → k ∈ s.ready →
      l.code.phases.find? (fun p => some p.id == t0.next) = some ph →
      s.placeDie l (s.preferred l k.grp t0.home) 1 = some die → (s.freed (some t0)).siteOk l ph die site = true →
      ∃ (t : State) (g : Group) (t1 : Task), exec (.crownPlace k die [site]) s = .next t ∧ t.group? k = some g ∧ g.phase = ph.id ∧ g.die = die ∧
        g.core = site.core ∧ k ∉ t.ready ∧ t.task? k = some t1 ∧ t1.count = 1 ∧ t1.holds = 0 ∧ t1.next = none ∧ t1.phaseOver = false ∧
        t1.recAt = site.recAt ∧ t1.area = site.area ∧
        let k0 := s.readCarried l.dom t0.recAt l.warps l.code.width (scOf l.rows)
        g.scratch = k0.scratch (scOf l.rows) ∧
        ∀ v w, g.warps[v]? = some w → w.lanes = mapIdxList (k0.lane l.warps l.code.width v) (startLanes l.code.width l.param k.grp v ph.id)))

/-- (R14, R28, R39, R104, R307, R315 to R318, R322, R323, R325) A launch record of a bound window that passes the checks is accepted: the launch takes the next
sequence number, which then passes over 0, with the record's fields; one that fails a check completes with the error code and takes no number.
A record of an unknown kind completes with 0x0001 and an unknown command with 0x000A. A command with a nonzero byte outside its operands, or a
domain over 63, completes with 0x0020 and changes nothing. A completion record goes to its ring entry with the sequence byte.
A launch record waits while a page of its code object is in transition. The checks are applied in ascending order of their codes, each with the
offset of the field at fault.
Completion said for: launch, unknownRecord.
(The model's own readings in it: log 36, 39.) -/
def Obligations.RecordsComplete : Prop :=
  (∀ (s : State) (win : Nat) (r : Record), s.bound win = true → r.nat 2 1 < 64 → s.codeReach (r.nat 2 1) (r.nat 8 8) = none →
    exec (.launch win r) s = .next s) ∧
  (∀ (s0 s : State) (win : Nat) (r : Record), s0.bound win = true → (r.nat 2 1 < 64 → s0.codeReach (r.nat 2 1) (r.nat 8 8) = some s) →
    (64 ≤ r.nat 2 1 → s = s0) →
    let code := if r.nat 2 1 < 64 then s.codeObject (r.nat 2 1) (r.nat 8 8) else none
    partWrote s0 s ∧
    (∀ k, code = some k → s.launchError win r code = none →
      ∃ (t : State) (l : Launch), exec (.launch win r) s0 = .next t ∧ t.memory = s.memory ∧ t.groups = s.groups ∧ t.launch? s.nextSeq = some l ∧
        t.nextSeq = (if s.nextSeq = 0xFFFFFFFF then 1 else s.nextSeq + 1) ∧ l.seq = s.nextSeq ∧ l.win = win ∧ l.k = (s.window win).next ∧
        l.dom = r.nat 2 1 ∧ l.prio = r.nat 1 1 % 8 ∧ l.code = k ∧ l.firstPhase = r.nat 0x18 2 ∧ l.warps = r.nat 0x1B 1 ∧ l.groups = r.nat 0x20 4 ∧
        l.perCohort = r.nat 0x24 1 ∧ l.param = BitVec.ofNat 64 (r.nat 0x28 8) ∧ l.dies = r.dieMask ∧ l.succAddr = r.nat 0xC8 8 ∧
        l.started = false ∧ l.ended = false ∧ l.placed = 0 ∧ l.retired = 0 ∧ t.recStatus win (s.window win).next = none ∧
        (t.window win).next = (s.window win).next + 1) ∧
    (∀ e, s.launchError win r code = some e →
      ∃ t : State, exec (.launch win r) s0 = .next t ∧ s.finishedRecord t win e.1 ∧ t.launches = s.launches ∧ t.nextSeq = s.nextSeq ∧ t.memory = s.memory) ∧
    (∃ t : State, exec (.unknownRecord win r) s = .next t ∧ s.finishedRecord t win (if r.nat 0 1 = 2 then 0x000A else 0x0001) ∧ t.launches = s.launches ∧
      t.memory = s.memory ∧ t.groups = s.groups)) ∧
  (∀ (s : State) (win : Nat) (r : Record), s.bound win = false → exec (.launch win r) s = .next s ∧ exec (.unknownRecord win r) s = .next s) ∧
  (∀ (s : State) (win : Nat) (r : Record) (code : Option CodeObject),
    let fails (c at_ : Nat) : Prop := s.launchError win r code = some (c, at_)
    let n := r.nat
    let pw := n 0x1C 4
    let width := n 0x1A 1
    let warps := n 0x1B 1
    let groups := n 0x20 4
    let per := n 0x24 1
    let sized := width ∈ [16, 32, 64] ∧ 1 ≤ warps ∧ warps ≤ 8
    let plain := n 1 1 < 8 ∧ n 3 1 = 0 ∧ n 0x25 3 = 0 ∧ n 0x7C 4 < 2 ∧ n 0x8C 4 < 2 ∧ n 0x91 7 = 0 ∧ (∀ i, i < 6 → n (0x9A + 8 * i) 2 = 0) ∧ n 0xD8 39 = 0
    let pool := pw < 2 ^ 30 ∧ pw % 1024 + pw / 1024 % 1024 + pw / 1048576 % 1024 ≤ 896 ∧ (sized → warps * (45 * (width / 16)) ≤ pw % 1024)
    (8 ≤ n 1 1 → fails 2 1) ∧ (n 1 1 < 8 → n 3 1 ≠ 0 → fails 2 3) ∧ (n 1 1 < 8 → n 3 1 = 0 → n 0x25 3 ≠ 0 → fails 2 0x25) ∧
    (¬ plain → ∃ at_, fails 2 at_) ∧ (plain → ¬ pool → fails 3 0x1C) ∧ (plain → pool → width ∉ [16, 32, 64] → fails 4 0x1A) ∧
    (plain → pool → width ∈ [16, 32, 64] →
      (code = none → (warps = 0 ∨ 8 < warps) → fails 4 0x1B) ∧ (code = none → 1 ≤ warps → warps ≤ 8 → (n 2 1 < 64 ∨ n 8 8 % 256 ≠ 0) → fails 5 8) ∧
      (∀ k, code = some k → (k.width ≠ width → fails 4 0x1A) ∧ (k.width = width → (warps = 0 ∨ 8 < warps) → fails 4 0x1B) ∧
        (k.width = width → 1 ≤ warps → warps ≤ 8 →
          (k.phases.find? (·.id == n 0x18 2) = none → fails 6 0x18) ∧
          (∀ p, k.phases.find? (·.id == n 0x18 2) = some p →
            let carried := ∀ q ∈ k.phases, ∀ x ∈ q.carry.runs, x.2 = 0 ∨ x.1 + x.2 ≤ pw / 1024 % 1024
            (p.c ≠ n 0x10 4 → fails 6 0x10) ∧ (p.c = n 0x10 4 → p.a ≠ n 0x14 4 → fails 6 0x14) ∧
            (p.c = n 0x10 4 → p.a = n 0x14 4 → ¬ carried → fails 6 0x1C) ∧
            (p.c = n 0x10 4 → p.a = n 0x14 4 → carried →
              (groups = 0 → fails 7 0x20) ∧ (groups ≠ 0 → (per = 0 ∨ 96 < per) → fails 7 0x24) ∧
              (groups ≠ 0 → 1 ≤ per → per ≤ 96 → groups % per ≠ 0 → fails 7 0x20) ∧
              (groups ≠ 0 → 1 ≤ per → per ≤ 96 → groups % per = 0 →
                ((∀ d ∈ r.dieMask, s.isLive d = false) → fails 8 0x30) ∧
                ((∃ d ∈ r.dieMask, s.isLive d = true) →
                  let own := n 2 1 < 64 ∧ (win = 0 ∨ (s.window win).dom = some (n 2 1))
                  let dep (i : Nat) : Bool := s.bound (n (0x98 + 8 * i) 2)
                  (¬ own → fails 9 2) ∧ (own → 6 < n 0x90 1 → fails 0xB 0x90) ∧
                  (own → n 0x90 1 ≤ 6 → (∀ i, i < n 0x90 1 → dep i = false → (∀ j, j < i → dep j = true) → fails 0xB (0x98 + 8 * i)) ∧
                    ((∀ i, i < n 0x90 1 → dep i = true) → (n 0xC8 8 % 8 ≠ 0 → fails 0xD 0xC8) ∧
                      (n 0xC8 8 % 8 = 0 → s.launchError win r code = none))))))))))) ∧
  (∀ (r : Record) (hasDom : Bool) (fields : List (Nat × Nat)),
    (r.cmdFault hasDom fields = none ↔ (hasDom = true → r.nat 2 1 ≤ 63) ∧
      ∀ i, i < 256 → r.nat i 1 ≠ 0 → i = 0 ∨ (i = 2 ∧ hasDom = true) ∨ (3 ≤ i ∧ i ≤ 7) ∨ i = 255 ∨ ∃ f ∈ fields, f.1 ≤ i ∧ i < f.1 + f.2)) ∧
  (∀ (s : State) (r : Record) (hasDom : Bool) (fields : List (Nat × Nat)) (off : Nat) (run : State → Except Nat (State × Nat)),
    r.cmdFault hasDom fields = some off → ∃ t : State, s.command r hasDom fields run = .next t ∧ s.turnedAway t) ∧
  (∀ (s : State) (win k status seq detail : Nat) (cookie : Word) (g : Ring), (s.window win).ring = some g → status < 65536 → win < 65536 →
    ∃ body, (s.completeRecord win k status seq detail cookie).out =
        s.out ++ [.rdmaWrite g.qp g.key (g.addr + BitVec.ofNat 64 (32 * ((k - 1) % 64))) body] ∧ body.length = 32 ∧ leAt body 0 4 = cookie.toNat ∧
      leAt body 4 4 = seq % 2 ^ 32 ∧ leAt body 8 2 = status ∧ leAt body 10 2 = win ∧ leAt body 12 4 = k % 2 ^ 32 ∧ leAt body 24 4 = detail % 2 ^ 32 ∧
      leAt body 31 1 = (k - 1) / 64 % 255 + 1)

/-- (R221, R299, R305 to R309, R325, R336, R343) ROOT, INVAL, RING, CLEAN, BINDR, UNBINDR, FLIPS and WORK with legal operands are done: the domain's root,
the translations dropped, the free ring, no cached line of the page left and its dirty bytes at home, the route table bound or gone, the flip
entries at copy 0, the workspace. An operand at fault turns the command away with nothing changed. An INVAL drops its entries and waits until the
accesses that used them are performed; BINDR waits while a page of the table is in transition.
Completion said for: root, inval, ring, clean, bindr, unbindr, flips, work.
(The model's own readings in it: log 41, 42, 43.) -/
def Obligations.MemoryCommandsComplete : Prop :=
  ∀ (s : State) (r : Record), let dom := r.nat 2 1
    (r.cmdFault true [(8, 8)] = none →
      (r.nat 8 8 % 4096 = 0 → paExists (r.nat 8 8) = true →
        ∃ t : State, exec (.root r) s = .next t ∧ s.didCommand t ∧ (t.domain dom).root = some (r.nat 8 8) ∧ t.memory = s.memory) ∧
      ((r.nat 8 8 % 4096 ≠ 0 ∨ paExists (r.nat 8 8) = false) → ∃ t : State, exec (.root r) s = .next t ∧ s.turnedAway t) ∧
      (s.pageAt dom (r.nat 8 8) = none → ∃ t : State, exec (.clean r) s = .next t ∧ s.turnedAway t) ∧
      (∀ p, s.pageAt dom (r.nat 8 8) = some p →
        ((∃ q ∈ s.memory.sent, overlaps q.pa q.bytes.length p.pa p.span = true) → exec (.clean r) s = .next s) ∧
        ((∀ q ∈ s.memory.sent, overlaps q.pa q.bytes.length p.pa p.span = false) →
          ∃ t : State, exec (.clean r) s = .next t ∧ s.didCommand t ∧
            (∀ d ∈ t.dies, ∀ l ∈ d.lines, overlaps (128 * l.line) 128 p.pa p.span = false) ∧
            (∀ line, overlaps (128 * line) 128 p.pa p.span = true → t.memory.dirAt line = .i) ∧
            (s.memory.wf = true → ∀ line i x, i < 128 → overlaps (128 * line) 128 p.pa p.span = true → s.dirtyHolders line i = [x] →
              t.memory.byte (128 * line + i) = x.1) ∧
            (s.memory.wf = true → ∀ a, s.dirtyHolders (a / 128) (a % 128) = [] → t.memory.byte a = s.memory.byte a)))) ∧
    (r.cmdFault true [(8, 8), (16, 8)] = none →
      let stays (e : (Nat × Nat) × Page) : Bool := !(e.1.1 == dom && (r.nat 16 8 == 0 || overlaps e.1.2 e.2.size (r.nat 8 8) (r.nat 16 8)))
      (s.invalWaits dom (r.nat 8 8) (r.nat 16 8) = true → exec (.inval r) s = .next { s with
        dies := s.dies.map (fun d => { d with tlb := d.tlb.filter stays })
        cores := s.cores.map fun k => { k with tlb := k.tlb.filter stays } }) ∧
      (s.invalWaits dom (r.nat 8 8) (r.nat 16 8) = false →
        ∃ t : State, exec (.inval r) s = .next t ∧ s.didCommand t ∧ t.memory = s.memory ∧ t.dies = s.dies.map (fun d => { d with tlb := d.tlb.filter stays }) ∧
          t.cores = s.cores.map fun k => { k with tlb := k.tlb.filter stays }) ∧
      (r.nat 8 8 % 2097152 = 0 → canonical (r.nat 8 8) = true → r.nat 16 8 % 2097152 = 0 → r.nat 16 8 ≠ 0 →
        ∃ t : State, exec (.work r) s = .next t ∧ s.didCommand t ∧ (t.domain dom).work = some (r.nat 8 8, r.nat 16 8) ∧
          (t.domain dom).faults = if (s.domain dom).work.map (·.1) = some (r.nat 8 8) then (s.domain dom).faults else 0) ∧
      ((r.nat 8 8 % 2097152 ≠ 0 ∨ r.nat 16 8 % 2097152 ≠ 0) → ∃ t : State, exec (.work r) s = .next t ∧ s.turnedAway t)) ∧
    (r.cmdFault false [(8, 4), (12, 4), (16, 8)] = none →
      (r.nat 8 4 < 512 → r.nat 12 4 ≤ 2 → paExists (r.nat 16 8) = true →
        ∃ t : State, exec (.ring r) s = .next t ∧ s.didCommand t ∧ tableGet (r.nat 8 4, r.nat 12 4) t.rings = some (r.nat 16 8) ∧ t.memory = s.memory) ∧
      ((512 ≤ r.nat 8 4 ∨ 2 < r.nat 12 4 ∨ paExists (r.nat 16 8) = false) → ∃ t : State, exec (.ring r) s = .next t ∧ s.turnedAway t)) ∧
    (r.cmdFault true [(8, 4), (16, 8), (24, 8), (32, 8)] = none →
      (s.bindReach r = none → exec (.bindr r) s = .next s) ∧
      (∀ q h need, s.bindReach r = some q → r.nat 8 4 ≤ 15 → r.nat 16 8 % 128 = 0 → q.tableBytes dom (r.nat 16 8) 64 = some h → 1 ≤ leAt h 4 2 →
        leAt h 4 2 ≤ 256 → leAt h 6 58 = 0 → q.stagingNeed dom (r.nat 16 8) (leAt h 4 2) = some need → r.nat 24 8 % 128 = 0 → need ≤ r.nat 32 8 →
        let s0 := q.dropTable dom (r.nat 8 4)
        let s1 := { s0 with tables := s0.tables ++ [(⟨dom, r.nat 8 4, r.nat 16 8, r.nat 24 8, r.nat 32 8⟩ : Table)] }
        (∀ d < 512, s1.portsOn d ≤ 256) →
        ∃ t : State, exec (.bindr r) s = .next t ∧ s.didCommand t ∧
          t.table? dom (r.nat 8 4) = some ⟨dom, r.nat 8 4, r.nat 16 8, r.nat 24 8, r.nat 32 8⟩ ∧
          ∀ p ∈ t.ports, ¬(p.dom = dom ∧ p.table = r.nat 8 4)) ∧
      (∀ q, s.bindReach r = some q → (15 < r.nat 8 4 ∨ r.nat 16 8 % 128 ≠ 0) → ∃ t : State, exec (.bindr r) s = .next t ∧ q.turnedAway t)) ∧
    (r.cmdFault true [(8, 4)] = none →
      (r.nat 8 4 ≤ 15 → (s.table? dom (r.nat 8 4)).isSome = true → (∀ k ∈ s.cores, ∀ w ∈ k.windows, w.open_ = true → w.table = r.nat 8 4 → (s.group? w.owner).map (·.dom) ≠ some dom) →
        ∃ t : State, exec (.unbindr r) s = .next t ∧ s.didCommand t ∧ t.table? dom (r.nat 8 4) = none) ∧
      ((s.table? dom (r.nat 8 4)).isNone = true → ∃ t : State, exec (.unbindr r) s = .next t ∧ s.turnedAway t)) ∧
    (r.cmdFault true [(8, 4), (12, 4)] = none →
      (r.nat 8 4 < 4096 → r.nat 8 4 + r.nat 12 4 ≤ 4096 →
        ∃ t : State, exec (.flips r) s = .next t ∧ s.didCommand t ∧ t.memory = s.memory ∧
          ∀ e, r.nat 8 4 ≤ e → e < r.nat 8 4 + r.nat 12 4 → tableGet e t.flipOwner = some dom ∧ ∀ d ∈ t.dies, tableGet e d.flips = none) ∧
      ((4096 ≤ r.nat 8 4 ∨ 4096 < r.nat 8 4 + r.nat 12 4) → ∃ t : State, exec (.flips r) s = .next t ∧ s.turnedAway t))

/-- (R189, R313, R323 to R326, R332, R339, R363) CRING, WCONF, CANCEL, RESUME, ABORT, HALT, PROF and SLICE with legal operands are done: the ring set, the
window bound with k = 1, the launch ended with 0x0010 and CANCEL's own record after the
launch's or the successor store of a resident one, the held warp or copy going on as DISP says, the copy gone, its stage's abort bit
set and its group's phase held until CANCEL unless it was a copy with SUCC = 1, 0x41 in every warp of the group, one table a core sent, the time slice set. What they do not name is turned away.
Completion said for: cring, wconf, cancel, resume, abort, halt, prof, slice.
(The model's own readings in it: log 25, 40, 43, 88.) -/
def Obligations.WorkCommandsComplete : Prop :=
  ∀ (s : State) (r : Record), let dom := r.nat 2 1
    (r.cmdFault false [(8, 4), (16, 8), (24, 4), (28, 4)] = none →
      (r.nat 8 4 ≤ 255 → ∃ t : State, exec (.cring r) s = .next t ∧ s.didCommand t ∧
        (t.window (r.nat 8 4)).ring = some ⟨BitVec.ofNat 64 (r.nat 16 8), BitVec.ofNat 32 (r.nat 24 4), BitVec.ofNat 32 (r.nat 28 4)⟩) ∧
      (255 < r.nat 8 4 → ∃ t : State, exec (.cring r) s = .next t ∧ s.turnedAway t)) ∧
    (r.cmdFault true [(8, 4), (12, 4)] = none →
      (r.nat 8 4 ≠ 0 → r.nat 8 4 ≤ 255 → ∃ (t : State) (w : Window), exec (.wconf r) s = .next t ∧ s.didCommand t ∧ t.window (r.nat 8 4) = w ∧
        w.dom = some dom ∧ w.qp = r.nat 12 4 ∧ w.next = 1 ∧ w.written = 0 ∧ w.bytes = [] ∧ w.recs = []) ∧
      ((r.nat 8 4 = 0 ∨ 255 < r.nat 8 4) → ∃ t : State, exec (.wconf r) s = .next t ∧ s.turnedAway t)) ∧
    (r.cmdFault false [(8, 4), (12, 4)] = none →
      let named := if s.bound (r.nat 8 4) then s.launches.reverse.find? fun l => l.win == r.nat 8 4 && l.k == r.nat 12 4 else none
      (named = none → ∃ t : State, exec (.cancel r) s = .next t ∧ s.turnedAway t) ∧
      (∀ l, named = some l → (s.launches.map (·.seq)).Nodup →
        (l.ended = false → ∃ (t : State) (l' : Launch), exec (.cancel r) s = .next t ∧ t.launch? l.seq = some l' ∧ l'.ended = true ∧
          l'.status = some 0x0010 ∧ l'.cancelBy = some (s.window 0).next ∧ t.copies = s.copies.filter (·.g.seq != l.seq) ∧
          (∀ g ∈ t.groups, g.key.seq ≠ l.seq) ∧
          (l'.owed = true → (t.window 0).next = (s.window 0).next) ∧
          (l'.owed = false → s.didCommand t ∧ (l.reported = false → l.win ≠ 0 → t.recStatus l.win l.k = some 0x0010)) ∧
          (l.orphans = [] → (∀ g ∈ s.groups, g.key.seq = l.seq → g.leftOver = []) → (∀ o ∈ s.matOps, o.w.seq ≠ l.seq) → l.reported = false →
            ((s.endLaunch l.seq 0x0010 0).flushDies l.dies).flushing l = false → l'.owed = false)) ∧
        (l.ended = true → l.owed = true → exec (.cancel r) s = .next s) ∧
        (l.ended = true → l.owed = false → l.cancelBy = some (s.window 0).next →
          ∃ t : State, exec (.cancel r) s = .next t ∧ s.didCommand t ∧ t.launches = s.launches) ∧
        (l.ended = true → l.owed = false → l.cancelBy ≠ some (s.window 0).next → ∃ t : State, exec (.cancel r) s = .next t ∧ s.turnedAway t))) ∧
    (r.cmdFault true [(8, 4)] = none →
      (∀ f k, s.faultRec? dom (r.nat 8 4) = some f → f.state = 1 → f.kind = 1 → f.copy = some k.id → s.copy? k.id = some k →
        (s.disp dom (r.nat 8 4) = 0 → (∀ g ∈ s.groups, g.rowsOut = true → k.inRegion g.key = false) →
          ∃ t : State, exec (.resume r) s = .next t ∧ s.didCommand t ∧ t.copy? k.id = some { k with run := .running, resumePending := false, done := [] }) ∧
        (s.disp dom (r.nat 8 4) ≠ 0 → ∃ t : State, exec (.resume r) s = .next t ∧ s.turnedAway t) ∧
        (∃ t : State, exec (.abort r) s = .next t ∧ s.didCommand t ∧ t.copies = s.copies.filter (·.id != k.id) ∧
          ∀ i g, k.stage = some i → s.group? k.g = some g → i < g.stages.length →
            ∃ g', t.group? k.g = some g' ∧ (g'.stages.getD i Stage.zero).abortBit = true ∧
              (k.succ = false ∨ k.inRegion k.g = true → g'.aborted = true))) ∧
      (∀ f g w v, s.faultRec? dom (r.nat 8 4) = some f → f.state = 1 → f.kind = 0 → f.copy = none → f.w = some w.key → s.group? w.key.group = some g →
        g.warp? w.key = some w → w.evicted = false → w.saved = some v →
        (s.disp dom (r.nat 8 4) = 0 → ∃ (t : State) (w' : Warp), exec (.resume r) s = .next t ∧ s.didCommand t ∧ t.warp? w.key = some w' ∧ w'.held = false ∧
          w'.handler = false ∧ w'.mode = v.mode ∧ w'.cause = if w.handler || w.parkedFor then 0 else w.cause) ∧
        (s.disp dom (r.nat 8 4) = 1 → ∃ (t : State) (w' : Warp), exec (.resume r) s = .next t ∧ s.didCommand t ∧ t.warp? w.key = some w' ∧ w'.held = false ∧
          w'.handler = true ∧ w'.cause = w.cause ∧ w'.record = some f.idx) ∧
        (∃ t : State, exec (.abort r) s = .next t ∧ s.turnedAway t)) ∧
      (∀ f g w v, s.faultRec? dom (r.nat 8 4) = some f → f.state = 1 → f.kind = 2 → f.copy = none → f.w = some w.key → s.group? w.key.group = some g →
        g.warp? w.key = some w → w.evicted = false → w.saved = some v →
        (s.disp dom (r.nat 8 4) ≤ 1 → let s1 := (s.faultHeld dom (r.nat 8 4) 0).setFault dom (r.nat 8 4) 0
          let back := s1.reload g.dom w (s.disp dom (r.nat 8 4) == 1)
          ∃ (t : State) (w' : Warp), exec (.resume r) s = .next t ∧ s.didCommand t ∧ t.warp? w.key = some w' ∧ w'.parkedFor = false ∧
            w'.held = false ∧ w'.handler = false ∧ w'.saved = none ∧ w'.mode = v.mode ∧ w'.lanes = back.lanes ∧ w'.y = back.y ∧
            (w.parkedFor = true → w'.cause = 0)) ∧
        (1 < s.disp dom (r.nat 8 4) → ∃ t : State, exec (.resume r) s = .next t ∧ s.turnedAway t) ∧
        (∃ t : State, exec (.abort r) s = .next t ∧ s.turnedAway t)) ∧
      ((∀ f, s.faultRec? dom (r.nat 8 4) = some f → f.state ≠ 1) → (∃ t : State, exec (.resume r) s = .next t ∧ s.turnedAway t) ∧
        ∃ t : State, exec (.abort r) s = .next t ∧ s.turnedAway t)) ∧
    (r.cmdFault false [(8, 4), (12, 4), (16, 4)] = none →
      (∀ l, s.bound (r.nat 8 4) = true → s.launchAt (r.nat 8 4) (r.nat 12 4) = some l → r.nat 16 4 < l.groups →
        ∃ t : State, exec (.halt r) s = .next t ∧ s.didCommand t ∧ t.memory = s.memory ∧ ∀ g, s.group? ⟨l.seq, r.nat 16 4⟩ = some g →
          ∃ g', t.group? ⟨l.seq, r.nat 16 4⟩ = some g' ∧ g'.warps.map (·.lanes) = g.warps.map (·.lanes) ∧ ∀ w ∈ g'.warps, 0x41 ∈ w.asyncs) ∧
      (∀ l, s.bound (r.nat 8 4) = true → s.launchAt (r.nat 8 4) (r.nat 12 4) = some l → l.groups ≤ r.nat 16 4 →
        ∃ t : State, exec (.halt r) s = .next t ∧ s.turnedAway t)) ∧
    (r.cmdFault false [(8, 8), (16, 4), (20, 4), (24, 4)] = none → r.nat 24 4 < 512 →
      ∃ t : State, exec (.prof r) s = .next t ∧ s.didCommand t ∧ t.memory = s.memory ∧ t.groups = s.groups ∧
        ∀ c, c < 2208 → (s.core (r.nat 24 4) c).profile.length ≤ 64 → ∃ bytes, bytes.length = 4096 ∧
          t.out[s.out.length + c]? = some (.rdmaWrite (BitVec.ofNat 32 (r.nat 20 4)) (BitVec.ofNat 32 (r.nat 16 4))
            (BitVec.ofNat 64 (r.nat 8 8 + 4096 * c)) bytes)) ∧
    (r.cmdFault false [(8, 4)] = none → ∃ t : State, exec (.slice r) s = .next t ∧ s.didCommand t ∧ t.sliceUnits = r.nat 8 4 ∧ t.memory = s.memory)

/-- (R236, R314, R390, R391, R394, R395, R398 to R402) Every management request but the die requests is answered under its tag, in the next secured message of an open session. W0WRITE puts the record into the next
slot of window 0, W0RING sets its ring, GRANT, WLIST, PSEL, PCLR, SPARE and FUSESVN change what they name with status 0, or answer 1 where it is so
already and 2 where it is refused; ACCT and ERRLOG send their readouts; FWSTAGE takes pieces in order, and else discards them with 3. An unknown
opcode is answered with 3 and has no effect.
Completion said for: w0write, w0ring, grant, wlist, psel, pclr, acct, errlog, spare, fwstage, fusesvn, unknownManagementOpcode.
(The model's own readings in it: log 21, 52, 54.) -/
def Obligations.ManagementComplete : Prop :=
  ∀ (s : State) (tag : Word),
    (∀ r : Record, exec (.w0write tag r) s = answered (s.modWindow 0 fun w =>
      { w with bytes := tableSet ((s.window 0).written % 64) r.bytes w.bytes, written := w.written + 1 }) 0x0001 tag 0) ∧
    (∀ addr key qp, exec (.w0ring tag addr key qp) s = answered (s.modWindow 0 fun w => { w with ring := some ⟨addr, key, qp⟩ }) 0x0002 tag 0) ∧
    (∀ (dom : Byte) (mask : Word64),
      ((63 < dom.toNat ∨ mask.extractLsb' 4 28 ≠ 0) → exec (.grant tag dom mask) s = answered s 0x0020 tag 2) ∧
      (dom.toNat ≤ 63 → mask.extractLsb' 4 28 = 0 →
        exec (.grant tag dom mask) s = if (s.domain dom.toNat).grant = mask then answered s 0x0020 tag 1
          else answered (s.modDomain dom.toNat fun d => { d with grant := mask }) 0x0020 tag 0)) ∧
    (∀ wl dom : Byte,
      ((15 < wl.toNat ∨ (63 < dom.toNat ∧ dom ≠ 255) ∨ s.worklistOpen wl.toNat = true) → exec (.wlist tag wl dom) s = answered s 0x0021 tag 2) ∧
      (∀ d, wl.toNat ≤ 15 → s.worklistOpen wl.toNat = false → (dom.toNat ≤ 63 ∧ d = some dom.toNat) ∨ (dom = 255 ∧ d = none) →
        (((s.worklist? wl.toNat).bind (·.dom)) = d → exec (.wlist tag wl dom) s = answered s 0x0021 tag 1) ∧
        (((s.worklist? wl.toNat).bind (·.dom)) ≠ d → ∃ (t : State) (w : Worklist), exec (.wlist tag wl dom) s = answered t 0x0021 tag 0 ∧
          { t with worklists := s.worklists } = s ∧ t.worklist? wl.toNat = some w ∧ w.dom = d))) ∧
    (∀ (c : CounterName) (sel : Word),
      ((s.counterOk c = false ∨ selectOk (c.core.toNat != 0xFFFF) sel = false) → exec (.psel tag c sel) s = answered s 0x0022 tag 2) ∧
      (s.counterOk c = false → exec (.pclr tag c) s = answered s 0x0023 tag 2) ∧
      (s.counterOk c = true → selectOk (c.core.toNat != 0xFFFF) sel = true → c.die.toNat ≠ 0xFFFF → c.core.toNat = 0xFFFF →
        ∃ t : State, exec (.psel tag c sel) s = answered t 0x0022 tag 0 ∧ { t with dies := s.dies } = s ∧
          ((t.die c.die.toNat).counters)[c.num.toNat]? = some ⟨sel, 0⟩) ∧
      (s.counterOk c = true → selectOk true sel = true → c.die.toNat ≠ 0xFFFF → c.core.toNat < 2208 →
        (s.core c.die.toNat c.core.toNat).counters.length = 4 →
        ∃ t : State, exec (.psel tag c sel) s = answered t 0x0022 tag 0 ∧ { t with cores := s.cores } = s ∧
          ((t.core c.die.toNat c.core.toNat).counters)[c.num.toNat]? = some ⟨sel, 0⟩) ∧
      (s.counterOk c = true → c.die.toNat ≠ 0xFFFF → c.core.toNat < 2208 → (s.core c.die.toNat c.core.toNat).counters.length = 4 →
        ∃ t : State, exec (.pclr tag c) s = answered t 0x0023 tag 0 ∧ { t with cores := s.cores } = s ∧
          ((t.core c.die.toNat c.core.toNat).counters)[c.num.toNat]? =
            ((s.core c.die.toNat c.core.toNat).counters[c.num.toNat]?).map fun k => { k with count := 0 })) ∧
    (∃ (t : State) (bytes : List Byte), exec (.acct tag) s = .next t ∧ (let r := answerBytes 0x0030 tag 0 bytes;
      t.out = s.out ++ [.mgmt r (s.module.session.record r)] ∧ t.module.session = s.module.session.sent) ∧ bytes.length = 16 + 65 * 64 ∧
      leAt bytes 8 8 = (s.module.readouts + 1) % 2 ^ 64 ∧ t.module.readouts = s.module.readouts + 1 ∧ t.memory = s.memory ∧
      ∀ i j : Nat, i < 65 → j < 8 → leAt bytes (16 + 64 * i + 8 * j) 8 =
        ((((s.module.boundary.find? fun (a : Account) => a.dom == i).map Account.counts).getD (Vector.replicate 8 0)).getD j 0).toNat) ∧
    (∀ first count : Word,
      ((4095 < first.toNat ∨ count = 0 ∨ 4096 < count.toNat) → exec (.errlog tag first count) s = answered s 0x0031 tag 2) ∧
      (first.toNat ≤ 4095 → 1 ≤ count.toNat → count.toNat ≤ 4096 → ∃ bytes, exec (.errlog tag first count) s = .next (s.mgmtSent (answerBytes 0x0031 tag 0 bytes)) ∧
        bytes.length = 4 + 32 * count.toNat ∧ leAt bytes 0 4 = (s.module.logged - s.module.log.length) % 2 ^ 32)) ∧
    (∀ (stack : Word) (row : Word64),
      ((512 ≤ stack.toNat ∨ 36000000000 ≤ row.toNat) → exec (.spare tag stack row) s = answered s 0x0040 tag 2) ∧
      (stack.toNat < 512 → row.toNat < 36000000000 → exec (.spare tag stack row) s =
        if (stack.toNat, row.toNat) ∈ s.memory.spares then answered s 0x0040 tag 1
        else if (s.memory.spares.filter (·.1 == stack.toNat)).length < Config.spareRows stack.toNat then
          answered { s with memory := { s.memory with spares := s.memory.spares ++ [(stack.toNat, row.toNat)] } } 0x0040 tag 0
        else answered s 0x0040 tag 2)) ∧
    (∀ (off total flags : Word) (piece : List Byte), let image := s.module.staging ++ piece
      ((off.toNat ≠ s.module.staging.length ∨ total.toNat < image.length ∨ (flags.getLsbD 0 = true ∧ image.length ≠ total.toNat)) → exec (.fwstage tag off total flags piece) s =
        answered { s with module := { s.module with staging := [] } } 0x0050 tag 3) ∧
      (off.toNat = s.module.staging.length → image.length ≤ total.toNat → flags.getLsbD 0 = false → exec (.fwstage tag off total flags piece) s =
        answered { s with module := { s.module with staging := image } } 0x0050 tag 0) ∧
      (off.toNat = s.module.staging.length → image.length = total.toNat → flags.getLsbD 0 = true →
        exec (.fwstage tag off total flags piece) s = if headerBytes ≤ image.length ∧ s.module.runs (parseImage image) = true then
          answered { s with module := { s.module with staging := [], staged := putFirst (fun b => leAt b 0 4 == leAt image 0 4) image s.module.staged } } 0x0050 tag 0
        else answered { s with module := { s.module with staging := [] } } 0x0050 tag 2)) ∧
    (∀ kind version : Word, let v := s.module.fusedVersion kind
      exec (.fusesvn tag kind version) s = if version.toNat < v.toNat then answered s 0x0051 tag 2 else if version = v then answered s 0x0051 tag 1
        else answered { s with module := { s.module with fused := tableSet kind version s.module.fused } } 0x0051 tag 0) ∧
    (∀ op : BitVec 16, exec (.unknownManagementOpcode tag op) s = answered s (op.toNat % 0x8000) tag 3)

/-- (R252, R383 to R386, R411) A die request on a die that is not live is answered at once as the table of R411 says; DRESET or RETIRE of a live die
ends its launches with 0x0010 and its number, and starts the withdrawal. REINSTATE of a reset die brings it back, with every write applied, its own
counter at 0 and the flips as the E-dies hold them, or leaves it when its self-test fails.
In a withdrawal each dirty byte of an SC or CP line homed elsewhere is sent to its home. With nothing of the die on its way any more, or at the
limit, the withdrawal ends: the die is masked and reset or retired, its request answered with the tasks lost, no channel waits for it, and what
other dies hold stays; no die request acts meanwhile, nor REINSTATE while a flip is under way; the dirty lines of its own stack are poisoned. Before and after its time an event of the withdrawal does nothing.
Completion said for: dreset, retire, reinstate, withdrawWritebackDone, withdrawWritebackTimeout.
(The model's own readings in it: log 51.) -/
def Obligations.DieRequestsEnd : Prop :=
  (∀ (s : State) (tag : Word) (die : Nat), (∀ d ∈ s.dies, d.withdrawal = none) →
    let word (op status : Nat) (t : State) : Host.Outcome State Fault Refusal :=
      .next (t.mgmtSent (answerBytes op tag status (leBytes 4 0)))
    (512 ≤ die → exec (.dreset tag die) s = word 0x0010 2 s ∧ exec (.retire tag die) s = word 0x0011 2 s ∧
      (s.flips = [] → exec (.reinstate tag die) s = answered s 0x0012 tag 2)) ∧
    (s.flips ≠ [] → exec (.reinstate tag die) s = .next s) ∧
    (die < 512 →
      ((s.die die).status = .reset → exec (.dreset tag die) s = word 0x0010 1 s ∧
        ∃ t : State, exec (.retire tag die) s = word 0x0011 0 t ∧ (t.die die).status = .retired ∧ t.memory = s.memory) ∧
      ((s.die die).status ∈ [.retired, .testFailed, .disabled] → exec (.dreset tag die) s = word 0x0010 2 s ∧
        exec (.retire tag die) s = word 0x0011 1 s) ∧
      ((s.die die).status = .live →
        (∀ retire : Bool, ∃ t : State, exec (if retire then .retire tag die else .dreset tag die) s = .next t ∧
          (t.die die).withdrawal = some ⟨retire, tag, s.now⟩ ∧ (t.die die).status = .live ∧ t.out.length ≥ s.out.length ∧
          ∀ l ∈ s.launches, l.ended = false → s.launch? l.seq = some l → (∃ g ∈ s.groups, g.key.seq = l.seq ∧ g.die = die) →
            ∃ l', t.launch? l.seq = some l' ∧ l'.ended = true ∧ l'.status = some 0x0010 ∧ l'.detail = 0x80000000 + die ∧
              (l'.owed = false → l.reported = false → t.recStatus l.win l.k = some 0x0010))) ∧
      (s.flips = [] →
        ((s.die die).status = .live → exec (.reinstate tag die) s = answered s 0x0012 tag 1) ∧
        ((s.die die).status ∈ [.retired, .testFailed, .disabled] → exec (.reinstate tag die) s = answered s 0x0012 tag 2) ∧
        ((s.die die).status = .reset →
          (∃ t : State, exec (.reinstate tag die) s = answered t 0x0012 tag 0 ∧ t.isLive die = true ∧ (t.die die).sent = 0 ∧
            (t.die die).flips = (s.die edieReplica).flips ∧
            ((∀ p ∈ s.memory.sent, t.homeOf (stackOf p.pa) ≠ p.src) → t.memory.mem = s.memory.mem ∧ (∀ p ∈ t.memory.log, p.seenBy die = true) ∧
              ∀ d, d ≠ die → t.die d = s.die d)) ∨
          exec (.reinstate tag die) s = answered { s with nextId := s.nextId + 1 } 0x0012 tag 2)))) ∧
  (∀ (s : State) (tag : Word) (die : Nat), (∃ d ∈ s.dies, d.withdrawal ≠ none) →
    ∀ i, i ∈ [Instr.dreset tag die, .retire tag die, .reinstate tag die] → exec i s = .next s) ∧
  (∀ (s : State) (die : Nat) (w : Withdrawal), (s.die die).withdrawal = some w →
    let s1 := s.settleLines die (s.returns2 die) fun _ => true
    let ends (i : Instr) : Prop := ∃ t : State, exec i s = .next t ∧
      (t.die die).status = (if w.retire then .retired else .reset) ∧ (t.die die).masked = true ∧ (t.die die).withdrawal = none ∧
      (t.die die).lines = [] ∧ (t.die die).units = [] ∧ (∀ d, d ≠ die → (t.die d).status = (s.die d).status ∧ (t.die d).units = (s.die d).units) ∧
      (let r := answerBytes (if w.retire then 0x0011 else 0x0010) w.tag 0 (leBytes 4 ((s.die die).units.map (·.tasks.length)).sum);
        t.out = s.out ++ [.mgmt r (s.module.session.record r)]) ∧
      (∀ k ∈ t.channels, die ∉ k.members ∧ die ∉ k.arrivals.map (·.1)) ∧ t.groups = s.groups
    (s.now ≤ w.started + 90000 →
      (((∃ p ∈ s1.memory.sent, p.src = die) ∨ s1.stranded die ≠ []) → exec (.withdrawWritebackDone die) s = .next s1) ∧
      (∀ l ∈ (s.die die).lines, l.sc = true → s.homeOf (stackOf (128 * l.line)) ≠ die → ∀ i, i < 128 → l.dirty.getLsbD i = true →
        ∃ t : State, exec (.withdrawWritebackDone die) s = .next t ∧ ∃ p ∈ t.memory.sent, p.src = die ∧
          p.only = some (s.homeOf (stackOf (128 * l.line))) ∧ p.pa ≤ 128 * l.line + i ∧ 128 * l.line + i < p.pa + p.bytes.length ∧
          p.bytes.getD (128 * l.line + i - p.pa) 0 = l.data.getD i 0) ∧
      ((∀ p ∈ s1.memory.sent, p.src ≠ die) → s1.stranded die = [] →
        ends (.withdrawWritebackDone die) ∧
        ∀ l ∈ (s.die die).lines, l.sc = true → s.homeOf (stackOf (128 * l.line)) = die → ∀ i, i < 128 → l.dirty.getLsbD i = true →
          (∀ p ∈ s.memory.sent, overlaps p.pa p.bytes.length (128 * l.line) 128 = false) →
          ∃ t : State, exec (.withdrawWritebackDone die) s = .next t ∧ t.memory.poisoned (128 * l.line + i) 1 = true)) ∧
    (w.started + 90000 < s.now → exec (.withdrawWritebackDone die) s = .next s) ∧
    (w.started + 90000 ≤ s.now → ends (.withdrawWritebackTimeout die)) ∧
    (s.now < w.started + 90000 → exec (.withdrawWritebackTimeout die) s = .next s))

/-- (R313 to R315, R381, R382) RDMA: a WRITE into a bound window with its key stores the bytes in the window's slots; without the binding it is counted
and dropped, with a wrong key also answered with a NAK, as a READ there is. A request to memory that its page allows stores or returns the
bytes, and is answered with a NAK where its queue pair has no domain or the page does not allow it. SEND is acknowledged, an atomic refused; behind
a request of its queue pair that must wait a request waits too, and a port with 4 096 queue pairs discards those of another. Another frame is
counted and discarded; a pause frame pauses its class, or ends the pause.
Completion said for: rdmaWrite, rdmaRead, rdmaSend, rdmaAtomicRequest, ethernetFrameDiscard, pfcPauseFrame.
(The model's own readings in it: log 47, 48, 73.) -/
def Obligations.PortsAnswer : Prop :=
  (∀ (s : State) (r : RdmaReq) (data : List Byte), s.module.boot = .running → r.port < 32 → s.rdmaWaits = [] →
    ((r.port, r.qp) ∈ s.module.connected ∨ (s.module.connected.filter (·.1 == r.port)).length < 4096) →
    (∀ off, r.va.toNat = 0x0100000000000000 + off → off < 0x400000 → let win := off / 16384
      (s.boundTo win r.qp = false → ∃ t : State, exec (.rdmaWrite r data) s = .next t ∧ t.out = s.out ∧ t.windows = s.windows ∧ t.memory = s.memory ∧
        tableGet (r.port / 4) t.module.edErrors = some ((tableGet (r.port / 4) s.module.edErrors).getD 0 + 1)) ∧
      (s.boundTo win r.qp = true → r.rkey.toNat ≠ 0x4C570000 + win → ∃ t : State, exec (.rdmaWrite r data) s = .next t ∧
        t.out = s.out ++ [.nak r.port r.qp 2] ∧ t.windows = s.windows ∧ t.memory = s.memory ∧
        tableGet (r.port / 4) t.module.edErrors = some ((tableGet (r.port / 4) s.module.edErrors).getD 0 + 1)) ∧
      (s.boundTo win r.qp = true → r.rkey.toNat = 0x4C570000 + win → off % 256 = 0 → data.length = 256 → ∃ t : State,
        exec (.rdmaWrite r data) s = .next t ∧ t.out = s.out ++ [.rdmaAck r.port r.qp] ∧ t.memory = s.memory ∧
        tableGet (off % 16384 / 256) (t.window win).bytes = some data ∧
        ∀ slot, slot ≠ off % 16384 / 256 → tableGet slot (t.window win).bytes = tableGet slot (s.window win).bytes) ∧
      (s.boundTo win r.qp = false → ∀ len, ∃ t : State, exec (.rdmaRead r len) s = .next t ∧ t.out = s.out ∧ t.memory = s.memory) ∧
      (s.boundTo win r.qp = true → ∀ len, ∃ t : State, exec (.rdmaRead r len) s = .next t ∧ t.out = s.out ++ [.nak r.port r.qp 2] ∧ t.memory = s.memory)) ∧
    (r.va.toNat < 0x0100000000000000 → 0 < data.length → r.va.toNat % 65536 + data.length ≤ 65536 →
      (64 ≤ s.qpDomain r.qp → ∃ t : State, exec (.rdmaWrite r data) s = .next t ∧ t.out = s.out ++ [.nak r.port r.qp 2] ∧ t.memory = s.memory) ∧
      (∀ s1 p, s.qpDomain r.qp < 64 → s.resolve (s.edieSite (r.port / 4)) 0 (s.qpDomain r.qp) r.va.toNat = (s1, .ok p) → p.pp = none →
        (p.qz = true → ∃ t : State, exec (.rdmaWrite r data) s = .next t ∧ t.out = s.out ∧ t.memory = s.memory ∧ t.rdmaWaits = [⟨r, .write data⟩]) ∧
        (p.qz = false → (p.cc = 2 ∨ p.w = false ∨ p.fx = true) → ∃ t : State, exec (.rdmaWrite r data) s = .next t ∧
          t.out = s.out ++ [.nak r.port r.qp 2] ∧ t.memory = s.memory) ∧
        (p.qz = false → p.cc ≠ 2 → p.w = true → p.fx = false → s1.memory.wf = true → ∃ t : State, exec (.rdmaWrite r data) s = .next t ∧
          t.out = s.out ++ [.rdmaAck r.port r.qp] ∧ t.groups = s.groups ∧
          (∀ i, i < data.length → t.memory.byte (p.at_ r.va.toNat + i) = data.getD i 0) ∧
          (∀ a, (a < p.at_ r.va.toNat ∨ p.at_ r.va.toNat + data.length ≤ a) → (a < p.leafAt ∨ p.leafAt + 8 ≤ a) →
            t.memory.byte a = s1.memory.byte a)) ∧
        (p.qz = false → p.cc ≠ 2 → p.r = true → s1.memory.poison = [] → s1.memory.wf = true →
          (p.at_ r.va.toNat + data.length ≤ p.leafAt ∨ p.leafAt + 8 ≤ p.at_ r.va.toNat) →
          ∃ t : State, exec (.rdmaRead r data.length) s = .next t ∧ t.groups = s.groups ∧
            t.out = s.out ++ [.rdmaRead r.port r.qp (s1.memory.bytes (p.at_ r.va.toNat) data.length)]))) ∧
    (∃ t : State, exec (.rdmaSend r.port r.qp data) s = .next t ∧ t.out = s.out ++ [.rdmaAck r.port r.qp] ∧ t.memory = s.memory ∧ t.groups = s.groups) ∧
    (∃ t : State, exec (.rdmaAtomicRequest r) s = .next t ∧ t.out = s.out ++ [.nak r.port r.qp 1] ∧ t.memory = s.memory ∧ t.groups = s.groups)) ∧
  (∀ (s : State) (r q : RdmaReq) (data old : List Byte), s.module.boot = .running → r.port < 32 → q.port = r.port → q.qp = r.qp →
    (r.port, r.qp) ∈ s.module.connected → s.rdmaWaits = [⟨q, .write old⟩] →
    (∀ m n, State.doWrite { s with module := m, nextId := n, rdmaWaits := [] } q old = none) →
    ∃ t : State, exec (.rdmaWrite r data) s = .next t ∧ t.out = s.out ∧ t.memory = s.memory ∧ t.rdmaWaits = [⟨q, .write old⟩, ⟨r, .write data⟩]) ∧
  (∀ (s : State) (r : RdmaReq) (data : List Byte) (len : Nat), s.module.boot = .running → r.port < 32 → (r.port, r.qp) ∉ s.module.connected →
    4096 ≤ (s.module.connected.filter (·.1 == r.port)).length →
    ∀ i, i ∈ [Instr.rdmaWrite r data, .rdmaRead r len, .rdmaSend r.port r.qp data, .rdmaAtomicRequest r] → ∃ t : State, exec i s = .next t ∧
      t.out = s.out ∧ t.memory = s.memory ∧ t.windows = s.windows ∧
      tableGet r.port t.module.discarded = some ((tableGet r.port s.module.discarded).getD 0 + 1)) ∧
  (∀ (s : State) (port : Nat), s.module.boot = .running → port < 32 →
    (∀ ether udp, ether ≠ 0x8808 → ¬((ether = 0x0800 ∨ ether = 0x86DD) ∧ udp = 4791) →
      ∃ t : State, exec (.ethernetFrameDiscard port ether udp) s = .next t ∧ t.out = s.out ∧ t.memory = s.memory ∧
        tableGet port t.module.discarded = some ((tableGet port s.module.discarded).getD 0 + 1)) ∧
    (∀ cls quanta, cls < 8 → quanta < 65536 → (s.module.paused.filter fun p => p.1.1 == port && p.1.2 != cls).length < 4 →
      ∃ t : State, exec (.pfcPauseFrame port cls quanta) s = .next t ∧ { t with module := s.module, nextId := s.nextId } = s ∧
        tableGet (port, cls) t.module.paused = if quanta = 0 then none else some (s.now + (quanta * 144 + 124) / 125)))

/-- (R3, R4, R373, R377, R379, R387, R388, R397, R398, R401) What the fabric and the module controller do on their own: a retry is counted and logged, a
link is down after 16 of one flit and reported, a die that has answered nothing for 1 ms reported and left unmasked, offsets replaced all at once
after 2^30 ns, matrix and vector issue withheld where the draws pass the maximum of the grade, each millisecond's energy within it shared out
whole, and every error logged, a corrected one with nothing else changed.
Completion said for: linkRetry, linkDown, dieUnresponsive, powerLimitWithhold, temperatureThrottle, tofsMeasure, energyMeasure, errorDetect.
(The model's own readings in it: log 18, 47, 49, 53, 74.) -/
def Obligations.ModuleEventsComplete : Prop :=
  ∀ (s : State), s.module.boot = .running →
    (∀ link flit, link ∉ s.module.linksDown →
      (linkDie link = none → exec (.linkRetry ⟨link, flit⟩) s = .next s ∧ exec (.linkDown link) s = .next s) ∧
      (linkDie link ≠ none →
        (∃ t : State, exec (.linkRetry ⟨link, flit⟩) s = .next t ∧ (∃ n, tableGet link t.module.retries = some (flit, n) ∧
            (∀ m, tableGet link s.module.retries = some (flit, m) → n = m + 1) ∧
            ((∀ m, tableGet link s.module.retries ≠ some (flit, m)) → n = 1)) ∧
          t.module.logged = s.module.logged + 1 ∧ t.memory = s.memory ∧ t.groups = s.groups ∧ t.out = s.out) ∧
        ((∀ f n, tableGet link s.module.retries = some (f, n) → n < 16) → exec (.linkDown link) s = .next s) ∧
        (∀ f n, tableGet link s.module.retries = some (f, n) → 16 ≤ n → ∃ t : State, exec (.linkDown link) s = .next t ∧
          t.module.linksDown = s.module.linksDown ++ [link] ∧ t.out = s.out ++ [.report 0 link] ∧ t.module.logged = s.module.logged + 1 ∧
          t.memory = s.memory ∧ t.groups = s.groups))) ∧
    (∀ die, s.isLive die = true →
      (s.silent die = false → exec (.dieUnresponsive die) s = .next s) ∧
      ((s.die die).unresponsive = false → s.silent die = true → ∃ t : State, exec (.dieUnresponsive die) s = .next t ∧ t.out = s.out ++ [.report 1 die] ∧
        t.die die = { s.die die with unresponsive := true } ∧ t.isLive die = true) ∧
      (∀ n draws rest, let total := (draws.map (·.2)).sum + rest
        let limit := if s.module.gradeB then 64000 else 68000
        (total ≤ limit → exec (.powerLimitWithhold die ⟨n, draws, rest⟩) s = .next s) ∧
        (limit < total → (draws.map (·.1)).Nodup →
          (∀ p ∈ draws, s.isLive p.1 = true → p.2 ≤ (tableGet die draws).getD 0 ∨ s.now < (s.die p.1).withheldUntil) →
          ∃ t : State, exec (.powerLimitWithhold die ⟨n, draws, rest⟩) s = .next t ∧ { t with dies := s.dies } = s ∧
            t.die die = { s.die die with withheldUntil := max (s.die die).withheldUntil n })) ∧
      (∀ temp n, 95 ≤ temp → temp < 105 → ∃ t : State, exec (.temperatureThrottle die temp n) s = .next t ∧ t.out = s.out ++ [.report 2 die] ∧
        t.die die = { s.die die with withheldUntil := max (s.die die).withheldUntil n } ∧ t.memory = s.memory ∧ t.groups = s.groups) ∧
      (∀ temp n, temp < 95 → exec (.temperatureThrottle die temp n) s = .next s)) ∧
    (∀ die temp n, die < 520 → 95 ≤ temp → temp < 105 → ∃ t : State, exec (.temperatureThrottle die temp n) s = .next t ∧
      t.out = s.out ++ [.report 2 die] ∧ t.memory = s.memory ∧ t.groups = s.groups ∧ ∀ d, d ≠ die → t.die d = s.die d) ∧
    (∀ die temp n, (temp < 95 ∨ 105 ≤ temp) → exec (.temperatureThrottle die temp n) s = .next s) ∧
    (∀ offs : List Int, offs.length = 16 →
      (∀ i j : Nat, i < 4 → j < 4 → (offs.getD (4 * i + i) 0 = 0) ∧ offs.getD (4 * j + i) 0 = -(offs.getD (4 * i + j) 0) ∧
        offs.getD (4 * i + j) 0 - (Config.regionOffset j - Config.regionOffset i) ≤ 4 ∧
        (Config.regionOffset j - Config.regionOffset i) - offs.getD (4 * i + j) 0 ≤ 4) →
      (nsOf s.now < s.module.tofsAt + 1073741824 → exec (.tofsMeasure offs) s = .next s) ∧
      (s.module.tofsAt + 1073741824 ≤ nsOf s.now → ∃ t : State, exec (.tofsMeasure offs) s = .next t ∧ { t with module := s.module } = s ∧
        t.module.tofsAt = nsOf s.now ∧ ∀ n, n < 16 → t.tofs n = BitVec.ofInt 32 (offs.getD n 0))) ∧
    (∀ mj, (nsOf s.now < s.module.energyAt + 1000000 → exec (.energyMeasure mj) s = .next s) ∧
      ((if s.module.gradeB then 64000 else 68000) < mj → exec (.energyMeasure mj) s = .next s) ∧
      (s.module.energyAt + 1000000 ≤ nsOf s.now → mj ≤ (if s.module.gradeB then 64000 else 68000) →
        ∃ t : State, exec (.energyMeasure mj) s = .next t ∧ { t with module := s.module } = s ∧
          t.module.boundary = t.module.accounts ∧ t.module.energyAt = s.module.energyAt + 1000000 ∧
          (s.module.shares mj).sum = mj ∧ ∀ i, i < 65 → (t.module.account i).counts.getD 6 0 =
            (s.module.account i).counts.getD 6 0 + BitVec.ofNat 64 ((s.module.shares mj).getD i 0))) ∧
    (∀ e : ErrorEvent, ∃ t : State, exec (.errorDetect e) s = .next t ∧ t.module.logged = s.module.logged + 1 ∧
      tableGet (e.die, e.unitNo) t.module.soft = some ((tableGet (e.die, e.unitNo) s.module.soft).getD 0 + 1) ∧
      (e.corrected = true → t.memory = s.memory ∧ t.groups = s.groups ∧ t.out = s.out) ∧
      (e.corrected = false →
        (∀ pa, e.unit = .hbm pa → t.memory.poisoned pa 1 = true ∧ t.memory.mem = s.memory.mem ∧ t.groups = s.groups) ∧
        (∀ pa, e.unit = .line pa → t.memory.poisoned pa 1 = true ∧ t.memory.mem = s.memory.mem ∧ ∀ l ∈ (t.die e.die).lines, l.line ≠ pa / 128) ∧
        (∀ k w, e.unit = .warpState k → s.warp? k = some w → w.ended = false → w.evicted = false → w.saved = none →
          ∃ w' r, t.warp? k = some w' ∧ w'.pending = w.pending ++ [r] ∧ r.code = 0x01 ∧ r.aux = e.unitNo ∧ r.slice = 0 ∧ w'.lanes = w.lanes ∧
            w'.c.stopped = true ∧ w'.a.stopped = true) ∧
        (∀ l, e.unit = .link l → l ∉ s.module.linksDown → l ∈ t.module.linksDown ∧ t.out = s.out ++ [.report 0 l])))

/-- (R1 to R4, R379, R388 to R390, R393) Power: a trip at 105 °C on a die or 95 °C on a stack is reported and takes everything but fuses and the staged
images; below, nothing happens. POWER_ON measures each stage before it runs: with every image passing, the module runs with the dies that are
neither disabled nor failing live, the grade as fused and the requester's root digest of the configuration blob, and each register holds the digest
of its stage, staged images in their places; an image that does not pass leaves it in recovery. Parts that do not fit the fuses change nothing.
Completion said for: powerOn, thermalTrip.
(The model's own readings in it: log 4, 17, 50, 52, 75.) -/
def Obligations.PowerComplete : Prop :=
  (∀ (s : State) (stack : Bool) (site temp : Nat), s.module.boot ≠ .off → site < (if stack then 512 else 520) →
    (temp < (if stack then 95 else 105) → exec (.thermalTrip stack site temp) s = .next s) ∧
    ((if stack then 95 else 105) ≤ temp → ∃ t : State, exec (.thermalTrip stack site temp) s = .next t ∧ t.module.boot = .off ∧ t.groups = [] ∧
      t.launches = [] ∧ t.memory = State.reset.memory ∧ t.out = s.out ++ [.report (if stack then 4 else 3) site] ∧ t.module.fused = s.module.fused ∧
      t.module.fuses = s.module.fuses ∧ t.module.staged = s.module.staged ∧ t.now = s.now)) ∧
  (∀ (s : State) (b : BootImages), (s.module.bootFits b = false ∨ (∃ f, s.module.fuses = some f ∧ b.fuses ≠ f)) → exec (.powerOn b) s = .next s) ∧
  (∀ (s : State) (b : BootImages) (m : Module), s.module.bootFits b = true →
    m = { Module.fresh with fuses := some b.fuses, fused := s.module.fused, staged := s.module.staged } →
    ∃ t : State, exec (.powerOn b) s = .next t ∧ t.groups = [] ∧ t.launches = [] ∧ t.memory = State.reset.memory ∧ t.nextSeq = 1 ∧ t.agenda = s.agenda ∧
      t.module.fuses = some b.fuses ∧ t.module.gradeB = b.fuses.gradeB ∧ t.module.rootDigest = b.config.take 48 ∧
      ((∃ x ∈ m.stages b, ∃ i, x.image = some i ∧ m.runs i = false) → t.module.boot = .recovery) ∧
      ((∀ x ∈ m.stages b, ∀ i, x.image = some i → m.runs i = true) →
        t.module.boot = .running ∧ (∀ d, t.isLive d = true ↔ d < 512 ∧ d ∉ b.fuses.disabled ∧ d ∉ b.selfTestFail) ∧ t.module.meas.length = 8 ∧
        let extends_ (xs : List (List Byte)) : List Byte := xs.foldl (fun r x => sha384 (r ++ sha384 x)) (List.replicate 48 0)
        let read (i : FwImage) : List Byte := imageBytes (stagedFor s.module.staged i)
        t.module.meas.getD 0 [] = extends_ [fuseBytes b.fuses s.module.fused] ∧ t.module.meas.getD 1 [] = extends_ [read b.controller] ∧
          t.module.meas.getD 2 [] = extends_ (b.edies.map read) ∧ t.module.meas.getD 3 [] = extends_ [read b.mdie] ∧
          t.module.meas.getD 4 [] = extends_ [read b.kdie] ∧ t.module.meas.getD 5 [] = extends_ [read b.crown] ∧
          t.module.meas.getD 6 [] = extends_ (b.handlers.map read) ∧ t.module.meas.getD 7 [] = extends_ [b.config]))

/-- (R391 to R393) Each SPDM request is answered with its response, after its length, while the module has power; in a session request and answer are
secured messages under its keys. A session opens by KEY_EXCHANGE, Busy while one is open, whose answer carries the part's ECDHE share, its
signature and its MAC, and by a FINISH under the keys of that handshake that authenticates the requester, whose chain starts at the root of the
configuration blob; it ends by END_SESSION, by a FINISH that fails, or by a message of the session that its keys do not open.
MEASUREMENTS hold the eight registers in order, and signed also both signatures over one transcript; a request that is none of the ten is answered
with ERROR UnsupportedRequest. A message that arrives is answered by the row of its code.
Completion said for: getVersion, getCapabilities, negotiateAlgorithms, getDigests, getCertificate, challenge, getMeasurements, keyExchange,
finish, endSession, spdmUnsupportedRequest.
(The model's own readings in it: log 17, 19, 76, 77, 91.) -/
def Obligations.SpdmAnswers : Prop :=
  (∀ (s : State) (m : SpdmMsg), s.module.boot ≠ .off →
    let x := s.module.session
    let sent (t : State) (b : List Byte) : Prop :=
      let wire := match x.keys? with
        | some k => if m.secured then k.seal b else b
        | none => b
      t.out = s.out ++ [.spdm (leBytes 4 wire.length ++ wire)] ∧ t.memory = s.memory ∧ t.groups = s.groups ∧ t.module.meas = s.module.meas
    let moves (i : Instr) (to_ : Session) (p : List Byte → Prop) : Prop := ∃ (t : State) (b : List Byte), exec i s = .next t ∧
      sent t b ∧ p b ∧ t.module.session = to_
    let replies (i : Instr) (p : List Byte → Prop) : Prop := moves i (if m.secured then x.sent else x) p
    let tr := s.module.transcript
    replies (.getVersion m) (fun b => b = [0x10, 0x04, 0, 0, 0, 1, 0x00, 0x13]) ∧
    replies (.getCapabilities m) (fun b => b.take 4 = [0x13, 0x61, 0, 0] ∧ leAt b 8 4 = 0x3D6) ∧
    replies (.negotiateAlgorithms m) (fun b => b.take 4 = [0x13, 0x63, 4, 0] ∧ b.length = 52 ∧ leAt b 8 4 = 0x4 ∧ leAt b 12 4 = 0x400 ∧ leAt b 16 4 = 0x2 ∧
      b.drop 36 = [2, 0x20, 0x10, 0, 3, 0x20, 2, 0, 4, 0x20, 0, 4, 5, 0x20, 1, 0]) ∧
    replies (.getDigests m) (fun b => b = [0x13, 0x01, 1, 1] ++ sha384 slot0) ∧
    (let off := leAt m.bytes 4 2
     let part := (slot0.drop off).take (leAt m.bytes 6 2)
     (off < slot0.length → replies (.getCertificate 0 m) fun b =>
       b = [0x13, 0x02, 0, 0] ++ leBytes 2 part.length ++ leBytes 2 (slot0.length - off - part.length) ++ part) ∧
     (slot0.length ≤ off → replies (.getCertificate 0 m) fun b => b = [0x13, 0x7F, 1, 0])) ∧
    (∀ slot, slot ≠ 0 → replies (.getCertificate slot m) fun b => b = [0x13, 0x7F, 1, 0]) ∧
    (leAt m.bytes 2 1 = 0 → replies (.challenge m) fun b => ∃ n rest r, r = [0x13, 0x03, 0, 1] ++ sha384 slot0 ++ n ++ rest ∧ n.length = 32 ∧
      b = r ++ ed25519Sign deviceEdSeed (spdmSigned "responder-challenge_auth signing" (tr.a ++ tr.b ++ m.bytes ++ r))) ∧
    (leAt m.bytes 2 1 ≠ 0 → replies (.challenge m) fun b => b = [0x13, 0x7F, 1, 0]) ∧
    (∀ d0 d1 d2 d3 d4 d5 d6 d7, s.module.meas = [d0, d1, d2, d3, d4, d5, d6, d7] →
      let block (i type : Byte) (d : List Byte) : List Byte := [i, 1] ++ leBytes 2 (d.length + 3) ++ [type] ++ leBytes 2 d.length ++ d
      let blocks := block 1 2 d0 ++ block 2 1 d1 ++ block 3 1 d2 ++ block 4 1 d3 ++ block 5 1 d4 ++ block 6 1 d5 ++ block 7 1 d6 ++ block 8 3 d7
      let response (k : Byte) (rec n ctx : List Byte) : List Byte := [0x13, 0x60, 0, 0, k] ++ leBytes 3 rec.length ++ rec ++ n ++ [0, 0] ++ ctx
      replies (.getMeasurements false m) (fun b => ∃ n ctx, n.length = 32 ∧ b = response 8 blocks n ctx) ∧
      replies (.getMeasurements true m) (fun b => ∃ n ctx rnd, n.length = 32 ∧
        let signed := spdmSigned "responder-measurements signing" (tr.a ++ (tr.l ++ m.bytes ++ response 8 blocks n ctx))
        b = response 9 (blocks ++ block 0x40 0x84 (mldsaSign deviceMlSeed rnd signed)) n ctx ++ ed25519Sign deviceEdSeed signed)) ∧
    (x.isOpen = true → replies (.keyExchange m) fun b => b = [0x13, 0x7F, 3, 0]) ∧
    (x.isOpen = false →
      ((leAt m.bytes 3 1 ≠ 0 ∨ m.bytes.length < 138 ∨ p384Point (bytesAt m.bytes 40 96) = none) → replies (.keyExchange m) fun b => b = [0x13, 0x7F, 1, 0]) ∧
      (∀ q, leAt m.bytes 3 1 = 0 → 138 ≤ m.bytes.length → p384Point (bytesAt m.bytes 40 96) = some q →
        ∃ (t : State) (b r half rnd rest : List Byte) (d : Nat) (k : Keys), exec (.keyExchange m) s = .next t ∧ sent t b ∧ t.module.session = .opening k ∧
          half.length = 2 ∧ rnd.length = 32 ∧ 0 < d ∧ d < p384Order ∧ r = [0x13, 0x64, 0, 0] ++ half ++ [1, 0] ++ rnd ++ p384Share d ++ rest ∧
          let before := tr.a ++ sha384 slot0 ++ m.bytes ++ r
          let signature := ed25519Sign deviceEdSeed (spdmSigned "responder-key_exchange_rsp signing" before)
          k = handshakeKeys (bytesAt m.bytes 4 2 ++ half) (p384Secret d q) (sha384 (before ++ signature)) ∧
            b = r ++ signature ++ k.rsp.verify (sha384 (before ++ signature)))) ∧
    (m.secured = true → x.isOpen = true → moves (.endSession m) .none fun b => b = [0x13, 0x6C, 0, 0]) ∧
    ((m.secured = false ∨ x.isOpen = false) → replies (.endSession m) fun b => b = [0x13, 0x7F, 4, 0]) ∧
    (∀ chain, (∀ k, x = .opening k → m.secured = true →
        (s.module.authentic k chain m.bytes = true → (∃ to_, moves (.finish chain m) (.open_ to_) fun b => b = [0x13, 0x65, 0, 0] ∧
            to_ = k.applied (sha384 (s.module.finishing chain m.bytes ++ m.bytes.drop 4 ++ b))) ∧
          sha384 (chain.headD []) = s.module.rootDigest ∧
          m.bytes.drop 68 = k.req.verify (sha384 (s.module.finishing chain m.bytes ++ bytesAt m.bytes 4 64))) ∧
        (s.module.authentic k chain m.bytes = false → moves (.finish chain m) .none fun b => b = [0x13, 0x7F, 6, 0])) ∧
      ((m.secured = false ∨ ∀ k, x ≠ .opening k) → replies (.finish chain m) fun b => b = [0x13, 0x7F, 4, 0])) ∧
    (∀ code, code ∉ [0x84, 0xE1, 0xE3, 0x81, 0x82, 0x83, 0xE0, 0xE4, 0xE5, 0xEC] → m.bytes ≠ [] →
      replies (.spdmUnsupportedRequest code m) fun b => b = [0x13, 0x7F, 7] ++ leBytes 1 code)) ∧
  (∀ (s : State) (chain : List (List Byte)) (bytes : List Byte), 8 ≤ bytes.length → leAt bytes 0 4 = bytes.length - 4 →
    let message := bytes.drop 4
    let x := s.module.session
    let answers (u : State) (m : SpdmMsg) : Prop :=
      let code := leAt m.bytes 1 1
      let version := if code = 0x84 then 0x10 else 0x13
      (leAt m.bytes 0 1 = version →
        (∀ p, p ∈ [(0x84, Instr.getVersion m), (0xE1, .getCapabilities m), (0xE3, .negotiateAlgorithms m), (0x81, .getDigests m),
            (0x82, .getCertificate (leAt m.bytes 2 1 % 16) m), (0x83, .challenge m), (0xE0, .getMeasurements (decide (leAt m.bytes 2 1 % 2 = 1)) m),
            (0xE4, .keyExchange m), (0xE5, .finish chain m), (0xEC, .endSession m)] → code = p.1 → s.attest chain bytes = exec p.2 u) ∧
        (code ∉ [0x84, 0xE1, 0xE3, 0x81, 0x82, 0x83, 0xE0, 0xE4, 0xE5, 0xEC] → s.attest chain bytes = exec (.spdmUnsupportedRequest code m) u)) ∧
      (leAt m.bytes 0 1 ≠ version → m.secured = false → u.module.boot ≠ .off → ∃ t : State, s.attest chain bytes = .next t ∧
        t.out = u.out ++ [.spdm [4, 0, 0, 0, 0x13, 0x7F, 0x41, 0]] ∧ t.module.session = u.module.session)
    let mine := ∃ k, x.keys? = some k ∧ message.take 4 = k.id
    (¬ mine → answers s ⟨message, false⟩) ∧
    (∀ k data, mine → x.keys? = some k → k.unseal message = some data →
      (spdmData data = false → s.attest chain bytes = .next s) ∧
      (spdmData data = true → (x.isOpen = true ∨ leAt data 1 1 = 0xE5) → answers (s.withSession x.received) ⟨data, true⟩)) ∧
    (∀ k, mine → x.keys? = some k → k.unseal message = none → s.module.boot ≠ .off → ∃ t : State, s.attest chain bytes = .next t ∧
      t.out = s.out ++ [.spdm [4, 0, 0, 0, 0x13, 0x7F, 6, 0]] ∧ t.module.session = .none ∧ t.memory = s.memory)) ∧
  (∀ (k k' : Keys) (data : List Byte), k.id.length = 4 → k'.id = k.id → k'.req = k.rsp → data.length < 65000 → k'.unseal (k.seal data) = some data)

/-- (R58, R111, R112) IADD, ISUB, IMUL, IMAD, IABS and INEG of two, three or one sources, and IADD and IMUL with an immediate, give in every element of every
lane the exact result, modulo 2^w without SAT, and with it the nearer bound and SX. IMULH gives the upper half of the product, IMIN and IMAX the smaller
and the larger, AND, OR, XOR and NOT the bits of the word; those rows, and their immediate forms, set no flag. -/
def Obligations.IntegerResultsExact : Prop :=
  ∀ (c : Ctx) (h : Hdr) (l : Nat),
    (∀ q : FormQ, q.ty.toNat < 4 →
      let ty := q.ty.toNat
      let s (n k : Nat) : Word := src (c.reads (oneOf ty) ([q.sa, q.sb, q.sc].take n) l) k
      let v (n k j : Nat) : Int := numberOf ty j (s n k)
      let each (i : Instr) (x : Nat → Int) : Prop := c.intResult i l fun r => r.flags = 0 ∧ ∀ j, j < elements ty → numberOf ty j r.word = x j
      let bits (i : Instr) (w : Word) : Prop := c.intResult i l fun r => r.flags = 0 ∧ r.word = w
      c.intResult (.iadd h q) l (fun r => reducedTo ty q.sat r fun j => v 2 0 j + v 2 1 j) ∧
      c.intResult (.isub h q) l (fun r => reducedTo ty q.sat r fun j => v 2 0 j - v 2 1 j) ∧
      c.intResult (.imul h q) l (fun r => reducedTo ty q.sat r fun j => v 2 0 j * v 2 1 j) ∧
      c.intResult (.imad h q) l (fun r => reducedTo ty q.sat r fun j => v 3 0 j * v 3 1 j + v 3 2 j) ∧
      c.intResult (.iabs h q) l (fun r => reducedTo ty q.sat r fun j => ((v 1 0 j).natAbs : Int)) ∧
      c.intResult (.ineg h q) l (fun r => reducedTo ty q.sat r fun j => -(v 1 0 j)) ∧
      each (.imulh h q) (fun j => (v 2 0 j * v 2 1 j) / 2 ^ elemBits ty) ∧
      each (.imin h q) (fun j => min (v 2 0 j) (v 2 1 j)) ∧ each (.imax h q) (fun j => max (v 2 0 j) (v 2 1 j)) ∧
      bits (.andBits h q) (s 2 0 &&& s 2 1) ∧ bits (.orBits h q) (s 2 0 ||| s 2 1) ∧ bits (.xorBits h q) (s 2 0 ^^^ s 2 1) ∧
      bits (.notBits h q) (~~~(s 1 0))) ∧
    (∀ q : FormQI, q.ty.toNat < 4 →
      let ty := q.ty.toNat
      let a : Word := src (c.reads (oneOf ty) [q.sa] l) 0
      let v (j : Nat) : Int := numberOf ty j a
      let each (i : Instr) (x : Nat → Int) : Prop := c.intResult i l fun r => r.flags = 0 ∧ ∀ j, j < elements ty → numberOf ty j r.word = x j
      let bits (i : Instr) (w : Word) : Prop := c.intResult i l fun r => r.flags = 0 ∧ r.word = w
      c.intResult (.iaddImm h q) l (fun r => reducedTo ty false r fun j => v j + numberOf ty j q.imm) ∧
      c.intResult (.imulImm h q) l (fun r => reducedTo ty false r fun j => v j * numberOf ty j q.imm) ∧
      each (.iminImm h q) (fun j => min (v j) (numberOf ty j q.imm)) ∧ each (.imaxImm h q) (fun j => max (v j) (numberOf ty j q.imm)) ∧
      bits (.andBitsImm h q) (a &&& q.imm) ∧ bits (.orBitsImm h q) (a ||| q.imm) ∧ bits (.xorBitsImm h q) (a ^^^ q.imm))

/-- (R59, R60, R69 to R71, R113, R118 to R122, R123 to R128) IDIV and IREM give in every element of every lane, whatever the other elements and lanes
meet, the quotient truncated toward zero and its remainder; by 0 the quotient is −1 or the greatest number and the remainder a; the least number by −1
gives a and 0; both set DZ.
Where FTZ = 0 the floating-point rows give, of numbers, the sum, difference, product, product and sum, quotient or root rounded once by RND, with its
flags; a NaN gives the canonical NaN, and infinities and zeros give what IEEE 754 says. FMIN, FMAX and FCMP follow the order of the codes, FABS and FNEG the
sign bit, FCLASS the class, FRND the nearest integer by RND. RCP is rounded once, RSQ is a bracketing number or for .bf16x2 the nearest, EX2 of an integer
and LG2 of a power of two are exact, and special inputs give the table of R124. CVT, QNT and DQNT give the exact value, scaled, converted once.
(The model's own readings in it: log 71.) -/
def Obligations.DivisionsExact : Prop :=
  (∀ (c : Ctx) (h : Hdr) (l : Nat) (q : FormQ), q.ty.toNat < 4 →
    let ty := q.ty.toNat
    let v (k j : Nat) : Int := numberOf ty j (src (c.reads (oneOf ty) [q.sa, q.sb] l) k)
    let signed := ty = 0 ∨ ty = 2
    let dz (j : Nat) : Prop := v 1 j = 0 ∨ (signed ∧ v 0 j = leastOf ty ∧ v 1 j = -1)
    let flags (r : Res) : Prop := ((∃ j, j < elements ty ∧ dz j) → r.flags = 1) ∧ ((∀ j, j < elements ty → ¬ dz j) → r.flags = 0)
    c.intResult (.idiv h q) l (fun r => flags r ∧ ∀ j, j < elements ty →
      (v 1 j = 0 → signed → numberOf ty j r.word = -1) ∧ (v 1 j = 0 → ¬ signed → numberOf ty j r.word = greatestOf ty) ∧
      (signed → v 0 j = leastOf ty → v 1 j = -1 → numberOf ty j r.word = v 0 j) ∧
      (¬ dz j → numberOf ty j r.word = (v 0 j).tdiv (v 1 j))) ∧
    c.intResult (.irem h q) l (fun r => flags r ∧ ∀ j, j < elements ty →
      (v 1 j = 0 → numberOf ty j r.word = v 0 j) ∧ (signed → v 0 j = leastOf ty → v 1 j = -1 → numberOf ty j r.word = 0) ∧
      (¬ dz j → numberOf ty j r.word = v 0 j - (v 0 j).tdiv (v 1 j) * v 1 j))) ∧
  (∀ (c : Ctx) (h : Hdr) (l : Nat) (q : FormQ), q.ty = 4 ∨ q.ty = 5 →
    let ty := q.ty.toNat
    let f := fracOf ty
    let u : Int := (2 ^ (126 + f) : Nat)
    let rnd := q.rnd.toNat
    let s (n k : Nat) : Word := src (c.reads (oneOf ty) ([q.sa, q.sb, q.sc].take n) l) k
    let code (n k j : Nat) : Nat := floatCode ty j (s n k)
    let num (n k : Nat) (x : Nat → Int) : Prop := ∀ j, j < floatElems ty → unitsOf f (code n k j) = some (x j)
    let sign (x : Int) : Int := if x < 0 then -1 else 1
    let minus (x : Nat) : Prop := 2 ^ (f + 8) ≤ x
    let inf (neg : Prop) (x : Nat) : Prop := (neg → x = 2 ^ (f + 8) + 255 * 2 ^ f) ∧ (¬ neg → x = 255 * 2 ^ f)
    let infinite (x : Nat) : Prop := unitsOf f x = none ∧ ¬ isNaN f x
    let each (i : Instr) (P : Nat → Nat → Prop) : Prop := c.floatResult i l fun r => ∀ j, j < floatElems ty → P j (floatCode ty j r.word)
    let plain (i : Instr) (x : Nat → Nat) : Prop := c.floatResult i l fun r => r.flags = 0 ∧ ∀ j, j < floatElems ty → floatCode ty j r.word = x j
    c.floatResult (.fabs h q) l (fun r => r.flags = 0 ∧ r.word = s 1 0 &&& if ty = 4 then 0x7FFFFFFF else 0x7FFF7FFF) ∧
    c.floatResult (.fneg h q) l (fun r => r.flags = 0 ∧ r.word = s 1 0 ^^^ if ty = 4 then 0x80000000 else 0x80008000) ∧
    plain (.fclass h q) (fun j => 2 ^ classBit f (code 1 0 j)) ∧
    (c.warp.mode.getLsbD 0 = false →
      (∀ x y z : Nat → Int,
        (num 2 0 x → num 2 1 y →
          c.floatResult (.fadd h q) l (fun r => roundedTo ty rnd q.sat r (fun j => x j + y j) fun _ => 1) ∧
          c.floatResult (.fsub h q) l (fun r => roundedTo ty rnd q.sat r (fun j => x j - y j) fun _ => 1) ∧
          c.floatResult (.fmul h q) l (fun r => roundedTo ty rnd q.sat r (fun j => x j * y j) fun _ => u.toNat) ∧
          ((∀ j, j < floatElems ty → y j ≠ 0) →
            c.floatResult (.fdiv h q) l fun r => roundedTo ty rnd q.sat r (fun j => x j * u * sign (y j)) fun j => (y j).natAbs)) ∧
        (num 3 0 x → num 3 1 y → num 3 2 z →
          c.floatResult (.ffma h q) l fun r => roundedTo ty rnd q.sat r (fun j => x j * y j + z j * u) fun _ => u.toNat) ∧
        (num 1 0 x →
          ((∀ j, j < floatElems ty → 0 < x j) → c.floatResult (.fsqrt h q) l fun r =>
            (∀ j, j < floatElems ty → floatCode ty j r.word < 2 ^ (f + 8) ∧ rootsTo f rnd ((x j).toNat * u.toNat) 1 (floatCode ty j r.word)) ∧
            (((∀ j, j < floatElems ty → ∃ v, unitsOf f (floatCode ty j r.word) = some v ∧ v * v = x j * u) → r.flags = 0) ∧
              ((∃ j, j < floatElems ty ∧ ∀ v, unitsOf f (floatCode ty j r.word) = some v → v * v ≠ x j * u) → r.flags = 0x10))) ∧
          c.floatResult (.frnd h q) l (fun r =>
            (∀ j, j < floatElems ty → ∃ k, roundsInt rnd (x j) u.toNat k ∧ unitsOf f (floatCode ty j r.word) = some (k * u) ∧
              (minus (floatCode ty j r.word) ↔ minus (code 1 0 j))) ∧
            ((∀ j, j < floatElems ty → unitsOf f (floatCode ty j r.word) = some (x j)) → r.flags = 0) ∧
            ((∃ j, j < floatElems ty ∧ unitsOf f (floatCode ty j r.word) ≠ some (x j)) → r.flags = 0x10)) ∧
          ((∀ j, j < floatElems ty → x j ≠ 0) → q.sat = false → (ty = 4 ∨ rnd = 0) →
            c.floatResult (.rcp h q) l fun r => roundedTo ty rnd false r (fun j => u * u * sign (x j)) fun j => (x j).natAbs) ∧
          (q.sat = false → rnd = 0 → each (.rsq h q) fun j r => 0 < x j → let n := (x j).toNat
            let t := u.toNat ^ 3
            if ty = 4 then rootsTo 23 1 t n r ∨ rootsTo 23 3 t n r else rootsTo 7 0 t n r) ∧
          (q.sat = false → rnd = 0 → each (.ex2 h q) fun j r => ∀ k : Int, x j = k * u → -126 - (f : Int) ≤ k → k ≤ 127 →
            unitsOf f r = some ((2 ^ (k + 126 + f).toNat : Nat) : Int)) ∧
          (q.sat = false → rnd = 0 → each (.lg2 h q) fun j r => ∀ e : Nat, x j = (2 ^ e : Nat) → unitsOf f r = some (((e : Int) - 126 - f) * u)))) ∧
      each (.fadd h q) (fun j r => let a := code 2 0 j
        let b := code 2 1 j
        ((isNaN f a ∨ isNaN f b ∨ (infinite a ∧ infinite b ∧ a ≠ b)) → r = canonicalNaN f) ∧ (infinite a → ¬ isNaN f b → (infinite b → a = b) → r = a) ∧
        (infinite b → unitsOf f a ≠ none → r = b) ∧
        (∀ v w, unitsOf f a = some v → unitsOf f b = some w → v + w = 0 → (minus r ↔ (minus a ∧ minus b) ∨ (rnd = 2 ∧ ¬ (minus a ↔ minus b))))) ∧
      (∀ i k, (i, k) ∈ [(Instr.fsub h q, 2), (.ffma h q, 3), (.fsqrt h q, 1), (.frnd h q, 1), (.rcp h q, 1), (.rsq h q, 1), (.ex2 h q, 1), (.lg2 h q, 1), (.sin h q, 1),
          (.cos h q, 1), (.tanh h q, 1), (.sigm h q, 1)] → each i fun j r => (∃ n, n < k ∧ isNaN f (code k n j)) → r = canonicalNaN f) ∧
      each (.fmul h q) (fun j r => let a := code 2 0 j
        let b := code 2 1 j
        ((isNaN f a ∨ isNaN f b ∨ (infinite a ∧ unitsOf f b = some 0) ∨ (unitsOf f a = some 0 ∧ infinite b)) → r = canonicalNaN f) ∧
        (¬ isNaN f a → ¬ isNaN f b → unitsOf f a ≠ some 0 → unitsOf f b ≠ some 0 → (infinite a ∨ infinite b) → inf (¬ (minus a ↔ minus b)) r)) ∧
      each (.fdiv h q) (fun j r => let a := code 2 0 j
        let b := code 2 1 j
        ((isNaN f a ∨ isNaN f b ∨ (infinite a ∧ infinite b) ∨ (unitsOf f a = some 0 ∧ unitsOf f b = some 0)) → r = canonicalNaN f) ∧
        (¬ isNaN f a → unitsOf f a ≠ some 0 → (unitsOf f b = some 0 ∨ (infinite a ∧ unitsOf f b ≠ none)) → inf (¬ (minus a ↔ minus b)) r) ∧
        (unitsOf f a ≠ none → infinite b → r % 2 ^ (f + 8) = 0 ∧ (minus r ↔ ¬ (minus a ↔ minus b)))) ∧
      each (.fsqrt h q) (fun j r => let a := code 1 0 j
        ((unitsOf f a = some 0 ∨ a = 255 * 2 ^ f) → r = a) ∧ (minus a → unitsOf f a ≠ some 0 → r = canonicalNaN f)) ∧
      each (.frnd h q) (fun j r => infinite (code 1 0 j) → r = code 1 0 j) ∧
      (ty = 4 → ∀ i k, (i, k) ∈ [(Instr.fadd h q, 2), (.fsub h q, 2), (.fmul h q, 2), (.fdiv h q, 2), (.fsqrt h q, 1)] → c.floatResult i l fun r =>
        ((∃ n, n < k ∧ isNaN 23 (code k n 0)) → r.flags = 0) ∧ ((∀ n, n < k → ¬ isNaN 23 (code k n 0)) → isNaN 23 r.word.toNat → r.flags = 2) ∧
        ((∃ n, n < k ∧ infinite (code k n 0)) → ¬ isNaN 23 r.word.toNat → r.flags = 0)) ∧
      (let pick (least : Bool) (j : Nat) : Nat → Prop := fun r => let a := code 2 0 j
         let b := code 2 1 j
         (isNaN f a → isNaN f b → r = canonicalNaN f) ∧ (isNaN f a → ¬ isNaN f b → r = b) ∧ (¬ isNaN f a → isNaN f b → r = a) ∧
         (¬ isNaN f a → ¬ isNaN f b → r = if codeRank f a true ≤ codeRank f b true then (if least then a else b) else if least then b else a)
       c.floatResult (.fmin h q) l (fun r => r.flags = 0 ∧ ∀ j, j < floatElems ty → pick true j (floatCode ty j r.word)) ∧
       c.floatResult (.fmax h q) l (fun r => r.flags = 0 ∧ ∀ j, j < floatElems ty → pick false j (floatCode ty j r.word))) ∧
      (q.sub.toNat < 8 → c.floatResult (.fcmp h q) l fun r => r.flags = 0 ∧ ∀ j, j < floatElems ty →
        let a := codeRank f (code 2 0 j) false
        let b := codeRank f (code 2 1 j) false
        let n := isNaN f (code 2 0 j) ∨ isNaN f (code 2 1 j)
        let true_ := (n ∧ q.sub.toNat ∈ [1, 6]) ∨ (¬ n ∧ ((q.sub = 0 ∧ a = b) ∨ (q.sub = 1 ∧ a ≠ b) ∨ (q.sub = 2 ∧ a < b) ∨ (q.sub = 3 ∧ a ≤ b) ∨
          (q.sub = 4 ∧ b < a) ∨ (q.sub = 5 ∧ b ≤ a) ∨ q.sub = 7))
        (true_ → floatCode ty j r.word = 2 ^ (f + 9) - 1) ∧ (¬ true_ → floatCode ty j r.word = 0)) ∧
      (q.sat = false → rnd = 0 →
        (∀ t, t ∈ specialInputs h q f → each t.1 fun j r => let a := code 1 0 j
          (a = 2 ^ (f + 8) + 255 * 2 ^ f → r = t.2.1) ∧ (a = 2 ^ (f + 8) → r = t.2.2.1) ∧ (a = 0 → r = t.2.2.2.1) ∧ (a = 255 * 2 ^ f → r = t.2.2.2.2)) ∧
        (∀ i, i ∈ [Instr.rsq h q, .lg2 h q] → each i fun j r => ∀ v, unitsOf f (code 1 0 j) = some v → v < 0 → r = canonicalNaN f)))) ∧
  (∀ (c : Ctx) (h : Hdr) (l : Nat) (q : FormQI), q.ty = 4 ∨ q.ty = 5 → c.warp.mode.getLsbD 0 = false →
    let ty := q.ty.toNat
    let f := fracOf ty
    let a (j : Nat) : Nat := floatCode ty j (src (c.reads (oneOf ty) [q.sa] l) 0)
    let b (j : Nat) : Nat := floatCode ty j q.imm
    let pick (least : Bool) (r : Res) : Prop := r.flags = 0 ∧ ∀ j, j < floatElems ty → ¬ isNaN f (a j) → ¬ isNaN f (b j) →
      floatCode ty j r.word = if codeRank f (a j) true ≤ codeRank f (b j) true then (if least then a j else b j) else if least then b j else a j
    c.floatResult (.fminImm h q) l (pick true) ∧ c.floatResult (.fmaxImm h q) l (pick false) ∧
    ∀ x y : Nat → Int, (∀ j, j < floatElems ty → unitsOf f (a j) = some (x j) ∧ unitsOf f (b j) = some (y j)) →
      c.floatResult (.faddImm h q) l (fun r => roundedTo ty 0 false r (fun j => x j + y j) fun _ => 1) ∧
      c.floatResult (.fmulImm h q) l (fun r => roundedTo ty 0 false r (fun j => x j * y j) fun _ => 2 ^ (126 + f))) ∧
  (∀ (c : Ctx) (h : Hdr) (l : Nat) (q : FormQ), c.warp.mode.getLsbD 0 = false →
    let rnd := q.rnd.toNat
    let ty := q.ty.toNat
    let sub := q.sub.toNat % 16
    let s (n k : Nat) : Word := src (c.reads (oneOf ty) ([q.sa, q.sb].take n) l) k
    let xv := (c.xv l).toNat
    let scale := (s 2 1).toNat % 256
    (ty < 15 → sub ∈ [0, 1, 4, 6, 7, 8, 9, 10, 11, 12, 13] → (ty = 14 → sub = 4 ∨ sub = 13) →
      let from_ := kindOf ty
      let code := codeAt from_ (q.sub.toNat / 16 % 8) (s 1 0)
      let ints := integerType from_ = true ∧ integerType sub = true
      (q.sat = true → (from_ = 4 ∧ sub = 13) ∨ (ints ∧ codeBits sub < codeBits from_)) →
      c.floatResult (.cvt h q) l fun r =>
        (ints → ∀ n, elementValue from_ 0 code = some (n, 0) → ∃ k m, scalarIs sub r.word k ∧ elementValue sub 0 k = some (m, 0) ∧
          (q.sat = true → m = max (leastCode sub) (min (greatestCode sub) n)) ∧ (q.sat = false → (m - n) % 2 ^ codeBits sub = 0) ∧
          r.flags = if q.sat = true ∧ (n < leastCode sub ∨ greatestCode sub < n) then 0x20 else 0) ∧
        (from_ = sub → sub ∈ [6, 7, 8] → r.flags = 0 ∧ r.word.toNat = code) ∧
        (¬ ints → ¬ (from_ = sub ∧ sub ∈ [6, 7, 8]) →
          (∀ p e, elementValue from_ xv code = some (p, e) → holds sub rnd q.sat p (2 ^ e) r) ∧
          (notANumber from_ xv code → nanBecomes sub r) ∧
          (elementValue from_ xv code = none → ¬ notANumber from_ xv code → infBecomes sub (belowZero from_ xv code) r))) ∧
    (6 ≤ ty → ty ≤ 12 → (sub = 4 ∨ sub = 13) → (q.flag = true → ty = 8) →
      let code := codeAt sub 0 (s 2 0)
      c.floatResult (.qnt h q) l fun r =>
        ((scale = 255 ∨ notANumber sub 0 code) → nanBecomes ty r) ∧
        (scale ≠ 255 →
          (∀ p e, elementValue sub 0 code = some (p, e) →
            let same := ∃ v, unitsOf 7 xv = some v ∧ p * 2 ^ 127 * 2 ^ 133 = v * 2 ^ (e + scale)
            (q.flag = true → same → r.word = 8 ∧ r.flags = 0) ∧ (¬ (q.flag = true ∧ same) → holds ty rnd false (p * 2 ^ 127) (2 ^ (e + scale)) r)) ∧
          (elementValue sub 0 code = none → ¬ notANumber sub 0 code →
            let same := xv = if sub = 4 then code / 65536 else code
            (q.flag = true → same → r.word = 8 ∧ r.flags = 0) ∧ (¬ (q.flag = true ∧ same) → infBecomes ty (belowZero sub 0 code) r)))) ∧
    (ty ∈ [6, 7, 8, 9, 10, 13] → (sub = 4 ∨ sub = 13) →
      let code := codeAt ty (q.sub.toNat / 16 % 8) (s 2 0)
      c.floatResult (.dqnt h q) l fun r =>
        ((scale = 255 ∨ notANumber ty xv code) → nanBecomes sub r) ∧
        (scale ≠ 255 → (∀ p e, elementValue ty xv code = some (p, e) → holds sub rnd false (p * 2 ^ scale) (2 ^ (e + 127)) r) ∧
          (elementValue ty xv code = none → ¬ notANumber ty xv code → infBecomes sub (belowZero ty xv code) r))))

/-- (R57, R114 to R116, R129) Bit by bit of each element: SHL, SHR, SAR and ROT, also by an immediate, by the count modulo w; POPC, CLZ and BREV; BFX and BFI
of one word. ICMP gives all ones where its condition holds between the two numbers and 0 elsewhere; codes above 5 are not well-formed. PACK puts the
low bits of a in the place of element j of b, and UNPK gives element j of a as a scalar. -/
def Obligations.ShiftsAndFieldsExact : Prop :=
  ∀ (c : Ctx) (h : Hdr) (l : Nat),
    let shl (ty : Nat) (a b : Word) (r : Res) : Prop := r.flags = 0 ∧ ∀ j i : Nat, j < elements ty → i < elemBits ty →
      let n := b.toNat / 2 ^ (elemBits ty * j) % elemBits ty
      elemBit ty j r.word i = (decide (n ≤ i) && elemBit ty j a (i - n))
    let shr (ty : Nat) (a b : Word) (r : Res) : Prop := r.flags = 0 ∧ ∀ j i : Nat, j < elements ty → i < elemBits ty →
      let n := b.toNat / 2 ^ (elemBits ty * j) % elemBits ty
      elemBit ty j r.word i = (decide (i + n < elemBits ty) && elemBit ty j a (i + n))
    let sar (ty : Nat) (a b : Word) (r : Res) : Prop := r.flags = 0 ∧ ∀ j i : Nat, j < elements ty → i < elemBits ty →
      let n := b.toNat / 2 ^ (elemBits ty * j) % elemBits ty
      elemBit ty j r.word i = elemBit ty j a (min (i + n) (elemBits ty - 1))
    (∀ q : FormQ, q.ty.toNat < 4 →
      let ty := q.ty.toNat
      let s (n k : Nat) : Word := src (c.reads (oneOf ty) ([q.sa, q.sb, q.sc].take n) l) k
      c.intResult (.shl h q) l (shl ty (s 2 0) (s 2 1)) ∧ c.intResult (.shr h q) l (shr ty (s 2 0) (s 2 1)) ∧
      c.intResult (.sar h q) l (sar ty (s 2 0) (s 2 1)) ∧
      c.intResult (.rot h q) l (fun r => ∀ j i : Nat, j < elements ty → i < elemBits ty →
        let n := (s 2 1).toNat / 2 ^ (elemBits ty * j) % elemBits ty
        elemBit ty j r.word i = elemBit ty j (s 2 0) ((i + elemBits ty - n) % elemBits ty)) ∧
      c.intResult (.popc h q) l (fun r => ∀ j : Nat, j < elements ty →
        r.word.toNat / 2 ^ (elemBits ty * j) % 2 ^ elemBits ty = ((List.range (elemBits ty)).filter (elemBit ty j (s 1 0))).length) ∧
      c.intResult (.clz h q) l (fun r => ∀ j : Nat, j < elements ty → ∃ k : Nat, k ≤ elemBits ty ∧
        r.word.toNat / 2 ^ (elemBits ty * j) % 2 ^ elemBits ty = k ∧ (∀ i, i < elemBits ty → elemBits ty - k ≤ i → elemBit ty j (s 1 0) i = false) ∧
        (k < elemBits ty → elemBit ty j (s 1 0) (elemBits ty - 1 - k) = true)) ∧
      c.intResult (.brev h q) l (fun r => ∀ j i : Nat, j < elements ty → i < elemBits ty →
        elemBit ty j r.word i = elemBit ty j (s 1 0) (elemBits ty - 1 - i)) ∧
      (ty < 2 → c.intResult (.bfx h q) l (fun r =>
        let pos := (s 3 1).toNat % 32
        let len := min ((s 3 2).toNat % 64) 32
        (len = 0 → r.word = 0) ∧ ∀ i : Nat, i < 32 → 0 < len →
          let at_ (k : Nat) : Bool := decide (pos + k < 32) && (s 3 0).getLsbD (pos + k)
          r.word.getLsbD i = if i < len then at_ i else decide (ty = 0) && at_ (len - 1)) ∧
        c.intResult (.bfi h q) l (fun r =>
          let pos := (s 3 2).toNat % 32
          let len := min ((s 3 2).toNat / 256 % 64) 32
          ∀ i : Nat, i < 32 → r.word.getLsbD i = if pos ≤ i ∧ i < pos + len then (s 3 1).getLsbD (i - pos) else (s 3 0).getLsbD i)) ∧
      (c.intResult (.icmp h q) l (fun r => ∀ j i : Nat, j < elements ty → i < elemBits ty → q.sub.toNat ≤ 5 →
        let a := numberOf ty j (s 2 0)
        let b := numberOf ty j (s 2 1)
        (elemBit ty j r.word i = true ↔ (q.sub = 0 ∧ a = b) ∨ (q.sub = 1 ∧ a ≠ b) ∨ (q.sub = 2 ∧ a < b) ∨ (q.sub = 3 ∧ a ≤ b) ∨
          (q.sub = 4 ∧ b < a) ∨ (q.sub = 5 ∧ b ≤ a)))) ∧
      (5 < q.sub.toNat → (Instr.icmp h q).wellFormed = false)) ∧
    (∀ q : FormQI, q.ty.toNat < 4 →
      let a := src (c.reads (oneOf q.ty.toNat) [q.sa] l) 0
      c.intResult (.shlImm h q) l (shl q.ty.toNat a q.imm) ∧ c.intResult (.shrImm h q) l (shr q.ty.toNat a q.imm) ∧
      c.intResult (.sarImm h q) l (sar q.ty.toNat a q.imm)) ∧
    (∀ q : FormQ, 6 ≤ q.ty.toNat → q.ty.toNat ≤ 14 →
      let ty := q.ty.toNat
      let n := codeBits ty
      let j := q.sub.toNat % 8
      let s (m k : Nat) : Word := src (c.reads (oneOf ty) ([q.sa, q.sb].take m) l) k
      n * (j + 1) ≤ 32 →
      c.floatResult (.pack h q) l (fun r => r.flags = 0 ∧ ∀ i : Nat, i < 32 → r.word.getLsbD i =
        if ty = 7 ∧ 30 ≤ i then false else if n * j ≤ i ∧ i < n * (j + 1) then (s 2 0).getLsbD (i - n * j) else (s 2 1).getLsbD i) ∧
      c.floatResult (.unpk h q) l (fun r => r.flags = 0 ∧ scalarIs ty r.word (codeAt ty j (s 1 0))))

/-- (R314, R315) Record k of a window stands in slot (k − 1) mod 64 and is parsed exactly when byte 255 of the slot is ((k − 1) div 64) mod 255 + 1: a
value of 1 to 255 that changes from lap to lap. A step in which the monitor looks at such a window performs the record; binding a window clears
its bytes and expects k = 1. (The model's own readings in it: log 1.) -/
def Obligations.RecordsInSequence : Prop :=
  (∀ k : Nat, 1 ≤ k → seqByte k = (k - 1) / 64 % 255 + 1 ∧ 1 ≤ seqByte k ∧ seqByte k ≤ 255 ∧ seqByte (k + 64) ≠ seqByte k) ∧
  (∀ (s : State) (win : Nat), s.module.boot = .running → win < 256 → ((s.window win).dom.isSome = true ∨ win = 0) →
    let k := (s.window win).next
    (∀ bs, tableGet ((k - 1) % 64) (s.window win).bytes = some bs → bs.length = 256 →
      (leAt bs 255 1 = (k - 1) / 64 % 255 + 1 → s.monitored win = some (decodeRecord win ⟨bs⟩, s)) ∧
      (leAt bs 255 1 ≠ (k - 1) / 64 % 255 + 1 → s.monitored win = none)) ∧
    (tableGet ((k - 1) % 64) (s.window win).bytes = none → s.monitored win = none)) ∧
  (∀ (s : State) (ck win : Nat) (rest : List Entry), s.agenda = ⟨ck, .monitor win⟩ :: rest →
    let s1 := { s with agenda := rest }.pass ck
    (∀ i t, s1.monitored win = some (i, t) → step s = settleStepOutcome (exec i t)) ∧ (s1.monitored win = none → step s = .next s1)) ∧
  (∀ (s : State) (r : Record), r.cmdFault true [(8, 4), (12, 4)] = none → r.nat 8 4 ≠ 0 → r.nat 8 4 ≤ 255 →
    ∃ t : State, exec (.wconf r) s = .next t ∧ (t.window (r.nat 8 4)).next = 1 ∧ ∀ slot, tableGet slot (t.window (r.nat 8 4)).bytes = none)

/-- (R79, R80, R97, R98, R304, R338) A step whose agenda names a gang that may issue, and that its front end picks, fetches the word at its PC and runs
what the word decodes to in its strand, and the issue is then over: the decoded instruction, the row of an unassigned opcode or of a failed fetch, or
cause 0x21 for a reserved word. An event named, a record due, a management request that the keys of the open session unseal, or an SPDM message runs its row; with nothing named
the free choice does.
(The model's own readings in it: log 1, 67, 76.) -/
def Obligations.StepRunsDecoded : Prop :=
  (∀ (s : State) (ck : Nat) (w : WarpKey) (st : Strand) (gang : Nat) (rest : List Entry), s.agenda = ⟨ck, .issue w st gang⟩ :: rest →
    let s1 := { s with agenda := rest }.pass ck
    let s2 := { s1 with cur := some ⟨w, st, gang⟩, free := s1.free + freeStep }
    ((s1.picks ⟨w, st, gang⟩ = false ∨ s1.mayIssue ⟨w, st, gang⟩ = false) → step s = .next { s1 with cur := none }) ∧
    (∀ c, s1.picks ⟨w, st, gang⟩ = true → s1.mayIssue ⟨w, st, gang⟩ = true → s2.ctx? = some c →
      (∀ s3 word, s2.fetch c = (s3, .word word) →
        (∀ i, decodeIn st word = .instr i → step s = settleStepOutcome (exec i s3)) ∧
        (∀ op, decodeIn st word = .unassigned op → step s = settleStepOutcome (exec (.unassignedOpcode op) s3)) ∧
        (∀ op, decodeIn st word = .reserved op → step s = .next { c.raise s3 (c.cause 0x21 0) with cur := none })) ∧
      (∀ s3 walk va, s2.fetch c = (s3, .fault walk va) → step s = settleStepOutcome (exec .instructionFetchFault s3)) ∧
      (∀ s3, s2.fetch c = (s3, .wait) → step s = .next { s3 with cur := none }) ∧
      (∀ l s3 p, c.warp.handler = false → s2.launch? w.seq = some l →
        let off := if st = .c then l.code.cSeg else l.code.aSeg
        let pc := (c.st.slice (c.slices.headD 0)).pc.toNat
        8 * pc + 8 ≤ off.2 → s2.resolve c.grp.die c.grp.core c.grp.dom (l.code.base + off.1 + 8 * pc) = (s3, .ok p) →
        (p.qz = true → s2.fetch c = (s3, .wait)) ∧
        (p.qz = false → p.pp = none → let s4 := s3.markLeaf c.grp.dom p false
          s2.fetch c = (s4, .word (BitVec.ofNat 64 (s4.memory.nat (p.at_ (l.code.base + off.1 + 8 * pc)) 8))))))) ∧
  (∀ (s : State) (ck : Nat) (i : Instr) (rest : List Entry), s.agenda = ⟨ck, .event i⟩ :: rest → i.isEvent = true →
    step s = settleStepOutcome (exec i { { s with agenda := rest }.pass ck with cur := none })) ∧
  (∀ (s : State) (ck : Nat) (bytes : List Byte) (rest : List Entry), s.agenda = ⟨ck, .manage bytes⟩ :: rest →
    let s1 := { s with agenda := rest }.pass ck
    (∀ k data, s1.module.boot = .running → s1.module.session = .open_ k → (∀ d ∈ s1.dies, d.withdrawal = none) → leAt bytes 0 4 = bytes.length - 4 →
      (k.unseal (bytes.drop 4) = some data → spdmData data = false →
        step s = settleStepOutcome (exec (decodeMgmt data) (s1.withSession s1.module.session.received))) ∧
      ((k.unseal (bytes.drop 4) = none ∨ (k.unseal (bytes.drop 4) = some data ∧ spdmData data = true)) → step s = .next s1)) ∧
    ((s1.module.session.isOpen = false ∨ ∃ d ∈ s1.dies, d.withdrawal ≠ none) → step s = .next s1)) ∧
  (∀ (s : State) (ck : Nat) (chain : List (List Byte)) (bytes : List Byte) (rest : List Entry), s.agenda = ⟨ck, .attest chain bytes⟩ :: rest →
    step s = settleStepOutcome (({ s with agenda := rest }.pass ck).attest chain bytes)) ∧
  (∀ s : State, s.agenda = [] → ∀ e, Config.nextEntry s.steps = some e →
    step s = act e.act ({ s with steps := s.steps + 1 }.pass e.ck)) ∧
  (∀ o, settleStepOutcome o = match o with
    | .next t => .next { t with cur := none }
    | .fault f => .fault f
    | .refused r => .refused r)

/-- (R79, R80, R84 to R97) Encoding and decoding agree: the word of a well-formed instruction decodes to it with every field, and whatever a word decodes
to is well-formed and has that word. Every other word has an unassigned opcode or reserved contents. -/
def Obligations.DecodeInvertsEncode : Prop :=
  (∀ (i : Instr) (w : Word64), i.wellFormed = true → encode i = some w → decode w = .instr i) ∧
  (∀ (i : Instr) (w : Word64), decode w = .instr i → i.wellFormed = true ∧ encode i = some w) ∧
  (∀ (w : Word64) (op : BitVec 9), decode w = .unassigned op → op = w.extractLsb' 55 9 ∧ opcodeAssigned op.toNat = false) ∧
  (∀ (w : Word64) (op : BitVec 9), decode w = .reserved op → op = w.extractLsb' 55 9 ∧ opcodeAssigned op.toNat = true ∧
    ∀ i, encode i = some w → i.wellFormed = false)

/-- (R286, R297) Device memory and every group's scratch stay in canonical form: addresses rise strictly and no byte listed is what an unlisted one
reads as. That form is the model's own (log 3). -/
def Obligations.StepKeepsCanonicalStores : Prop :=
  ∀ (s t : State), s.canonicalStores = true → step s = .next t → t.canonicalStores = true

/-- (R317, R339, R389) The module just powered: not booted, nothing launched or placed, sequence numbers from 1, a time slice of 64 units, and memory in
canonical form with every byte 0. The zeros of memory are the model's choice (log 3). -/
def Obligations.ResetState : Prop :=
  State.reset.canonicalStores = true ∧ (∀ a, State.reset.memory.byte a = 0) ∧ State.reset.module.boot = .off ∧ State.reset.groups = [] ∧
  State.reset.launches = [] ∧ State.reset.nextSeq = 1 ∧ State.reset.sliceUnits = 64 ∧
  ∀ n, (State.reset.window n).next = 1

/-- (R79, R84, R88 to R97) Words written out from the encodings of the manual decode to the instructions they stand for. -/
def Obligations.DecodeExamples : Prop :=
  decode 0x31C0940011680000 = .instr (.ffma ⟨true, 0, false⟩ ⟨1, 5, 0, 1, 11, 4, 0, false, false, 0⟩) ∧
  decode 0x388181C440000000 = .instr (.fmulImm ⟨false, 0, false⟩ ⟨3, 0, 56, 4, 0x40000000⟩) ∧
  decode 0x70104000FFFFFFFA = .instr (.bra ⟨false, 2, false⟩ ⟨1, 0, 0xFFFFFFFA⟩) ∧
  decode 0x7088000010000018 = .instr (.brdIf ⟨false, 1, false⟩ ⟨4, 6⟩) ∧
  decode 0x8A01080300000002 = .instr (.ashlImm ⟨false, 0, false⟩ ⟨8, 8, 0, 3, 2⟩) ∧
  decode 0x9040C00300000000 = .instr (.ld ⟨true, 0, false⟩ ⟨6, 0, 0, 3, 0, false, false, 0, 0⟩) ∧
  decode 0x9800E40260480010 = .instr (.atom ⟨false, 0, false⟩ ⟨7, 4, 0, 2, 3, false, false, 0, 0x480010⟩) ∧
  decode 0xC188000068010000 = .instr (.mma ⟨false, 1, false⟩ ⟨0, 0, 0, 6, 8, 0, 1, 0, false, 0⟩) ∧
  decode 0xE140400000000040 = .instr (.epop ⟨true, 0, false⟩ ⟨0, 16, 0, 0, 0, 2, 0⟩) ∧
  decode 0xF180000000081401 = .instr (.setxvImm ⟨false, 0, false⟩ ⟨0, 0, 0, 0, 0, 0x40A0, 1⟩)
end

