-- ==== Sys2Proof/Laws/Exec.lean ====
section
/-! SUPPORT. Sys2Proof/Laws/Exec.lean: the dispatcher by constructor: one equation per row, true by reduction, so that no proof opens exec. -/

namespace Sys2Proof.Machine

@[simp] theorem exec_iadd h q s : exec (.iadd h q) s = execIadd h q s := rfl
@[simp] theorem exec_isub h q s : exec (.isub h q) s = execIsub h q s := rfl
@[simp] theorem exec_imul h q s : exec (.imul h q) s = execImul h q s := rfl
@[simp] theorem exec_imulh h q s : exec (.imulh h q) s = execImulh h q s := rfl
@[simp] theorem exec_imad h q s : exec (.imad h q) s = execImad h q s := rfl
@[simp] theorem exec_idiv h q s : exec (.idiv h q) s = execIdiv h q s := rfl
@[simp] theorem exec_irem h q s : exec (.irem h q) s = execIrem h q s := rfl
@[simp] theorem exec_imin h q s : exec (.imin h q) s = execImin h q s := rfl
@[simp] theorem exec_imax h q s : exec (.imax h q) s = execImax h q s := rfl
@[simp] theorem exec_iabs h q s : exec (.iabs h q) s = execIabs h q s := rfl
@[simp] theorem exec_ineg h q s : exec (.ineg h q) s = execIneg h q s := rfl
@[simp] theorem exec_icmp h q s : exec (.icmp h q) s = execIcmp h q s := rfl
@[simp] theorem exec_andBits h q s : exec (.andBits h q) s = execAndBits h q s := rfl
@[simp] theorem exec_orBits h q s : exec (.orBits h q) s = execOrBits h q s := rfl
@[simp] theorem exec_xorBits h q s : exec (.xorBits h q) s = execXorBits h q s := rfl
@[simp] theorem exec_notBits h q s : exec (.notBits h q) s = execNotBits h q s := rfl
@[simp] theorem exec_shl h q s : exec (.shl h q) s = execShl h q s := rfl
@[simp] theorem exec_shr h q s : exec (.shr h q) s = execShr h q s := rfl
@[simp] theorem exec_sar h q s : exec (.sar h q) s = execSar h q s := rfl
@[simp] theorem exec_rot h q s : exec (.rot h q) s = execRot h q s := rfl
@[simp] theorem exec_popc h q s : exec (.popc h q) s = execPopc h q s := rfl
@[simp] theorem exec_clz h q s : exec (.clz h q) s = execClz h q s := rfl
@[simp] theorem exec_brev h q s : exec (.brev h q) s = execBrev h q s := rfl
@[simp] theorem exec_bfx h q s : exec (.bfx h q) s = execBfx h q s := rfl
@[simp] theorem exec_bfi h q s : exec (.bfi h q) s = execBfi h q s := rfl
@[simp] theorem exec_sel h q s : exec (.sel h q) s = execSel h q s := rfl
@[simp] theorem exec_selh h q s : exec (.selh h q) s = execSelh h q s := rfl
@[simp] theorem exec_iaddImm h q s : exec (.iaddImm h q) s = execIaddImm h q s := rfl
@[simp] theorem exec_imulImm h q s : exec (.imulImm h q) s = execImulImm h q s := rfl
@[simp] theorem exec_andBitsImm h q s : exec (.andBitsImm h q) s = execAndBitsImm h q s := rfl
@[simp] theorem exec_orBitsImm h q s : exec (.orBitsImm h q) s = execOrBitsImm h q s := rfl
@[simp] theorem exec_xorBitsImm h q s : exec (.xorBitsImm h q) s = execXorBitsImm h q s := rfl
@[simp] theorem exec_shlImm h q s : exec (.shlImm h q) s = execShlImm h q s := rfl
@[simp] theorem exec_shrImm h q s : exec (.shrImm h q) s = execShrImm h q s := rfl
@[simp] theorem exec_sarImm h q s : exec (.sarImm h q) s = execSarImm h q s := rfl
@[simp] theorem exec_iminImm h q s : exec (.iminImm h q) s = execIminImm h q s := rfl
@[simp] theorem exec_imaxImm h q s : exec (.imaxImm h q) s = execImaxImm h q s := rfl
@[simp] theorem exec_fadd h q s : exec (.fadd h q) s = execFadd h q s := rfl
@[simp] theorem exec_fsub h q s : exec (.fsub h q) s = execFsub h q s := rfl
@[simp] theorem exec_fmul h q s : exec (.fmul h q) s = execFmul h q s := rfl
@[simp] theorem exec_ffma h q s : exec (.ffma h q) s = execFfma h q s := rfl
@[simp] theorem exec_fmin h q s : exec (.fmin h q) s = execFmin h q s := rfl
@[simp] theorem exec_fmax h q s : exec (.fmax h q) s = execFmax h q s := rfl
@[simp] theorem exec_fabs h q s : exec (.fabs h q) s = execFabs h q s := rfl
@[simp] theorem exec_fneg h q s : exec (.fneg h q) s = execFneg h q s := rfl
@[simp] theorem exec_fcmp h q s : exec (.fcmp h q) s = execFcmp h q s := rfl
@[simp] theorem exec_frnd h q s : exec (.frnd h q) s = execFrnd h q s := rfl
@[simp] theorem exec_fclass h q s : exec (.fclass h q) s = execFclass h q s := rfl
@[simp] theorem exec_fdiv h q s : exec (.fdiv h q) s = execFdiv h q s := rfl
@[simp] theorem exec_fsqrt h q s : exec (.fsqrt h q) s = execFsqrt h q s := rfl
@[simp] theorem exec_faddImm h q s : exec (.faddImm h q) s = execFaddImm h q s := rfl
@[simp] theorem exec_fmulImm h q s : exec (.fmulImm h q) s = execFmulImm h q s := rfl
@[simp] theorem exec_fminImm h q s : exec (.fminImm h q) s = execFminImm h q s := rfl
@[simp] theorem exec_fmaxImm h q s : exec (.fmaxImm h q) s = execFmaxImm h q s := rfl
@[simp] theorem exec_rcp h q s : exec (.rcp h q) s = execRcp h q s := rfl
@[simp] theorem exec_rsq h q s : exec (.rsq h q) s = execRsq h q s := rfl
@[simp] theorem exec_ex2 h q s : exec (.ex2 h q) s = execEx2 h q s := rfl
@[simp] theorem exec_lg2 h q s : exec (.lg2 h q) s = execLg2 h q s := rfl
@[simp] theorem exec_sin h q s : exec (.sin h q) s = execSin h q s := rfl
@[simp] theorem exec_cos h q s : exec (.cos h q) s = execCos h q s := rfl
@[simp] theorem exec_tanh h q s : exec (.tanh h q) s = execTanh h q s := rfl
@[simp] theorem exec_sigm h q s : exec (.sigm h q) s = execSigm h q s := rfl
@[simp] theorem exec_cvt h q s : exec (.cvt h q) s = execCvt h q s := rfl
@[simp] theorem exec_qnt h q s : exec (.qnt h q) s = execQnt h q s := rfl
@[simp] theorem exec_dqnt h q s : exec (.dqnt h q) s = execDqnt h q s := rfl
@[simp] theorem exec_pack h q s : exec (.pack h q) s = execPack h q s := rfl
@[simp] theorem exec_unpk h q s : exec (.unpk h q) s = execUnpk h q s := rfl
@[simp] theorem exec_shfl h q s : exec (.shfl h q) s = execShfl h q s := rfl
@[simp] theorem exec_vote h q s : exec (.vote h q) s = execVote h q s := rfl
@[simp] theorem exec_wred h q s : exec (.wred h q) s = execWred h q s := rfl
@[simp] theorem exec_wscan h q s : exec (.wscan h q) s = execWscan h q s := rfl
@[simp] theorem exec_matchLanes h q s : exec (.matchLanes h q) s = execMatchLanes h q s := rfl
@[simp] theorem exec_bcast h q s : exec (.bcast h q) s = execBcast h q s := rfl
@[simp] theorem exec_mov h q s : exec (.mov h q) s = execMov h q s := rfl
@[simp] theorem exec_movi h q s : exec (.movi h q) s = execMovi h q s := rfl
@[simp] theorem exec_dup h q s : exec (.dup h q) s = execDup h q s := rfl
@[simp] theorem exec_save h q s : exec (.save h q) s = execSave h q s := rfl
@[simp] theorem exec_rejoin h q s : exec (.rejoin h q) s = execRejoin h q s := rfl
@[simp] theorem exec_bra h b s : exec (.bra h b) s = execBra h b s := rfl
@[simp] theorem exec_brdIf h b s : exec (.brdIf h b) s = execBrdIf h b s := rfl
@[simp] theorem exec_brdLoop h b s : exec (.brdLoop h b) s = execBrdLoop h b s := rfl
@[simp] theorem exec_brx h b s : exec (.brx h b) s = execBrx h b s := rfl
@[simp] theorem exec_call h b s : exec (.call h b) s = execCall h b s := rfl
@[simp] theorem exec_callx h b s : exec (.callx h b) s = execCallx h b s := rfl
@[simp] theorem exec_ret h b s : exec (.ret h b) s = execRet h b s := rfl
@[simp] theorem exec_regang h b s : exec (.regang h b) s = execRegang h b s := rfl
@[simp] theorem exec_exit h b s : exec (.exit h b) s = execExit h b s := rfl
@[simp] theorem exec_nop h b s : exec (.nop h b) s = execNop h b s := rfl
@[simp] theorem exec_aadd h a s : exec (.aadd h a) s = execAadd h a s := rfl
@[simp] theorem exec_asub h a s : exec (.asub h a) s = execAsub h a s := rfl
@[simp] theorem exec_amul h a s : exec (.amul h a) s = execAmul h a s := rfl
@[simp] theorem exec_amad h a s : exec (.amad h a) s = execAmad h a s := rfl
@[simp] theorem exec_ashl h a s : exec (.ashl h a) s = execAshl h a s := rfl
@[simp] theorem exec_ashr h a s : exec (.ashr h a) s = execAshr h a s := rfl
@[simp] theorem exec_aand h a s : exec (.aand h a) s = execAand h a s := rfl
@[simp] theorem exec_aor h a s : exec (.aor h a) s = execAor h a s := rfl
@[simp] theorem exec_axor h a s : exec (.axor h a) s = execAxor h a s := rfl
@[simp] theorem exec_amin h a s : exec (.amin h a) s = execAmin h a s := rfl
@[simp] theorem exec_amax h a s : exec (.amax h a) s = execAmax h a s := rfl
@[simp] theorem exec_amov h a s : exec (.amov h a) s = execAmov h a s := rfl
@[simp] theorem exec_amovi h a s : exec (.amovi h a) s = execAmovi h a s := rfl
@[simp] theorem exec_acmp h a s : exec (.acmp h a) s = execAcmp h a s := rfl
@[simp] theorem exec_asel h a s : exec (.asel h a) s = execAsel h a s := rfl
@[simp] theorem exec_popi h a s : exec (.popi h a) s = execPopi h a s := rfl
@[simp] theorem exec_aaddImm h a s : exec (.aaddImm h a) s = execAaddImm h a s := rfl
@[simp] theorem exec_asubImm h a s : exec (.asubImm h a) s = execAsubImm h a s := rfl
@[simp] theorem exec_amulImm h a s : exec (.amulImm h a) s = execAmulImm h a s := rfl
@[simp] theorem exec_ashlImm h a s : exec (.ashlImm h a) s = execAshlImm h a s := rfl
@[simp] theorem exec_ashrImm h a s : exec (.ashrImm h a) s = execAshrImm h a s := rfl
@[simp] theorem exec_aandImm h a s : exec (.aandImm h a) s = execAandImm h a s := rfl
@[simp] theorem exec_aorImm h a s : exec (.aorImm h a) s = execAorImm h a s := rfl
@[simp] theorem exec_axorImm h a s : exec (.axorImm h a) s = execAxorImm h a s := rfl
@[simp] theorem exec_aminImm h a s : exec (.aminImm h a) s = execAminImm h a s := rfl
@[simp] theorem exec_amaxImm h a s : exec (.amaxImm h a) s = execAmaxImm h a s := rfl
@[simp] theorem exec_acmpImm h a s : exec (.acmpImm h a) s = execAcmpImm h a s := rfl
@[simp] theorem exec_ld h m s : exec (.ld h m) s = execLd h m s := rfl
@[simp] theorem exec_lds h m s : exec (.lds h m) s = execLds h m s := rfl
@[simp] theorem exec_ldx h m s : exec (.ldx h m) s = execLdx h m s := rfl
@[simp] theorem exec_ldc h m s : exec (.ldc h m) s = execLdc h m s := rfl
@[simp] theorem exec_st h m s : exec (.st h m) s = execSt h m s := rfl
@[simp] theorem exec_sts h m s : exec (.sts h m) s = execSts h m s := rfl
@[simp] theorem exec_stx h m s : exec (.stx h m) s = execStx h m s := rfl
@[simp] theorem exec_pf h m s : exec (.pf h m) s = execPf h m s := rfl
@[simp] theorem exec_ldLq h m s : exec (.ldLq h m) s = execLdLq h m s := rfl
@[simp] theorem exec_ldsLq h m s : exec (.ldsLq h m) s = execLdsLq h m s := rfl
@[simp] theorem exec_ldxLq h m s : exec (.ldxLq h m) s = execLdxLq h m s := rfl
@[simp] theorem exec_ldcLq h m s : exec (.ldcLq h m) s = execLdcLq h m s := rfl
@[simp] theorem exec_stSq h m s : exec (.stSq h m) s = execStSq h m s := rfl
@[simp] theorem exec_stsSq h m s : exec (.stsSq h m) s = execStsSq h m s := rfl
@[simp] theorem exec_stxSq h m s : exec (.stxSq h m) s = execStxSq h m s := rfl
@[simp] theorem exec_atom h m s : exec (.atom h m) s = execAtom h m s := rfl
@[simp] theorem exec_red h m s : exec (.red h m) s = execRed h m s := rfl
@[simp] theorem exec_mred h m s : exec (.mred h m) s = execMred h m s := rfl
@[simp] theorem exec_fence h m s : exec (.fence h m) s = execFence h m s := rfl
@[simp] theorem exec_rfence h m s : exec (.rfence h m) s = execRfence h m s := rfl
@[simp] theorem exec_drain h m s : exec (.drain h m) s = execDrain h m s := rfl
@[simp] theorem exec_cwb h m s : exec (.cwb h m) s = execCwb h m s := rfl
@[simp] theorem exec_cinv h m s : exec (.cinv h m) s = execCinv h m s := rfl
@[simp] theorem exec_copy h m s : exec (.copy h m) s = execCopy h m s := rfl
@[simp] theorem exec_copyg h m s : exec (.copyg h m) s = execCopyg h m s := rfl
@[simp] theorem exec_copys h m s : exec (.copys h m) s = execCopys h m s := rfl
@[simp] theorem exec_publish h m s : exec (.publish h m) s = execPublish h m s := rfl
@[simp] theorem exec_cpstat h m s : exec (.cpstat h m) s = execCpstat h m s := rfl
@[simp] theorem exec_mga h x s : exec (.mga h x) s = execMga h x s := rfl
@[simp] theorem exec_mla h x s : exec (.mla h x) s = execMla h x s := rfl
@[simp] theorem exec_mlb h x s : exec (.mlb h x) s = execMlb h x s := rfl
@[simp] theorem exec_mma h x s : exec (.mma h x) s = execMma h x s := rfl
@[simp] theorem exec_mmax h x s : exec (.mmax h x) s = execMmax h x s := rfl
@[simp] theorem exec_mz h x s : exec (.mz h x) s = execMz h x s := rfl
@[simp] theorem exec_mdr h x s : exec (.mdr h x) s = execMdr h x s := rfl
@[simp] theorem exec_mdra h x s : exec (.mdra h x) s = execMdra h x s := rfl
@[simp] theorem exec_msca h x s : exec (.msca h x) s = execMsca h x s := rfl
@[simp] theorem exec_mfence h x s : exec (.mfence h x) s = execMfence h x s := rfl
@[simp] theorem exec_mwait h x s : exec (.mwait h x) s = execMwait h x s := rfl
@[simp] theorem exec_mcfg h x s : exec (.mcfg h x) s = execMcfg h x s := rfl
@[simp] theorem exec_route h e s : exec (.route h e) s = execRoute h e s := rfl
@[simp] theorem exec_rtake h e s : exec (.rtake h e) s = execRtake h e s := rfl
@[simp] theorem exec_rret h e s : exec (.rret h e) s = execRret h e s := rfl
@[simp] theorem exec_rcloseWin h e s : exec (.rcloseWin h e) s = execRcloseWin h e s := rfl
@[simp] theorem exec_rclosePort h e s : exec (.rclosePort h e) s = execRclosePort h e s := rfl
@[simp] theorem exec_rstat h e s : exec (.rstat h e) s = execRstat h e s := rfl
@[simp] theorem exec_eopenOpen h e s : exec (.eopenOpen h e) s = execEopenOpen h e s := rfl
@[simp] theorem exec_eopenClose h e s : exec (.eopenClose h e) s = execEopenClose h e s := rfl
@[simp] theorem exec_epush h e s : exec (.epush h e) s = execEpush h e s := rfl
@[simp] theorem exec_epop h e s : exec (.epop h e) s = execEpop h e s := rfl
@[simp] theorem exec_edone h e s : exec (.edone h e) s = execEdone h e s := rfl
@[simp] theorem exec_estat h e s : exec (.estat h e) s = execEstat h e s := rfl
@[simp] theorem exec_bar h e s : exec (.bar h e) s = execBar h e s := rfl
@[simp] theorem exec_cbar h e s : exec (.cbar h e) s = execCbar h e s := rfl
@[simp] theorem exec_abar h e s : exec (.abar h e) s = execAbar h e s := rfl
@[simp] theorem exec_await h e s : exec (.await h e) s = execAwait h e s := rfl
@[simp] theorem exec_ared h e s : exec (.ared h e) s = execAred h e s := rfl
@[simp] theorem exec_phase h e s : exec (.phase h e) s = execPhase h e s := rfl
@[simp] theorem exec_signalHold h e s : exec (.signalHold h e) s = execSignalHold h e s := rfl
@[simp] theorem exec_signalRel h e s : exec (.signalRel h e) s = execSignalRel h e s := rfl
@[simp] theorem exec_sys h e s : exec (.sys h e) s = execSys h e s := rfl
@[simp] theorem exec_topo h e s : exec (.topo h e) s = execTopo h e s := rfl
@[simp] theorem exec_clk h e s : exec (.clk h e) s = execClk h e s := rfl
@[simp] theorem exec_setxv h e s : exec (.setxv h e) s = execSetxv h e s := rfl
@[simp] theorem exec_setxvImm h e s : exec (.setxvImm h e) s = execSetxvImm h e s := rfl
@[simp] theorem exec_trap h e s : exec (.trap h e) s = execTrap h e s := rfl
@[simp] theorem exec_bkpt h e s : exec (.bkpt h e) s = execBkpt h e s := rfl
@[simp] theorem exec_rett h e s : exec (.rett h e) s = execRett h e s := rfl
@[simp] theorem exec_sleep h e s : exec (.sleep h e) s = execSleep h e s := rfl
@[simp] theorem exec_perf h e s : exec (.perf h e) s = execPerf h e s := rfl
@[simp] theorem exec_longResultWrite w id s : exec (.longResultWrite w id) s = execLongResultWrite w id s := rfl
@[simp] theorem exec_loadDataReturn w id unit s : exec (.loadDataReturn w id unit) s = execLoadDataReturn w id unit s := rfl
@[simp] theorem exec_storePerformed w id unit s : exec (.storePerformed w id unit) s = execStorePerformed w id unit s := rfl
@[simp] theorem exec_mredApply w id unit s : exec (.mredApply w id unit) s = execMredApply w id unit s := rfl
@[simp] theorem exec_remoteWriteApply die src s : exec (.remoteWriteApply die src) s = execRemoteWriteApply die src s := rfl
@[simp] theorem exec_translationWalkComplete die dom va page s : exec (.translationWalkComplete die dom va page) s = execTranslationWalkComplete die dom va page s := rfl
@[simp] theorem exec_strandDeadlock w s : exec (.strandDeadlock w) s = execStrandDeadlock w s := rfl
@[simp] theorem exec_copyChunkComplete copy chunk bytes s : exec (.copyChunkComplete copy chunk bytes) s = execCopyChunkComplete copy chunk bytes s := rfl
@[simp] theorem exec_copyComplete copy s : exec (.copyComplete copy) s = execCopyComplete copy s := rfl
@[simp] theorem exec_matrixOpComplete op s : exec (.matrixOpComplete op) s = execMatrixOpComplete op s := rfl
@[simp] theorem exec_claimArrive claim s : exec (.claimArrive claim) s = execClaimArrive claim s := rfl
@[simp] theorem exec_inboxRowEnter dom table port s : exec (.inboxRowEnter dom table port) s = execInboxRowEnter dom table port s := rfl
@[simp] theorem exec_routeReturnArrive ret s : exec (.routeReturnArrive ret) s = execRouteReturnArrive ret s := rfl
@[simp] theorem exec_routeWindowTimeout die core win s : exec (.routeWindowTimeout die core win) s = execRouteWindowTimeout die core win s := rfl
@[simp] theorem exec_arborRelease seq chan die s : exec (.arborRelease seq chan die) s = execArborRelease seq chan die s := rfl
@[simp] theorem exec_sleepExpire w strand s : exec (.sleepExpire w strand) s = execSleepExpire w strand s := rfl
@[simp] theorem exec_causeTaken w s : exec (.causeTaken w) s = execCauseTaken w s := rfl
@[simp] theorem exec_crownPlace g die sites s : exec (.crownPlace g die sites) s = execCrownPlace g die sites s := rfl
@[simp] theorem exec_launchStart seq s : exec (.launchStart seq) s = execLaunchStart seq s := rfl
@[simp] theorem exec_launch win r s : exec (.launch win r) s = execLaunch win r s := rfl
@[simp] theorem exec_root r s : exec (.root r) s = execRoot r s := rfl
@[simp] theorem exec_inval r s : exec (.inval r) s = execInval r s := rfl
@[simp] theorem exec_ring r s : exec (.ring r) s = execRing r s := rfl
@[simp] theorem exec_clean r s : exec (.clean r) s = execClean r s := rfl
@[simp] theorem exec_bindr r s : exec (.bindr r) s = execBindr r s := rfl
@[simp] theorem exec_unbindr r s : exec (.unbindr r) s = execUnbindr r s := rfl
@[simp] theorem exec_flips r s : exec (.flips r) s = execFlips r s := rfl
@[simp] theorem exec_work r s : exec (.work r) s = execWork r s := rfl
@[simp] theorem exec_cring r s : exec (.cring r) s = execCring r s := rfl
@[simp] theorem exec_wconf r s : exec (.wconf r) s = execWconf r s := rfl
@[simp] theorem exec_cancel r s : exec (.cancel r) s = execCancel r s := rfl
@[simp] theorem exec_resume r s : exec (.resume r) s = execResume r s := rfl
@[simp] theorem exec_abort r s : exec (.abort r) s = execAbort r s := rfl
@[simp] theorem exec_halt r s : exec (.halt r) s = execHalt r s := rfl
@[simp] theorem exec_prof r s : exec (.prof r) s = execProf r s := rfl
@[simp] theorem exec_slice r s : exec (.slice r) s = execSlice r s := rfl
@[simp] theorem exec_publishFlipRequest flip s : exec (.publishFlipRequest flip) s = execPublishFlipRequest flip s := rfl
@[simp] theorem exec_flipClose flip die s : exec (.flipClose flip die) s = execFlipClose flip die s := rfl
@[simp] theorem exec_flipAndComplete flip s : exec (.flipAndComplete flip) s = execFlipAndComplete flip s := rfl
@[simp] theorem exec_flipTake flip die s : exec (.flipTake flip die) s = execFlipTake flip die s := rfl
@[simp] theorem exec_flipDone flip s : exec (.flipDone flip) s = execFlipDone flip s := rfl
@[simp] theorem exec_dreset tag die s : exec (.dreset tag die) s = execDreset tag die s := rfl
@[simp] theorem exec_retire tag die s : exec (.retire tag die) s = execRetire tag die s := rfl
@[simp] theorem exec_reinstate tag die s : exec (.reinstate tag die) s = execReinstate tag die s := rfl
@[simp] theorem exec_w0write tag r s : exec (.w0write tag r) s = execW0write tag r s := rfl
@[simp] theorem exec_w0ring tag addr key qp s : exec (.w0ring tag addr key qp) s = execW0ring tag addr key qp s := rfl
@[simp] theorem exec_grant tag dom mask s : exec (.grant tag dom mask) s = execGrant tag dom mask s := rfl
@[simp] theorem exec_wlist tag wl dom s : exec (.wlist tag wl dom) s = execWlist tag wl dom s := rfl
@[simp] theorem exec_psel tag c sel s : exec (.psel tag c sel) s = execPsel tag c sel s := rfl
@[simp] theorem exec_pclr tag c s : exec (.pclr tag c) s = execPclr tag c s := rfl
@[simp] theorem exec_acct tag s : exec (.acct tag) s = execAcct tag s := rfl
@[simp] theorem exec_errlog tag first count s : exec (.errlog tag first count) s = execErrlog tag first count s := rfl
@[simp] theorem exec_spare tag stack row s : exec (.spare tag stack row) s = execSpare tag stack row s := rfl
@[simp] theorem exec_fwstage tag off total flags piece s : exec (.fwstage tag off total flags piece) s = execFwstage tag off total flags piece s := rfl
@[simp] theorem exec_fusesvn tag kind version s : exec (.fusesvn tag kind version) s = execFusesvn tag kind version s := rfl
@[simp] theorem exec_unassignedOpcode op s : exec (.unassignedOpcode op) s = execUnassignedOpcode op s := rfl
@[simp] theorem exec_instructionFetchFault s : exec (.instructionFetchFault) s = execInstructionFetchFault s := rfl
@[simp] theorem exec_unknownRecord win r s : exec (.unknownRecord win r) s = execUnknownRecord win r s := rfl
@[simp] theorem exec_unknownManagementOpcode tag op s : exec (.unknownManagementOpcode tag op) s = execUnknownManagementOpcode tag op s := rfl
@[simp] theorem exec_launchComplete seq s : exec (.launchComplete seq) s = execLaunchComplete seq s := rfl
@[simp] theorem exec_groupRetire g s : exec (.groupRetire g) s = execGroupRetire g s := rfl
@[simp] theorem exec_phaseEndComplete g s : exec (.phaseEndComplete g) s = execPhaseEndComplete g s := rfl
@[simp] theorem exec_copySuspend copy s : exec (.copySuspend copy) s = execCopySuspend copy s := rfl
@[simp] theorem exec_balanceTick wl die s : exec (.balanceTick wl die) s = execBalanceTick wl die s := rfl
@[simp] theorem exec_balanceReceive transfer s : exec (.balanceReceive transfer) s = execBalanceReceive transfer s := rfl
@[simp] theorem exec_arborSample wl s : exec (.arborSample wl) s = execArborSample wl s := rfl
@[simp] theorem exec_arborMinResult wl die s : exec (.arborMinResult wl die) s = execArborMinResult wl die s := rfl
@[simp] theorem exec_eopenTakeEffect op die s : exec (.eopenTakeEffect op die) s = execEopenTakeEffect op die s := rfl
@[simp] theorem exec_preemptionRequest die core w s : exec (.preemptionRequest die core w) s = execPreemptionRequest die core w s := rfl
@[simp] theorem exec_timeSliceExpiry g s : exec (.timeSliceExpiry g) s = execTimeSliceExpiry g s := rfl
@[simp] theorem exec_groupSwap die core s : exec (.groupSwap die core) s = execGroupSwap die core s := rfl
@[simp] theorem exec_warpEvict w s : exec (.warpEvict w) s = execWarpEvict w s := rfl
@[simp] theorem exec_groupRowsEvict g s : exec (.groupRowsEvict g) s = execGroupRowsEvict g s := rfl
@[simp] theorem exec_groupRestore g s : exec (.groupRestore g) s = execGroupRestore g s := rfl
@[simp] theorem exec_linkRetry link s : exec (.linkRetry link) s = execLinkRetry link s := rfl
@[simp] theorem exec_linkDown link s : exec (.linkDown link) s = execLinkDown link s := rfl
@[simp] theorem exec_dieUnresponsive die s : exec (.dieUnresponsive die) s = execDieUnresponsive die s := rfl
@[simp] theorem exec_withdrawWritebackTimeout die s : exec (.withdrawWritebackTimeout die) s = execWithdrawWritebackTimeout die s := rfl
@[simp] theorem exec_withdrawWritebackDone die s : exec (.withdrawWritebackDone die) s = execWithdrawWritebackDone die s := rfl
@[simp] theorem exec_pfcPauseFrame port cls quanta s : exec (.pfcPauseFrame port cls quanta) s = execPfcPauseFrame port cls quanta s := rfl
@[simp] theorem exec_rdmaWrite r data s : exec (.rdmaWrite r data) s = execRdmaWrite r data s := rfl
@[simp] theorem exec_rdmaRead r len s : exec (.rdmaRead r len) s = execRdmaRead r len s := rfl
@[simp] theorem exec_rdmaSend port qp data s : exec (.rdmaSend port qp data) s = execRdmaSend port qp data s := rfl
@[simp] theorem exec_rdmaAtomicRequest r s : exec (.rdmaAtomicRequest r) s = execRdmaAtomicRequest r s := rfl
@[simp] theorem exec_ethernetFrameDiscard port etherType udpPort s : exec (.ethernetFrameDiscard port etherType udpPort) s = execEthernetFrameDiscard port etherType udpPort s := rfl
@[simp] theorem exec_tofsMeasure offsets s : exec (.tofsMeasure offsets) s = execTofsMeasure offsets s := rfl
@[simp] theorem exec_powerLimitWithhold die until_ s :
    exec (.powerLimitWithhold die until_) s = execPowerLimitWithhold die until_ s := rfl
@[simp] theorem exec_temperatureThrottle die temp until_ s : exec (.temperatureThrottle die temp until_) s = execTemperatureThrottle die temp until_ s := rfl
@[simp] theorem exec_thermalTrip stack site temp s : exec (.thermalTrip stack site temp) s = execThermalTrip stack site temp s := rfl
@[simp] theorem exec_powerOn b s : exec (.powerOn b) s = execPowerOn b s := rfl
@[simp] theorem exec_energyMeasure mj s : exec (.energyMeasure mj) s = execEnergyMeasure mj s := rfl
@[simp] theorem exec_errorDetect e s : exec (.errorDetect e) s = execErrorDetect e s := rfl
@[simp] theorem exec_getVersion c s : exec (.getVersion c) s = execGetVersion c s := rfl
@[simp] theorem exec_getCapabilities c s : exec (.getCapabilities c) s = execGetCapabilities c s := rfl
@[simp] theorem exec_negotiateAlgorithms c s : exec (.negotiateAlgorithms c) s = execNegotiateAlgorithms c s := rfl
@[simp] theorem exec_getDigests c s : exec (.getDigests c) s = execGetDigests c s := rfl
@[simp] theorem exec_getCertificate slot c s : exec (.getCertificate slot c) s = execGetCertificate slot c s := rfl
@[simp] theorem exec_challenge c s : exec (.challenge c) s = execChallenge c s := rfl
@[simp] theorem exec_getMeasurements signed c s : exec (.getMeasurements signed c) s = execGetMeasurements signed c s := rfl
@[simp] theorem exec_keyExchange c s : exec (.keyExchange c) s = execKeyExchange c s := rfl
@[simp] theorem exec_finish chain c s : exec (.finish chain c) s = execFinish chain c s := rfl
@[simp] theorem exec_endSession c s : exec (.endSession c) s = execEndSession c s := rfl
@[simp] theorem exec_spdmUnsupportedRequest code c s : exec (.spdmUnsupportedRequest code c) s = execSpdmUnsupportedRequest code c s := rfl

end Sys2Proof.Machine
end

