-- ==== Sys2Proof/Laws/Warp.lean ====
section
/-! SUPPORT. Sys2Proof/Laws/Warp.lean: what the operations on a warp do to each of its parts: lanes, masks, marks, flags, destinations. -/

namespace Sys2Proof.Machine

@[simp] theorem strand_a_beq_c : (Strand.a == Strand.c) = false := rfl
@[simp] theorem strand_c_beq_a : (Strand.c == Strand.a) = false := rfl

/-! ## Lanes -/

@[simp] theorem modLanes_get (w : Warp) (on : Mask) (f : Nat → Lane → Lane) (l : Nat) :
    (w.modLanes on f).lanes[l]? = (w.lanes[l]?).map fun k => if on.getLsbD l then f l k else k := by
  simp [Warp.modLanes, mapIdxList]

@[simp] theorem modLanes_length (w : Warp) (on : Mask) (f : Nat → Lane → Lane) : (w.modLanes on f).lanes.length = w.lanes.length := by
  simp [Warp.modLanes, mapIdxList]

/-- modLanes changes lanes alone. -/
theorem modLanes_frame (w : Warp) (on : Mask) (f : Nat → Lane → Lane) : { w.modLanes on f with lanes := w.lanes } = w := rfl

@[simp] theorem modLanes_m (w : Warp) (on : Mask) (f : Nat → Lane → Lane) : (w.modLanes on f).m = w.m := rfl
@[simp] theorem modLanes_y (w : Warp) (on : Mask) (f : Nat → Lane → Lane) : (w.modLanes on f).y = w.y := rfl
@[simp] theorem modLanes_g (w : Warp) (on : Mask) (f : Nat → Lane → Lane) : (w.modLanes on f).g = w.g := rfl
@[simp] theorem modLanes_a (w : Warp) (on : Mask) (f : Nat → Lane → Lane) : (w.modLanes on f).a = w.a := rfl
@[simp] theorem modLanes_c (w : Warp) (on : Mask) (f : Nat → Lane → Lane) : (w.modLanes on f).c = w.c := rfl
@[simp] theorem modLanes_mode (w : Warp) (on : Mask) (f : Nat → Lane → Lane) : (w.modLanes on f).mode = w.mode := rfl
@[simp] theorem modLanes_busy (w : Warp) (on : Mask) (f : Nat → Lane → Lane) : (w.modLanes on f).busy = w.busy := rfl
@[simp] theorem modLanes_longs (w : Warp) (on : Mask) (f : Nat → Lane → Lane) : (w.modLanes on f).longs = w.longs := rfl
@[simp] theorem modLanes_pending (w : Warp) (on : Mask) (f : Nat → Lane → Lane) : (w.modLanes on f).pending = w.pending := rfl
@[simp] theorem modLanes_width (w : Warp) (on : Mask) (f : Nat → Lane → Lane) : (w.modLanes on f).width = w.width := rfl
@[simp] theorem modLanes_accs (w : Warp) (on : Mask) (f : Nat → Lane → Lane) : (w.modLanes on f).accs = w.accs := rfl
@[simp] theorem modLanes_key (w : Warp) (on : Mask) (f : Nat → Lane → Lane) : (w.modLanes on f).key = w.key := rfl

@[simp] theorem modLane_get (w : Warp) (i : Nat) (f : Lane → Lane) (l : Nat) :
    (w.modLane i f).lanes[l]? = (w.lanes[l]?).map fun k => if i = l then f k else k := by
  simp only [Warp.modLane, updAt, List.getElem?_modify]
  rfl

/-! ## Marks: two operations that change marks alone -/

/-- A warp with other marks. -/
theorem unmark_eq (w : Warp) (on : Mask) (p : Loc → Bool) : ∃ b, w.unmark on p = { w with busy := b } := by
  unfold Warp.unmark; split
  · exact ⟨w.busy, rfl⟩
  · exact ⟨_, rfl⟩

theorem owe_eq (w : Warp) (id : Option Nat) (ls : List Nat) (loc : Nat → Loc) : ∃ b, w.owe id ls loc = { w with busy := b } := by
  cases id
  · exact ⟨w.busy, rfl⟩
  · exact ⟨_, rfl⟩

theorem push_eq (w : Warp) (active exec : Mask) (res : Nat → Word) :
    ∃ b, w.push active exec res = { w.modLanes active (fun l k => k.push (if exec.getLsbD l then res l else 0)) with busy := b } := by
  unfold Warp.push
  dsimp only
  split
  · exact ⟨w.busy, rfl⟩
  · exact ⟨_, rfl⟩

/-- Popping LQ entries. -/
theorem popLq_eq (c : Ctx) (n : Nat) (w : Warp) :
    c.popLq n w = w.modLanes c.gangMask fun _ k => { k with lq := k.lq.drop n } := by
  unfold Ctx.popLq
  split
  · rename_i h
    obtain rfl : n = 0 := by simpa using h
    have e : (w.lanes.mapIdx fun l (k : Lane) => if c.gangMask.getLsbD l then { k with lq := k.lq.drop 0 } else k) = w.lanes := by
      apply List.ext_getElem?; intro i; simp
    show w = { w with lanes := w.lanes.mapIdx _ }
    rw [e]
  · rfl

/-! ## Flags (R27) -/

/-- The flags a list gives lane l. -/
def flagsAt (fl : LaneFlags) (l : Nat) : Byte := fl.foldl (fun b p => if p.1 = l then b ||| p.2 else b) 0

theorem setFlags_frame (fl : LaneFlags) (w : Warp) : { w.setFlags fl with lanes := w.lanes } = w := by
  unfold Warp.setFlags
  induction fl generalizing w with
  | nil => rfl
  | cons p fl ih =>
    simp only [List.foldl_cons]
    split
    · exact ih w
    · have := ih (w.modLane p.1 fun k => { k with status := k.status ||| p.2 })
      have h2 := congrArg (fun v : Warp => { v with lanes := w.lanes }) this
      exact h2

theorem flagsAt_foldl (fl : LaneFlags) (l : Nat) (b : Byte) :
    fl.foldl (fun b p => if p.1 = l then b ||| p.2 else b) b = b ||| flagsAt fl l := by
  unfold flagsAt
  induction fl generalizing b with
  | nil => simp
  | cons p fl ih =>
    simp only [List.foldl_cons]
    rw [ih, ih (if p.1 = l then 0 ||| p.2 else 0)]
    split <;> simp [BitVec.or_assoc]

theorem setFlags_get (fl : LaneFlags) (w : Warp) (l : Nat) :
    (w.setFlags fl).lanes[l]? = (w.lanes[l]?).map fun k => { k with status := k.status ||| flagsAt fl l } := by
  induction fl generalizing w with
  | nil => simp [Warp.setFlags, flagsAt]
  | cons p fl ih =>
    have e : w.setFlags (p :: fl) = (if p.2 == 0 then w else w.modLane p.1 fun k => { k with status := k.status ||| p.2 }).setFlags fl := rfl
    have e2 : flagsAt (p :: fl) l = (if p.1 = l then p.2 else 0) ||| flagsAt fl l := by
      rw [show flagsAt (p :: fl) l = fl.foldl (fun b p => if p.1 = l then b ||| p.2 else b) (if p.1 = l then 0 ||| p.2 else 0) from rfl,
        flagsAt_foldl]
      split <;> simp
    rw [e, ih, e2]
    by_cases h0 : p.2 = 0
    · simp [h0]
    · rw [if_neg (by simpa using h0)]
      simp only [modLane_get, Option.map_map]
      congr 1; funext k
      simp only [Function.comp]
      split <;> simp [BitVec.or_assoc]

theorem flagsAt_map (ls : List Nat) (hn : ls.Nodup) (f : Nat → Byte) (l : Nat) :
    flagsAt (ls.map fun i => (i, f i)) l = if l ∈ ls then f l else 0 := by
  induction ls with
  | nil => rfl
  | cons a ls ih =>
    have hn' := List.nodup_cons.mp hn
    rw [List.map_cons, show flagsAt ((a, f a) :: ls.map fun i => (i, f i)) l =
      (ls.map fun i => (i, f i)).foldl (fun b p => if p.1 = l then b ||| p.2 else b) (if a = l then 0 ||| f a else 0) from rfl, flagsAt_foldl, ih hn'.2]
    by_cases h : a = l
    · subst h; simp [hn'.1]
    · have : l ≠ a := fun e => h e.symm
      simp [h, this]

/-! ## The lanes of a mask -/

theorem mem_lanesOfMask {width : Nat} {m : Mask} {l : Nat} : l ∈ lanesOfMask width m ↔ l < width ∧ m.getLsbD l = true := by
  simp [lanesOfMask]

theorem lanesOfMask_nodup (width : Nat) (m : Mask) : (lanesOfMask width m).Nodup :=
  List.Pairwise.filter _ List.nodup_range

/-- A bit of widthMask stands for a lane of the warp. -/
theorem widthMask_lt {width l : Nat} (h : (widthMask width).getLsbD l = true) (hl : l < 64) : l < width := by
  apply Nat.lt_of_not_le; intro hw
  have hp : 2 ^ width < 2 ^ 64 := Nat.pow_lt_pow_right (by decide) (by omega)
  have hs : ((1 : Mask) <<< width).toNat = 2 ^ width := by
    rw [BitVec.toNat_shiftLeft, Nat.shiftLeft_eq]
    simpa using Nat.mod_eq_of_lt hp
  have h2 : (widthMask width).toNat = 2 ^ width - 1 := by
    have hp1 : 0 < 2 ^ width := Nat.two_pow_pos _
    rw [widthMask, BitVec.toNat_sub, hs]
    have : (1 : Mask).toNat = 1 := rfl
    rw [this]
    omega
  rw [BitVec.getLsbD, h2, Nat.testBit_two_pow_sub_one] at h
  simp at h
  omega

/-- An executing lane is a lane of the warp. -/
theorem exec_lt {c : Ctx} {h : Hdr} {l : Nat} (e : (c.exec h).getLsbD l = true) : l < c.warp.width := by
  have hl : l < 64 := by
    apply Nat.lt_of_not_le; intro hl
    rw [BitVec.getLsbD_of_ge _ _ hl] at e
    simp at e
  simp only [Ctx.exec, Ctx.guard, BitVec.getLsbD_and, Bool.and_eq_true] at e
  exact widthMask_lt e.2.2 hl

theorem mem_execLanes {c : Ctx} {h : Hdr} {l : Nat} : l ∈ c.execLanes h ↔ (c.exec h).getLsbD l = true := by
  rw [Ctx.execLanes, mem_lanesOfMask]
  exact ⟨fun x => x.2, fun x => ⟨exec_lt x, x⟩⟩

end Sys2Proof.Machine
end

