-- ==== Sys2Proof/Laws/Finish.lean ====
section
/-! SUPPORT. Sys2Proof/Laws/Finish.lean: what ending an issue can change (R82, R139, R142, R145, R247): groups' warps and one core, and of a
warp nothing in its rest. -/

namespace Sys2Proof.Machine

/-! ## Lists as tables -/

theorem updFirst_map {α β : Type} (p : α → Bool) (f : α → α) (g : α → β) (h : ∀ x, g (f x) = g x) (l : List α) :
    (updFirst p f l).map g = l.map g := by
  induction l with
  | nil => rfl
  | cons x xs ih =>
    unfold updFirst
    split
    · simp [h]
    · simp [ih]

theorem find_updFirst {α : Type} (p : α → Bool) (f : α → α) (hp : ∀ x, p x = true → p (f x) = true) (l : List α) :
    (updFirst p f l).find? p = (l.find? p).map f := by
  induction l with
  | nil => rfl
  | cons x xs ih =>
    unfold updFirst
    by_cases h : p x = true
    · simp [h, hp x h]
    · rw [if_neg h, List.find?_cons, List.find?_cons]
      simp only [h]
      exact ih

theorem find_updFirst_ne {α : Type} (p q : α → Bool) (f : α → α) (h : ∀ x, p x = true → q x = false ∧ q (f x) = false) (l : List α) :
    (updFirst p f l).find? q = l.find? q := by
  induction l with
  | nil => rfl
  | cons x xs ih =>
    unfold updFirst
    by_cases hx : p x = true
    · rw [if_pos hx, List.find?_cons, List.find?_cons, (h x hx).1, (h x hx).2]
    · rw [if_neg hx, List.find?_cons, List.find?_cons, ih]

/-! ## One warp -/

theorem rest_key {w v : Warp} (h : w.rest = v.rest) : w.key = v.key := by have := congrArg Warp.key h; exact this

theorem modStrand_rest (w : Warp) (st : Strand) (f : StrandSt → StrandSt) (hf : (f (w.strand st)).still = (w.strand st).still) :
    (w.modStrand st f).rest = w.rest := by
  cases st <;> simp only [Warp.modStrand, Warp.setStrand, Warp.strand, Warp.rest] at hf ⊢ <;> rw [hf]

theorem modStrand_slices_rest (w : Warp) (st : Strand) (f : StrandSt → List Slice) :
    (w.modStrand st fun t => { t with slices := f t }).rest = w.rest := modStrand_rest w st _ rfl

theorem part_still (t : StrandSt) (who : List (Nat × Nat × Nat)) : (t.part who).still = t.still := rfl

theorem recount_rest (w : Warp) (now : Nat) : (w.recount now).rest = w.rest := rfl

theorem setQueues_rest (w : Warp) (i : Nat) (qs : List (Vector Word 8)) : (w.setQueues i qs).rest = w.rest := by
  unfold Warp.setQueues
  obtain ⟨b, hb⟩ := unmark_eq (w.modLanes (nibMask i 15) fun l k => { k with a := qs.getD (l - 4 * i) k.a }) (nibMask i 15) isAge
  rw [hb]
  unfold Warp.rest
  congr 1
  apply List.ext_getElem?
  intro l
  simp only [List.getElem?_map, modLanes_get, Option.map_map]
  congr 1; funext k
  simp only [Function.comp]
  split <;> rfl

theorem settleSlice_rest (w : Warp) (st : Strand) (free i : Nat) : (w.settleSlice st free i).rest = w.rest := by
  unfold Warp.settleSlice
  extract_lets t sl qs x w1 w2
  have h1 : w1.rest = w.rest := by
    simp only [w1]; split
    · exact setQueues_rest w i x.qs
    · rfl
  have h2 : w2.rest = w.rest := by
    rw [← h1]; exact modStrand_slices_rest w1 st fun t => updAt i (fun _ => x.sl) t.slices
  split
  · exact h2
  · rw [← h2]; rfl

theorem settleSlices_rest (w : Warp) (st : Strand) (free : Nat) (who : List Nat) : (w.settleSlices st free who).rest = w.rest := by
  unfold Warp.settleSlices
  induction who generalizing w with
  | nil => rfl
  | cons i who ih => rw [List.foldl_cons, ih, settleSlice_rest]

theorem release_rest (w : Warp) (st : Strand) (h : Hold) (free : Nat) (key : Slice → Nat) : (w.release st h free key).rest = w.rest := by
  unfold Warp.release
  extract_lets t who w1 w2
  rw [modStrand_rest _ _ _ rfl, settleSlices_rest]
  exact modStrand_slices_rest w st _

theorem regang_rest (w : Warp) (st : Strand) (free : Nat) : (w.regang st free).rest = w.rest := by
  unfold Warp.regang
  extract_lets live
  split
  · exact release_rest _ _ _ _ _
  · rfl

/-! ## The state -/

/-- Two states that differ in groups and cores alone. -/
def sameBut (s t : State) : Prop := { t with groups := s.groups, cores := s.cores } = s

theorem sameBut_refl (s : State) : sameBut s s := rfl

theorem sameBut_trans {s t u : State} (h : sameBut s t) (k : sameBut t u) : sameBut s u := by
  have := congrArg (fun x : State => { x with groups := s.groups, cores := s.cores }) k
  exact Eq.trans this h

theorem modGroup_sameBut (s : State) (k : GroupKey) (f : Group → Group) : sameBut s (s.modGroup k f) := rfl

theorem setCore_sameBut (s : State) (k : CoreSt) : sameBut s (s.setCore k) := rfl

theorem coreEvent_sameBut (s : State) (d c e m n : Nat) : sameBut s (s.coreEvent d c e m n) := by
  unfold State.coreEvent; split
  · rfl
  · rfl

theorem occupy_sameBut (s : State) (g : Group) (w : WarpKey) (st : Strand) (n : Nat) : sameBut s (s.occupy g w st n) := rfl

theorem foldl_ind {α β : Type} (P : β → Prop) (f : β → α → β) (hf : ∀ b a, P b → P (f b a)) : ∀ (l : List α) (b : β), P b → P (l.foldl f b)
  | [], _, h => h
  | a :: l, b, h => foldl_ind P f hf l (f b a) (hf b a h)

/-- A change of groups that keeps their shells and, of every warp, its rest. -/
def restful (s t : State) : Prop :=
  sameBut s t ∧ t.groups.map (fun g => (g.shell, g.warps.map Warp.rest)) = s.groups.map fun g => (g.shell, g.warps.map Warp.rest)

theorem restful_refl (s : State) : restful s s := ⟨rfl, rfl⟩

theorem restful_trans {s t u : State} (h : restful s t) (k : restful t u) : restful s u := ⟨sameBut_trans h.1 k.1, k.2.trans h.2⟩

theorem modGroup_restful (s : State) (k : GroupKey) (f : Group → Group) (h : ∀ g, (f g).shell = g.shell ∧ (f g).warps.map Warp.rest = g.warps.map Warp.rest) :
    restful s (s.modGroup k f) :=
  ⟨rfl, updFirst_map _ f (fun g => (g.shell, g.warps.map Warp.rest)) (fun g => by rw [(h g).1, (h g).2]) _⟩

theorem tryBarrier_restful (s : State) (ks : List GroupKey) (st : Strand) (h : Hold) : restful s (s.tryBarrier ks st h) := by
  unfold State.tryBarrier
  extract_lets ws
  split
  · apply foldl_ind (fun t => restful s t) _ _ _ _ (restful_refl s)
    intro t k ht
    refine restful_trans ht (modGroup_restful t k _ fun g => ⟨rfl, ?_⟩)
    simp only [List.map_map]
    apply List.map_congr_left
    intro w _
    simp only [Function.comp]
    split
    · exact release_rest _ _ _ _ _
    · rfl
  · exact restful_refl s

theorem barriers_restful (s : State) (k : GroupKey) : restful s (s.barriers k) := by
  unfold State.barriers
  split
  · exact restful_refl s
  · extract_lets co
    apply foldl_ind (fun t => restful s t) _ _ _ _ (restful_refl s)
    intro t st ht
    exact restful_trans ht (restful_trans (tryBarrier_restful _ _ _ _) (tryBarrier_restful _ _ _ _))

/-! ## Cores -/

theorem find_putFirst {α : Type} (p : α → Bool) (v : α) (hv : p v = true) (l : List α) : (putFirst p v l).find? p = some v := by
  induction l with
  | nil => simp [putFirst, hv]
  | cons x xs ih =>
    unfold putFirst
    by_cases h : p x = true
    · rw [if_pos h, List.find?_cons, hv]
    · rw [if_neg h, List.find?_cons]; simp only [h]; exact ih

theorem find_putFirst_ne {α : Type} (p q : α → Bool) (v : α) (hv : q v = false) (h : ∀ x, p x = true → q x = false) (l : List α) :
    (putFirst p v l).find? q = l.find? q := by
  induction l with
  | nil => simp [putFirst, hv]
  | cons x xs ih =>
    unfold putFirst
    by_cases hx : p x = true
    · rw [if_pos hx, List.find?_cons, List.find?_cons, hv, h x hx]
    · rw [if_neg hx, List.find?_cons, List.find?_cons, ih]

theorem core_key (s : State) (d n : Nat) : (s.core d n).die = d ∧ (s.core d n).core = n := by
  unfold State.core
  cases h : s.cores.find? (fun k => k.die == d && k.core == n) with
  | none => exact ⟨rfl, rfl⟩
  | some k => simpa using List.find?_some h

theorem core_setCore (s : State) (k : CoreSt) (d n : Nat) :
    (s.setCore k).core d n = if k.die = d ∧ k.core = n then k else s.core d n := by
  unfold State.core State.setCore
  by_cases h : k.die = d ∧ k.core = n
  · obtain ⟨rfl, rfl⟩ := h
    rw [find_putFirst _ _ (by simp)]; simp
  · rw [if_neg h]
    congr 1
    apply find_putFirst_ne
    · simpa using h
    · intro x hx
      simp only [Bool.and_eq_true, beq_iff_eq] at hx
      simp only [hx.1, hx.2]
      simpa using h

theorem core_modCore (s : State) (d c : Nat) (f : CoreSt → CoreSt) (hf : ∀ k, (f k).die = k.die ∧ (f k).core = k.core) (e n : Nat) :
    (s.modCore d c f).core e n = if d = e ∧ c = n then f (s.core d c) else s.core e n := by
  unfold State.modCore
  rw [core_setCore, (hf _).1, (hf _).2, (core_key s d c).1, (core_key s d c).2]

theorem core_congr {s t : State} (h : t.cores = s.cores) (d n : Nat) : t.core d n = s.core d n := by
  unfold State.core; rw [h]

/-- What an event counter leaves of a core. -/
theorem coreEvent_core (s : State) (d c e m k : Nat) (d' c' : Nat) :
    ∃ l, (s.coreEvent d c e m k).core d' c' = { s.core d' c' with counters := l } := by
  unfold State.coreEvent
  split
  · rw [core_modCore (hf := by intro _; exact ⟨rfl, rfl⟩)]
    split
    · rename_i h; obtain ⟨rfl, rfl⟩ := h; exact ⟨_, rfl⟩
    · exact ⟨_, rfl⟩
  · exact ⟨_, rfl⟩

theorem coreEvent_groups (s : State) (d c e m k : Nat) : (s.coreEvent d c e m k).groups = s.groups := by
  unfold State.coreEvent; split <;> rfl

theorem occupy_groups (s : State) (g : Group) (w : WarpKey) (st : Strand) (n : Nat) : (s.occupy g w st n).groups = s.groups := rfl

/-- A core's front end of a strand after an issue. -/
theorem occupy_core (s : State) (g : Group) (w : WarpKey) (st : Strand) (n : Nat) (d' c' : Nat) :
    ((s.occupy g w st n).core d' c') =
      if g.die = d' ∧ g.core = c' then
        (match st with
         | .c => { s.core d' c' with feUntil := s.now + n / 16, feDom := g.dom, lastC := some w }
         | .a => { s.core d' c' with aUntil := s.now + n / 16, lastA := some w })
      else s.core d' c' := by
  unfold State.occupy
  rw [core_modCore (hf := by intro k; cases st <;> exact ⟨rfl, rfl⟩)]
  split
  · rename_i h; obtain ⟨rfl, rfl⟩ := h; rfl
  · rfl

/-! ## The end of an issue -/

/-- The warp with key k, found by its group. -/
theorem group_modGroup (s : State) (k : GroupKey) (f : Group → Group) (hf : ∀ g, (f g).key = g.key) (j : GroupKey) :
    (s.modGroup k f).group? j = if j = k then (s.group? k).map f else s.group? j := by
  unfold State.group? State.modGroup
  by_cases h : j = k
  · subst h
    rw [if_pos rfl]
    apply find_updFirst
    intro x hx; simpa [hf] using hx
  · rw [if_neg h]
    apply find_updFirst_ne
    intro x hx
    have : x.key = k := by simpa using hx
    have hne : (k == j) = false := by simpa using fun e : k = j => h e.symm
    simp [hf, this, hne]

theorem warp_modWarp (s : State) (k : WarpKey) (f : Warp → Warp) (hf : ∀ w, w.key = k → (f w).key = k) (j : WarpKey) :
    (s.modWarp k f).warp? j = if j = k then (s.warp? k).map f else s.warp? j := by
  unfold State.warp? State.modWarp
  rw [group_modGroup (hf := by intro _; rfl)]
  by_cases hg : j.group = k.group
  · rw [if_pos hg, hg]
    cases hs : s.group? k.group with
    | none => simp
    | some g =>
      simp only [Option.map_some, Option.bind_some]
      by_cases h : j = k
      · subst h; rw [if_pos rfl]
        unfold Group.warp?
        apply find_updFirst
        intro x hx; simpa using hf x (by simpa using hx)
      · rw [if_neg h]
        unfold Group.warp?
        apply find_updFirst_ne
        intro x hx
        have hx : x.key = k := by simpa using hx
        have hne : (k == j) = false := by simpa using fun e : k = j => h e.symm
        simp [hx, hf x hx, hne]
  · have h : j ≠ k := fun e => hg (by rw [e])
    rw [if_neg hg, if_neg h]

/-- Reading a warp up to its rest follows from the groups up to theirs. -/
theorem restful_warp {s t : State} (h : restful s t) (k : WarpKey) : (t.warp? k).map Warp.rest = (s.warp? k).map Warp.rest := by
  have key (a b : List Group) (hab : a.map (fun g => (g.shell, g.warps.map Warp.rest)) = b.map fun g => (g.shell, g.warps.map Warp.rest)) :
      ((a.find? (·.key == k.group)).bind (·.warp? k)).map Warp.rest = ((b.find? (·.key == k.group)).bind (·.warp? k)).map Warp.rest := by
    induction a generalizing b with
    | nil => cases b with
      | nil => rfl
      | cons _ _ => simp at hab
    | cons g a ih =>
      cases b with
      | nil => simp at hab
      | cons g' b =>
        simp only [List.map_cons, List.cons.injEq, Prod.mk.injEq] at hab
        obtain ⟨⟨hs, hw⟩, hr⟩ := hab
        have hk : g.key = g'.key := by have := congrArg Group.key hs; exact this
        rw [List.find?_cons, List.find?_cons, hk]
        split
        · simp only [Option.bind_some, Group.warp?]
          generalize g.warps = ws at hw
          generalize g'.warps = ws' at hw
          induction ws generalizing ws' with
          | nil => cases ws' with
            | nil => rfl
            | cons _ _ => simp at hw
          | cons x ws ih2 =>
            cases ws' with
            | nil => simp at hw
            | cons x' ws' =>
              simp only [List.map_cons, List.cons.injEq] at hw
              rw [List.find?_cons, List.find?_cons, rest_key hw.1]
              split
              · simp [hw.1]
              · exact ih2 ws' hw.2
        · exact ih b hr
  exact key _ _ h.2

/-- The warp an issue leaves before barriers are looked at. -/
theorem finish_spec (c : Ctx) (h : Hdr) (upd : Nat → Slice → Slice) (s : State) (w : Warp) (hk : w.key = c.iss.w) :
    sameBut s (c.finish h upd s w) ∧
    (c.finish h upd s w).groups.map Group.shell = s.groups.map Group.shell ∧
    (∀ k, ((c.finish h upd s w).warp? k).map Warp.rest =
      if k = c.iss.w then (s.warp? k).map fun _ => ({ w.modStrand c.iss.strand fun t =>
        { t with parked := h.sw, walking := [], walk := [], midway := false, first := false, pops := t.pops.filter (·.1 != c.iss.gang) } with
        past := c.snap :: w.past } : Warp).rest
      else (s.warp? k).map Warp.rest) := by
  unfold Ctx.finish
  extract_lets st w1 w2 w3 w3' w4 s1
  have e1 : w1.rest = (w.modStrand st fun t =>
      { t with parked := h.sw, walking := [], walk := [], midway := false, first := false, pops := t.pops.filter (·.1 != c.iss.gang) }).rest := by
    simp only [w1]
    cases st <;> rfl
  have e2 : w2.rest = w1.rest := settleSlices_rest _ _ _ _
  have e3 : w3.rest = w2.rest := (regang_rest _ _ _).trans (modStrand_rest _ _ _ rfl)
  have e4 : w4.rest = w3'.rest := by
    simp only [w4]
    rw [recount_rest]
    split
    · rfl
    · exact modStrand_rest _ _ _ rfl
  have ep : w3.past = w.past := by
    have := congrArg Warp.past (e3.trans (e2.trans e1))
    exact this.trans (by cases st <;> rfl)
  have ew : w4.rest = ({ w.modStrand st fun t =>
      { t with parked := h.sw, walking := [], walk := [], midway := false, first := false, pops := t.pops.filter (·.1 != c.iss.gang) } with
      past := c.snap :: w.past } : Warp).rest := by
    rw [e4, ← ep]
    have := congrArg (fun x : Warp => { x with past := c.snap :: w3.past }) (e3.trans (e2.trans e1))
    exact this
  have k4 : w4.key = c.iss.w := by
    rw [rest_key ew]
    cases hst : st <;> exact hk
  have sb1 : sameBut s s1 := by
    simp only [s1]
    exact sameBut_trans (sameBut_trans (modGroup_sameBut s _ _) (occupy_sameBut _ _ _ _ _)) (coreEvent_sameBut _ _ _ _ _ _)
  have g1 : s1.groups = (s.modWarp c.iss.w fun _ => w4).groups := by
    simp only [s1]; rw [coreEvent_groups, occupy_groups]
  have w1? (k : WarpKey) : s1.warp? k = if k = c.iss.w then (s.warp? c.iss.w).map (fun _ => w4) else s.warp? k := by
    rw [← warp_modWarp s c.iss.w (fun _ => w4) (fun _ _ => k4) k]
    unfold State.warp? State.group?; rw [g1]
  have sh1 : s1.groups.map Group.shell = s.groups.map Group.shell := by
    rw [g1]
    exact updFirst_map _ _ Group.shell (by intro _; rfl) _
  have fin (t : State) (ht : restful s1 t) : sameBut s t ∧ t.groups.map Group.shell = s.groups.map Group.shell ∧
      (∀ k, (t.warp? k).map Warp.rest =
        if k = c.iss.w then (s.warp? k).map fun _ => ({ w.modStrand c.iss.strand fun t =>
          { t with parked := h.sw, walking := [], walk := [], midway := false, first := false, pops := t.pops.filter (·.1 != c.iss.gang) } with
          past := c.snap :: w.past } : Warp).rest
        else (s.warp? k).map Warp.rest) := by
    refine ⟨sameBut_trans sb1 ht.1, ?_, fun k => ?_⟩
    · rw [← sh1]
      have := congrArg (List.map Prod.fst) ht.2
      simpa [List.map_map, Function.comp_def] using this
    · rw [restful_warp ht, w1?]
      by_cases hkk : k = c.iss.w
      · subst hkk
        simp only [if_true, Option.map_map]
        congr 1; funext x
        exact ew
      · simp only [hkk, if_false]
  split
  · exact fin _ (barriers_restful _ _)
  · exact fin _ (restful_refl _)

end Sys2Proof.Machine
end

