-- ==== Sys2Proof/Laws/LaneOps.lean ====
section
/-! SUPPORT. Sys2Proof/Laws/LaneOps.lean: what writing a destination and ending a lane-by-lane instruction can do (R81, R108). -/

namespace Sys2Proof.Machine

/-- A lane after a destination write of kind dk. -/
def laneWritten (c : Ctx) (dk fs : Nat) (exec : Mask) (res : Nat → Word) (gone : Bool) (l : Nat) (k : Lane) : Lane :=
  let v := if exec.getLsbD l then res l else 0
  { k with
      a := if dk ≤ 1 && c.active.getLsbD l then (Vector.ofFn fun i => if i.val = 0 then v else k.a.getD (i.val - 1) 0) else k.a
      f := if (dk == 1 || dk == 2) && exec.getLsbD l then k.f.set! fs v else k.f
      sq := if dk == 3 && c.gangMask.getLsbD l && !gone then k.sq ++ [v] else k.sq
      iq := if dk == 4 && c.gangMask.getLsbD l && !gone then k.iq ++ [v] else k.iq }

/-- Bits of a mask register after kind 6. -/
theorem setBits_get (ls : List Nat) (res : Nat → Word) (m : Mask) (l : Nat) (hl : l < 64) :
    (ls.foldl (fun (m : Mask) l => if res l != 0 then m ||| (1 <<< l) else m &&& ~~~((1 : Mask) <<< l)) m).getLsbD l =
      if l ∈ ls then res l != 0 else m.getLsbD l := by
  have bitN (a : Nat) : (((1 <<< a : Nat)) : Mask).getLsbD l = decide (a = l) := by
    show (BitVec.ofNat 64 (1 <<< a)).getLsbD l = _
    rw [BitVec.getLsbD_ofNat, Nat.shiftLeft_eq, Nat.one_mul, Nat.testBit_two_pow]
    simp [hl]
  have bit (a : Nat) : ((1 : Mask) <<< a).getLsbD l = decide (a = l) := by
    rw [BitVec.getLsbD_shiftLeft, show (1 : Mask) = 1#64 from rfl, BitVec.getLsbD_one]
    by_cases h : a = l
    · subst h; simp [hl]
    · simp [hl, h]; omega
  induction ls generalizing m with
  | nil => simp
  | cons a ls ih =>
    rw [List.foldl_cons, ih]
    by_cases hm : l ∈ ls
    · simp only [hm, List.mem_cons, or_true, if_true]
    · have e : (l ∈ a :: ls) = (a = l) := by simp [hm, eq_comm]
      rw [if_neg hm]
      simp only [e]
      by_cases hr : (res a != 0) = true
      · rw [if_pos hr, BitVec.getLsbD_or, bitN]
        by_cases ha : a = l
        · subst ha; simp only [if_true, decide_true, Bool.or_true, hr]
        · simp [ha]
      · rw [if_neg hr, BitVec.getLsbD_and, BitVec.getLsbD_not, bit]
        by_cases ha : a = l
        · subst ha; simp only [if_true, decide_true]; simp at hr; simp [hr]
        · simp [ha, hl]

/-- All that a destination write can do: lanes, y, the masks and marks. -/
theorem write_spec (c : Ctx) (dk fs : Nat) (exec : Mask) (res : Nat → Word) (id : Option Nat) (w : Warp)
    (hx : ∀ l, exec.getLsbD l = true → l < w.width) :
    (∀ l, (c.write dk fs exec res id w).lanes[l]? = (w.lanes[l]?).map (laneWritten c dk fs exec res w.a.exited l)) ∧
    (c.write dk fs exec res id w).y =
      (match dk == 5, (lanesOfMask w.width exec).head? with
       | true, some l => w.y.set! fs (res l)
       | _, _ => w.y) ∧
    (∀ i l, ((c.write dk fs exec res id w).m.getD i 0).getLsbD l =
      if dk == 6 && i == fs % 8 && exec.getLsbD l then res l != 0 else (w.m.getD i 0).getLsbD l) ∧
    { c.write dk fs exec res id w with lanes := w.lanes, y := w.y, m := w.m, busy := w.busy } = w := by
  have frame (v : Warp) : ∃ b, ((v.modLanes exec fun l k => { k with f := k.f.set! fs (res l) }).unmark exec (· == Loc.frame fs)).owe id
      (lanesOfMask w.width exec) (fun _ => .frame fs) = { v.modLanes exec (fun l k => { k with f := k.f.set! fs (res l) }) with busy := b } := by
    obtain ⟨b, hb⟩ := unmark_eq (v.modLanes exec fun l k => { k with f := k.f.set! fs (res l) }) exec (· == Loc.frame fs)
    rw [hb]
    obtain ⟨b', hb'⟩ := owe_eq { v.modLanes exec (fun l k => { k with f := k.f.set! fs (res l) }) with busy := b } id (lanesOfMask w.width exec) fun _ => .frame fs
    exact ⟨b', hb'⟩
  have pushed : ∃ b, (w.push c.active exec res).owe id (lanesOfMask w.width exec) (fun _ => .age 0) =
      { w.modLanes c.active (fun l k => k.push (if exec.getLsbD l then res l else 0)) with busy := b } := by
    obtain ⟨b, hb⟩ := push_eq w c.active exec res
    rw [hb]
    obtain ⟨b', hb'⟩ := owe_eq { w.modLanes c.active (fun l k => k.push (if exec.getLsbD l then res l else 0)) with busy := b } id (lanesOfMask w.width exec) fun _ => .age 0
    exact ⟨b', hb'⟩
  have pushEq (k : Lane) (v : Word) : k.push v = { k with a := Vector.ofFn fun i => if i.val = 0 then v else k.a.getD (i.val - 1) 0 } := rfl
  unfold Ctx.write
  dsimp only
  split
  · obtain ⟨b, hb⟩ := pushed
    rw [hb]
    refine ⟨fun l => ?_, rfl, fun i l => by simp, rfl⟩
    simp only [modLanes_get]; congr 1; funext k
    by_cases ha : c.active.getLsbD l <;> simp [laneWritten, ha, pushEq]
  · obtain ⟨b, hb⟩ := pushed
    obtain ⟨b', hb'⟩ := frame { w.modLanes c.active (fun l k => k.push (if exec.getLsbD l then res l else 0)) with busy := b }
    rw [hb, hb']
    refine ⟨fun l => ?_, rfl, fun i l => by simp, rfl⟩
    simp only [modLanes_get, Option.map_map]; congr 1; funext k
    by_cases ha : c.active.getLsbD l <;> by_cases he : exec.getLsbD l <;> simp [laneWritten, ha, he, pushEq]
  · obtain ⟨b', hb'⟩ := frame w
    rw [hb']
    refine ⟨fun l => ?_, rfl, fun i l => by simp, rfl⟩
    simp only [modLanes_get]; congr 1; funext k
    by_cases he : exec.getLsbD l <;> simp [laneWritten, he]
  · by_cases hg : w.a.exited = true
    · rw [if_pos hg]
      refine ⟨fun l => ?_, rfl, fun i l => by simp, rfl⟩
      rw [show laneWritten c 3 fs exec res w.a.exited l = fun k => k from by funext k; simp [laneWritten, hg]]
      simp
    · rw [if_neg hg]
      obtain ⟨b, hb⟩ := owe_eq (w.modLanes c.gangMask fun l k => { k with sq := k.sq ++ [if exec.getLsbD l then res l else 0] }) id
        (lanesOfMask w.width exec) fun l => .sq ((w.lane l).sq.length)
      rw [hb]
      refine ⟨fun l => ?_, rfl, fun i l => by simp, rfl⟩
      simp only [modLanes_get]; congr 1; funext k
      by_cases he : c.gangMask.getLsbD l <;> simp [laneWritten, he, hg]
  · by_cases hg : w.a.exited = true
    · rw [if_pos hg]
      refine ⟨fun l => ?_, rfl, fun i l => by simp, rfl⟩
      rw [show laneWritten c 4 fs exec res w.a.exited l = fun k => k from by funext k; simp [laneWritten, hg]]
      simp
    · rw [if_neg hg]
      obtain ⟨b, hb⟩ := owe_eq (w.modLanes c.gangMask fun l k => { k with iq := k.iq ++ [if exec.getLsbD l then res l else 0] }) id
        (lanesOfMask w.width exec) fun l => .iq ((w.lane l).iq.length)
      rw [hb]
      refine ⟨fun l => ?_, rfl, fun i l => by simp, rfl⟩
      simp only [modLanes_get]; congr 1; funext k
      by_cases he : c.gangMask.getLsbD l <;> simp [laneWritten, he, hg]
  · cases hh : (lanesOfMask w.width exec).head? with
    | none =>
      refine ⟨fun l => ?_, by simp, fun i l => by simp, rfl⟩
      rw [show laneWritten c 5 fs exec res w.a.exited l = fun k => k from by funext k; simp [laneWritten]]
      simp
    | some a =>
      dsimp only
      obtain ⟨b, hb⟩ := unmark_eq { w with y := w.y.set! fs (res a) } 1 (· == Loc.uni fs)
      rw [hb]
      obtain ⟨b', hb'⟩ := owe_eq ({ { w with y := w.y.set! fs (res a) } with busy := b }) id [0] fun _ => .uni fs
      rw [hb']
      refine ⟨fun l => ?_, by simp, fun i l => by simp, rfl⟩
      rw [show laneWritten c 5 fs exec res w.a.exited l = fun k => k from by funext k; simp [laneWritten]]
      simp
  · generalize hv : (lanesOfMask w.width exec).foldl (fun (m : Mask) l => if res l != 0 then m ||| (1 <<< l) else m &&& ~~~((1 : Mask) <<< l))
      (w.m.getD (fs % 8) 0) = v
    obtain ⟨b, hb⟩ := unmark_eq { w with m := w.m.set! (fs % 8) v } exec (· == Loc.mask (fs % 8))
    rw [hb]
    obtain ⟨b', hb'⟩ := owe_eq ({ { w with m := w.m.set! (fs % 8) v } with busy := b }) id (lanesOfMask w.width exec) fun _ => .mask (fs % 8)
    rw [hb']
    refine ⟨fun l => ?_, rfl, fun i l => ?_, rfl⟩
    · rw [show laneWritten c 6 fs exec res w.a.exited l = fun k => k from by funext k; simp [laneWritten]]
      simp
    · show ((w.m.set! (fs % 8) v).getD i 0).getLsbD l = _
      have hf : fs % 8 < 8 := Nat.mod_lt _ (by decide)
      by_cases hi : i = fs % 8
      · subst hi
        have : (w.m.set! (fs % 8) v).getD (fs % 8) 0 = v := by
          simp [Vector.getD, hf]
        rw [this]
        by_cases hl : l < 64
        · rw [← hv, setBits_get _ _ _ _ hl]
          have : l ∈ lanesOfMask w.width exec ↔ exec.getLsbD l = true := by
            rw [mem_lanesOfMask]; exact ⟨fun x => x.2, fun x => ⟨hx l x, x⟩⟩
          by_cases he : exec.getLsbD l = true <;> simp [this, he]
        · rw [BitVec.getLsbD_of_ge _ _ (Nat.le_of_not_lt hl), BitVec.getLsbD_of_ge exec _ (Nat.le_of_not_lt hl),
            BitVec.getLsbD_of_ge _ _ (Nat.le_of_not_lt hl)]
          simp
      · have : (w.m.set! (fs % 8) v).getD i 0 = w.m.getD i 0 := by
          by_cases h8 : i < 8
          · simp [Vector.getD, h8, Ne.symm hi]
          · simp [Vector.getD, h8]
        rw [this]; simp [hi]
  · rename_i h0 h1 h2 h3 h4 h5 h6
    have g0 : ¬ dk ≤ 1 := by
      intro h; rcases Nat.le_one_iff_eq_zero_or_eq_one.mp h with e | e
      · exact h0 e
      · exact h1 e
    have b1 : (dk == 1) = false := by simpa using h1
    have b2 : (dk == 2) = false := by simpa using h2
    have b3 : (dk == 3) = false := by simpa using h3
    have b4 : (dk == 4) = false := by simpa using h4
    have b5 : (dk == 5) = false := by simpa using h5
    have b6 : (dk == 6) = false := by simpa using h6
    refine ⟨fun l => ?_, ?_, fun i l => ?_, rfl⟩
    · rw [show laneWritten c dk fs exec res w.a.exited l = fun k => k from by funext k; simp [laneWritten, g0, b1, b2, b3, b4]]
      simp
    · simp [b5]
    · simp [b6]

theorem table_word (width : Nat) (m : Mask) (res : Nat → Res) (l : Nat) (h : l ∈ lanesOfMask width m) :
    (((((lanesOfMask width m).map fun l => (l, res l)).find? (·.1 == l)).map (·.2.word)).getD 0) = (res l).word := by
  generalize lanesOfMask width m = ls at h
  induction ls with
  | nil => simp at h
  | cons a ls ih =>
    by_cases e : a = l
    · subst e; simp
    · have hm : l ∈ ls := by
        rcases List.mem_cons.mp h with e' | e'
        · exact absurd e'.symm e
        · exact e'
      have e2 : (a == l) = false := by simpa using e
      simpa [e2] using ih hm

/-- All that a lane-by-lane instruction can do once its queues let it issue: how it ends, and what the warp holds. -/
theorem result_spec (s : State) (c : Ctx) (o : LaneOp) :
    ∃ w, c.result s o.h o.long o.dk o.fs (lqPops o.codes) o.res = .next (c.finish o.h nextPc (if o.long then s.bumpId else s) w) ∧
      (∀ l, w.lanes[l]? = (c.warp.lanes[l]?).map (c.laneAfter o l)) ∧
      w.y = c.yAfter o ∧
      (∀ i l, (w.m.getD i 0).getLsbD l = c.maskBitAfter o i l) ∧
      w.longs = c.warp.longs ++ (if o.long then [⟨s.nextId, c.iss.strand, c.slices.headD 0, c.laneFlags o, none, c.pc⟩] else []) ∧
      w.pending = c.warp.pending ++ (if o.long then [] else
        match arithCause c.warp.mode (c.laneFlags o) with
        | some (code, l) => [{ Raised.plain code 0 (l / 4) c.iss.strand true c.pc [l / 4] with lane := l }]
        | none => []) ∧
      { w with lanes := c.warp.lanes, y := c.warp.y, m := c.warp.m, longs := c.warp.longs, pending := c.warp.pending,
               busy := c.warp.busy, c := c.warp.c, a := c.warp.a } = c.warp ∧
      (∀ st, w.strand st = { c.warp.strand st with stopped := (c.warp.strand st).stopped ||
        (st == c.iss.strand && !o.long && (arithCause c.warp.mode (c.laneFlags o)).isSome) }) := by
  let word (l : Nat) : Word := ((((c.execLanes o.h).map fun l => (l, o.res l)).find? (·.1 == l)).map (·.2.word)).getD 0
  have hword (l : Nat) (h : (c.exec o.h).getLsbD l = true) : word l = (o.res l).word := table_word _ _ _ _ (mem_execLanes.mpr h)
  let w0 := c.warp.modLanes c.gangMask fun _ k => { k with lq := k.lq.drop (lqPops o.codes) }
  let id : Option Nat := if o.long then some s.nextId else none
  obtain ⟨hl, hy, hm, hf⟩ := write_spec c o.dk.toNat o.fs.toNat (c.exec o.h) word id w0 (fun l h => exec_lt h)
  let v := c.write o.dk.toNat o.fs.toNat (c.exec o.h) word id w0
  change ∀ l, v.lanes[l]? = _ at hl
  change v.y = _ at hy
  change ∀ i l, (v.m.getD i 0).getLsbD l = _ at hm
  change { v with lanes := w0.lanes, y := w0.y, m := w0.m, busy := w0.busy } = w0 at hf
  have dkNat (n : Nat) (hn : n < 8) : (o.dk.toNat == n) = (o.dk == BitVec.ofNat 3 n) := by
    rw [Bool.eq_iff_iff, beq_iff_eq, beq_iff_eq, ← BitVec.toNat_inj, BitVec.toNat_ofNat, Nat.mod_eq_of_lt hn]
  have hy' : v.y = c.yAfter o := by
    rw [hy]
    unfold Ctx.yAfter Ctx.firstLane? Ctx.execLanes
    show (match o.dk.toNat == 5, (lanesOfMask c.warp.width (c.exec o.h)).head? with | true, some l => _ | _, _ => _) = _
    rw [dkNat 5 (by decide)]
    cases o.dk == 5
    · rfl
    · cases hh : (lanesOfMask c.warp.width (c.exec o.h)).head? with
      | none => rfl
      | some l =>
        have : (c.exec o.h).getLsbD l = true := (mem_lanesOfMask.mp (List.mem_of_mem_head? hh)).2
        show c.warp.y.set! _ (word l) = _
        rw [hword l this]
  have hm' (i l : Nat) : (v.m.getD i 0).getLsbD l = c.maskBitAfter o i l := by
    rw [hm, dkNat 6 (by decide)]
    unfold Ctx.maskBitAfter
    by_cases he : (c.exec o.h).getLsbD l = true
    · rw [hword l he]; rfl
    · simp [he]; rfl
  have lane (l : Nat) (k : Lane) : laneWritten c o.dk.toNat o.fs.toNat (c.exec o.h) word c.warp.a.exited l { k with lq := if c.gangMask.getLsbD l then k.lq.drop (lqPops o.codes) else k.lq } =
      { c.laneAfter o l k with status := k.status } := by
    unfold laneWritten Ctx.laneAfter
    simp only [dkNat 1 (by decide), dkNat 2 (by decide), dkNat 3 (by decide), dkNat 4 (by decide)]
    by_cases he : (c.exec o.h).getLsbD l = true
    · simp [he, hword l he]
    · simp [he]
  have hl' (l : Nat) : v.lanes[l]? = (c.warp.lanes[l]?).map fun k => { c.laneAfter o l k with status := k.status } := by
    rw [hl]
    simp only [w0, modLanes_get, Option.map_map]
    congr 1; funext k
    simp only [Function.comp]
    rw [← lane l k]
    congr 1
    split <;> rfl
  have vlongs : v.longs = c.warp.longs := by have := congrArg Warp.longs hf; exact this
  have vpend : v.pending = c.warp.pending := by have := congrArg Warp.pending hf; exact this
  have vmode : v.mode = c.warp.mode := by have := congrArg Warp.mode hf; exact this
  have vc : v.c = c.warp.c := by have := congrArg Warp.c hf; exact this
  have va : v.a = c.warp.a := by have := congrArg Warp.a hf; exact this
  have vf : { v with lanes := c.warp.lanes, y := c.warp.y, m := c.warp.m, longs := c.warp.longs, pending := c.warp.pending,
                     busy := c.warp.busy, c := c.warp.c, a := c.warp.a } = c.warp := by
    have := congrArg (fun x : Warp => { x with lanes := c.warp.lanes, longs := c.warp.longs, pending := c.warp.pending, c := c.warp.c, a := c.warp.a }) hf
    exact this
  unfold Ctx.result
  dsimp only
  rw [popLq_eq]
  by_cases hlong : o.long = true
  · rw [if_pos hlong]
    have hid : id = some s.nextId := by simp [id, hlong]
    refine ⟨{ v with longs := v.longs ++ [⟨s.nextId, c.iss.strand, c.slices.headD 0, c.laneFlags o, none, c.pc⟩] }, ?_, ?_, hy', hm', ?_, ?_, vf, ?_⟩
    · simp only [hlong, if_true, Ctx.done, Ctx.laneFlags, List.map_map]
      simp only [v, hid]; rfl
    · intro l
      show v.lanes[l]? = _
      rw [hl']; congr 1; funext k; simp [Ctx.laneAfter, hlong]
    · simp [hlong, vlongs]
    · simp [hlong, vpend]
    · intro st; cases st <;> simp [hlong, Warp.strand, vc, va]
  · rw [if_neg hlong]
    have hlf : o.long = false := by simpa using hlong
    have hid : id = none := by simp [id, hlf]
    have hfl : ((lanesOfMask c.warp.width (c.exec o.h)).map fun l => (l, o.res l)).map (fun p => (p.1, p.2.flags)) = c.laneFlags o := by
      simp [Ctx.laneFlags, Ctx.execLanes]
    have sfl := setFlags_frame (c.laneFlags o) v
    have sl (l : Nat) : (v.setFlags (c.laneFlags o)).lanes[l]? = (c.warp.lanes[l]?).map (c.laneAfter o l) := by
      rw [setFlags_get, hl', Option.map_map]
      congr 1; funext k
      simp only [Function.comp]
      rw [show flagsAt (c.laneFlags o) l = if l ∈ c.execLanes o.h then (o.res l).flags else 0 from
        flagsAt_map _ (lanesOfMask_nodup _ _) _ _]
      by_cases he : (c.exec o.h).getLsbD l = true
      · rw [if_pos (mem_execLanes.mpr he)]; simp [Ctx.laneAfter, hlf, he]
      · rw [if_neg (fun h => he (mem_execLanes.mp h))]; simp [Ctx.laneAfter, he]
    refine ⟨v.meetFlags c.iss.strand c.pc (c.laneFlags o), ?_, ?_⟩
    · simp only [hlf, Ctx.done]
      rw [hfl]; simp only [v, hid]; rfl
    · have xm : (v.setFlags (c.laneFlags o)).mode = c.warp.mode := by have := congrArg Warp.mode sfl; exact Eq.trans this vmode
      have xl : (v.setFlags (c.laneFlags o)).longs = c.warp.longs := by have := congrArg Warp.longs sfl; exact Eq.trans this vlongs
      have xp : (v.setFlags (c.laneFlags o)).pending = c.warp.pending := by have := congrArg Warp.pending sfl; exact Eq.trans this vpend
      have xc : (v.setFlags (c.laneFlags o)).c = c.warp.c := by have := congrArg Warp.c sfl; exact Eq.trans this vc
      have xa : (v.setFlags (c.laneFlags o)).a = c.warp.a := by have := congrArg Warp.a sfl; exact Eq.trans this va
      have xy : (v.setFlags (c.laneFlags o)).y = c.yAfter o := by have := congrArg Warp.y sfl; exact Eq.trans this hy'
      have xmm : (v.setFlags (c.laneFlags o)).m = v.m := by have := congrArg Warp.m sfl; exact this
      have xf : { v.setFlags (c.laneFlags o) with
                   lanes := c.warp.lanes, y := c.warp.y, m := c.warp.m, longs := c.warp.longs,
                   pending := c.warp.pending, busy := c.warp.busy, c := c.warp.c, a := c.warp.a } = c.warp := by
        have := congrArg (fun x : Warp => { x with lanes := c.warp.lanes, y := c.warp.y, m := c.warp.m, longs := c.warp.longs, pending := c.warp.pending, busy := c.warp.busy, c := c.warp.c, a := c.warp.a }) sfl
        exact Eq.trans this vf
      have e : arithCause (v.setFlags (c.laneFlags o)).mode (c.laneFlags o) = arithCause c.warp.mode (c.laneFlags o) := by rw [xm]
      unfold Warp.meetFlags Warp.raiseArith
      rw [e]
      cases hc : arithCause c.warp.mode (c.laneFlags o) with
      | none =>
        refine ⟨sl, xy, fun i l => by rw [xmm]; exact hm' i l, by simp [hlf, xl], by simp [hlf, xp], xf, fun st => ?_⟩
        cases st <;> simp [Warp.strand, xc, xa]
      | some p =>
        obtain ⟨code, i⟩ := p
        generalize v.setFlags (c.laneFlags o) = z at *
        have hs (p : List Raised) (st st' : Strand) : ((({ z with pending := p } : Warp).modStrand st fun t => { t with stopped := true }).strand st') =
            { z.strand st' with stopped := (z.strand st').stopped || st' == st } := by
          cases st <;> cases st' <;> simp [Warp.strand, Warp.modStrand, Warp.setStrand]
        have hz (st' : Strand) : z.strand st' = c.warp.strand st' := by cases st' <;> simp [Warp.strand, xc, xa]
        cases hst : c.iss.strand <;>
        refine ⟨sl, xy, fun i l => ?_, ?_, ?_, xf, fun st' => ?_⟩ <;>
        first
          | (show (z.m.getD i 0).getLsbD l = _; rw [xmm]; exact hm' i l)
          | (show z.longs = _; simp [hlf, xl])
          | (show z.pending ++ _ = _; simp [hlf, xp])
          | (refine Eq.trans (hs (z.pending ++ _) _ st') ?_; rw [hz]; simp [hlf])

end Sys2Proof.Machine
end

