-- ==== Sys2Proof/Laws/Memory.lean ====
section
/-! SUPPORT. Sys2Proof/Laws/Memory.lean: byte stores keep their canonical form, a read after a write gives what was written, and every operation on
device memory and scratch keeps the form. -/

namespace Sys2Proof.Machine

/-! ## Byte stores -/

theorem cellsAbove_cons (lo : Option Nat) (k : Nat) (v : Byte) (xs : List Host.Cell) :
    cellsAbove lo ((k, v) :: xs) = true ↔ (∀ l, lo = some l → l < k) ∧ v ≠ 0#8 ∧ cellsAbove (some k) xs = true := by
  cases lo <;> simp [cellsAbove, and_assoc]

/-- A list above a bound is above every lower one. -/
theorem cellsAbove_weaken {hi : Nat} (lo : Option Nat) (c : List Host.Cell) (h : ∀ l, lo = some l → l ≤ hi)
    (hc : cellsAbove (some hi) c = true) : cellsAbove lo c = true := by
  cases c with
  | nil => rfl
  | cons x xs =>
    obtain ⟨k, v⟩ := x
    rw [cellsAbove_cons] at *
    exact ⟨fun l e => Nat.lt_of_le_of_lt (h l e) (hc.1 hi rfl), hc.2⟩

/-- Nothing is listed below the bound. -/
theorem cellRead_above {lo a : Nat} (c : List Host.Cell) (hc : cellsAbove (some lo) c = true) (h : a ≤ lo) : cellRead c a = 0#8 := by
  cases c with
  | nil => rfl
  | cons x xs =>
    obtain ⟨k, v⟩ := x
    rw [cellsAbove_cons] at hc
    have h0 := hc.1 lo rfl
    have h1 : k ≠ a := by omega
    have h2 : a < k := by omega
    simp [cellRead, h1, h2]

theorem cellWrite_above (lo : Option Nat) (c : List Host.Cell) (a : Nat) (b : Byte) (hc : cellsAbove lo c = true) (h : ∀ l, lo = some l → l < a) :
    cellsAbove lo (cellWrite c a b) = true := by
  induction c generalizing lo with
  | nil =>
    by_cases hb : b = 0#8
    · simp [cellWrite, cellsAbove, hb]
    · simp only [cellWrite, BitVec.ofNat_eq_ofNat, hb, if_false, cellsAbove_cons]
      exact ⟨h, hb, rfl⟩
  | cons x xs ih =>
    obtain ⟨k, v⟩ := x
    have hc' := (cellsAbove_cons lo k v xs).1 hc
    simp only [cellWrite, BitVec.ofNat_eq_ofNat]
    split
    · rename_i hk
      split
      · exact hc
      · rename_i hb
        rw [cellsAbove_cons, cellsAbove_cons]
        exact ⟨h, hb, fun l e => by cases e; exact hk, hc'.2⟩
    · split
      · subst_vars
        split
        · exact cellsAbove_weaken lo xs (fun l e => Nat.le_of_lt (h l e)) hc'.2.2
        · rename_i hb
          rw [cellsAbove_cons]
          exact ⟨h, hb, hc'.2.2⟩
      · rw [cellsAbove_cons]
        exact ⟨hc'.1, hc'.2.1, ih (some k) hc'.2.2 fun l e => by cases e; omega⟩

/-- A write keeps the canonical form. -/
theorem cellWrite_wf (c : List Host.Cell) (a : Nat) (b : Byte) (hc : cellsWf c = true) : cellsWf (cellWrite c a b) = true :=
  cellWrite_above none c a b hc (by simp)

@[simp] theorem cellWrites_wf (bs : List Byte) (c : List Host.Cell) (a : Nat) (hc : cellsWf c = true) : cellsWf (cellWrites c a bs) = true := by
  induction bs generalizing c a with
  | nil => exact hc
  | cons b bs ih => exact ih _ _ (cellWrite_wf c a b hc)

theorem cellRead_write_above (lo : Option Nat) (c : List Host.Cell) (a : Nat) (b : Byte) (x : Nat) (hc : cellsAbove lo c = true) :
    cellRead (cellWrite c a b) x = if x = a then b else cellRead c x := by
  induction c generalizing lo with
  | nil =>
    by_cases hb : b = 0#8
    · simp [cellWrite, cellRead, hb]
    · by_cases hx : x = a
      · simp [cellWrite, hb, cellRead, hx]
      · have e1 : ¬ a = x := fun e => hx e.symm
        simp [cellWrite, hb, cellRead, hx, e1]
  | cons y ys ih =>
    obtain ⟨k, v⟩ := y
    have h3 := ((cellsAbove_cons lo k v ys).1 hc).2.2
    simp only [cellWrite, BitVec.ofNat_eq_ofNat]
    rcases Nat.lt_trichotomy a k with hk | hk | hk
    · simp only [hk, if_true]
      by_cases hx : x = a
      · subst hx
        have : k ≠ x := by omega
        by_cases hb : b = 0#8 <;> simp [hb, cellRead, hk, this]
      · by_cases hb : b = 0#8
        · simp [hb, hx]
        · simp only [hb, if_false, hx]
          rw [cellRead]
          have e1 : ¬ a = x := fun e => hx e.symm
          simp only [e1, if_false]
          split
          · have : ¬ k = x := by omega
            have h4 : x < k := by omega
            simp [cellRead, this, h4]
          · rfl
    · subst hk
      simp only [Nat.lt_irrefl, if_false, if_true]
      by_cases hx : x = a
      · subst hx
        by_cases hb : b = 0#8
        · simp [hb, cellRead_above ys h3 (Nat.le_refl _)]
        · simp [hb, cellRead]
      · have e1 : ¬ a = x := fun e => hx e.symm
        by_cases hb : b = 0#8
        · simp only [hb, if_true, hx, if_false, cellRead, e1]
          split
          · exact cellRead_above ys h3 (by omega)
          · rfl
        · simp [hb, cellRead, e1, hx]
    · have e1 : ¬ a < k := by omega
      have e2 : ¬ k = a := by omega
      simp only [e1, e2, if_false, cellRead, ih (some k) h3]
      by_cases hx : x = a
      · subst hx; simp [e1, e2]
      · simp [hx]

/-- Reading one byte after writing one. -/
theorem cellRead_write (c : List Host.Cell) (a : Nat) (b : Byte) (x : Nat) (hc : cellsWf c = true) :
    cellRead (cellWrite c a b) x = if x = a then b else cellRead c x :=
  cellRead_write_above none c a b x hc

/-- Reading one byte after writing several. -/
theorem cellRead_writes (bs : List Byte) (c : List Host.Cell) (a x : Nat) (hc : cellsWf c = true) :
    cellRead (cellWrites c a bs) x = if a ≤ x ∧ x < a + bs.length then bs.getD (x - a) 0 else cellRead c x := by
  induction bs generalizing c a with
  | nil =>
    have : ¬ (a ≤ x ∧ x < a + ([] : List Byte).length) := by simp only [List.length_nil]; omega
    simp only [cellWrites, this, if_false]
  | cons b bs ih =>
    rw [cellWrites, ih _ _ (cellWrite_wf c a b hc), cellRead_write c a b x hc]
    simp only [List.length_cons]
    rcases Nat.lt_trichotomy x a with hx | hx | hx
    · have e1 : ¬ (a + 1 ≤ x ∧ x < a + 1 + bs.length) := by omega
      have e2 : ¬ (a ≤ x ∧ x < a + (bs.length + 1)) := by omega
      have e3 : ¬ x = a := by omega
      simp only [e1, e2, e3, if_false]
    · subst hx
      have e1 : ¬ (x + 1 ≤ x ∧ x < x + 1 + bs.length) := by omega
      simp [e1]
    · have e3 : ¬ x = a := by omega
      by_cases hl : x < a + 1 + bs.length
      · have e1 : a + 1 ≤ x ∧ x < a + 1 + bs.length := by omega
        have e2 : a ≤ x ∧ x < a + (bs.length + 1) := by omega
        simp only [e1, e2]
        obtain ⟨n, hn⟩ : ∃ n, x - a = n + 1 := ⟨x - a - 1, by omega⟩
        have hm : x - (a + 1) = n := by omega
        simp [hn, hm]
      · have e1 : ¬ (a + 1 ≤ x ∧ x < a + 1 + bs.length) := by omega
        have e2 : ¬ (a ≤ x ∧ x < a + (bs.length + 1)) := by omega
        simp only [e1, e2, e3, if_false]

@[simp] theorem cellReads_length (c : List Host.Cell) (a n : Nat) : (cellReads c a n).length = n := by
  induction n generalizing a with
  | zero => rfl
  | succ n ih => simp [cellReads, ih]

/-- Element i of a read. -/
theorem cellReads_get (c : List Host.Cell) (a n i : Nat) (h : i < n) : (cellReads c a n).getD i 0 = cellRead c (a + i) := by
  induction n generalizing a i with
  | zero => omega
  | succ n ih =>
    cases i with
    | zero => simp [cellReads]
    | succ i =>
      have e := ih (a + 1) i (by omega)
      have : a + 1 + i = a + (i + 1) := by omega
      simpa [cellReads, this] using e

/-! ## Device memory -/

@[simp] theorem reset_wf : State.reset.memory.wf = true := rfl
@[simp] theorem store_mem (m : Memory) (pa : Nat) (bs : List Byte) : (m.store pa bs).mem = cellWrites m.mem pa bs := rfl
@[simp] theorem heal_mem (m : Memory) (full : Bool) (pa n : Nat) : (m.heal full pa n).mem = m.mem := by
  unfold Memory.heal; split <;> rfl
@[simp] theorem poisonSector_mem (m : Memory) (sec : Nat) : (m.poisonSector sec).mem = m.mem := rfl
@[simp] theorem gc_mem (m : Memory) : m.gc.mem = m.mem := rfl
@[simp] theorem sysStore_mem (m : Memory) (pa : Nat) (bs : List Byte) : (m.sysStore pa bs).mem = cellWrites m.mem pa bs := rfl
@[simp] theorem applyHome_mem (m : Memory) (die : Nat) (told : List Nat) (p : Packet) : (m.applyHome die told p).mem = cellWrites m.mem p.pa p.bytes := by
  simp [Memory.applyHome]

/-- A store leaves the bytes it writes and every other byte as before. -/
theorem store_byte (m : Memory) (pa : Nat) (bs : List Byte) (a : Nat) (h : m.wf = true) :
    (m.store pa bs).byte a = if pa ≤ a ∧ a < pa + bs.length then bs.getD (a - pa) 0 else m.byte a :=
  cellRead_writes bs m.mem pa a h

theorem sysStore_byte (m : Memory) (pa : Nat) (bs : List Byte) (a : Nat) (h : m.wf = true) :
    (m.sysStore pa bs).byte a = if pa ≤ a ∧ a < pa + bs.length then bs.getD (a - pa) 0 else m.byte a :=
  cellRead_writes bs m.mem pa a h

theorem applyHome_byte (m : Memory) (die : Nat) (told : List Nat) (p : Packet) (a : Nat) (h : m.wf = true) :
    (m.applyHome die told p).byte a = if p.pa ≤ a ∧ a < p.pa + p.bytes.length then p.bytes.getD (a - p.pa) 0 else m.byte a := by
  unfold Memory.byte
  rw [applyHome_mem]
  exact cellRead_writes p.bytes m.mem p.pa a h

@[simp] theorem store_wf (m : Memory) (pa : Nat) (bs : List Byte) (h : m.wf = true) : (m.store pa bs).wf = true := cellWrites_wf bs _ _ h
@[simp] theorem heal_wf (m : Memory) (full : Bool) (pa n : Nat) : (m.heal full pa n).wf = m.wf := by simp [Memory.wf]
@[simp] theorem poisonSector_wf (m : Memory) (sec : Nat) : (m.poisonSector sec).wf = m.wf := rfl
@[simp] theorem gc_wf (m : Memory) : m.gc.wf = m.wf := rfl
@[simp] theorem sysStore_wf (m : Memory) (pa : Nat) (bs : List Byte) (h : m.wf = true) : (m.sysStore pa bs).wf = true := cellWrites_wf bs _ _ h
@[simp] theorem applyHome_wf (m : Memory) (die : Nat) (told : List Nat) (p : Packet) (h : m.wf = true) : (m.applyHome die told p).wf = true := by
  simp only [Memory.wf, applyHome_mem]
  exact cellWrites_wf _ _ _ h

@[simp] theorem applyOnly_mem (m : Memory) (p : Packet) : (m.applyOnly p).mem = cellWrites m.mem p.pa p.bytes := by simp [Memory.applyOnly]
@[simp] theorem applyOnly_wf (m : Memory) (p : Packet) (h : m.wf = true) : (m.applyOnly p).wf = true := by
  simp only [Memory.wf, applyOnly_mem]
  exact cellWrites_wf _ _ _ h

/-- Directories and marks stand beside the bytes. -/
@[simp] theorem setDir_mem (m : Memory) (line : Nat) (st : DirState) : (m.setDir line st).mem = m.mem := rfl
@[simp] theorem markApplied_mem (m : Memory) (d : Nat) (p : Packet) : (m.markApplied d p).mem = m.mem := rfl
@[simp] theorem markAll_mem (m : Memory) (id : Nat) : (m.markAll id).mem = m.mem := rfl
@[simp] theorem join_mem (m : Memory) (line d : Nat) : (m.join line d).mem = m.mem := by unfold Memory.join; split <;> rfl
@[simp] theorem leave_mem (m : Memory) (line d : Nat) : (m.leave line d).mem = m.mem := by
  unfold Memory.leave; split
  · rfl
  · split <;> rfl
  · rfl

theorem poisonLine_mem (m : Memory) (line : Nat) : (m.poisonLine line).mem = m.mem := by
  unfold Memory.poisonLine
  exact List.foldlRecOn (motive := fun (k : Memory) => k.mem = m.mem) _ _ rfl (fun k hk i _ => by simpa using hk)

/-! ## Scratch -/

theorem updFirst_all {α : Type} (p : α → Bool) (f : α → α) (q : α → Bool) (l : List α) (h : l.all q = true) (hf : ∀ x, q x = true → q (f x) = true) :
    (updFirst p f l).all q = true := by
  induction l with
  | nil => rfl
  | cons x xs ih =>
    simp only [List.all_cons, Bool.and_eq_true] at h
    simp only [updFirst]
    split
    · simp [hf x h.1, h.2]
    · simp [h.1, ih h.2]

/-- A change of one group that keeps its scratch canonical keeps all stores so. -/
theorem modGroup_canonical (s : State) (k : GroupKey) (f : Group → Group) (h : s.canonicalStores = true)
    (hf : ∀ g, cellsWf g.scratch = true → cellsWf (f g).scratch = true) : (s.modGroup k f).canonicalStores = true := by
  simp only [State.canonicalStores, Bool.and_eq_true] at *
  exact ⟨h.1, updFirst_all _ _ _ _ h.2 hf⟩

theorem modWarp_canonical (s : State) (k : WarpKey) (f : Warp → Warp) (h : s.canonicalStores = true) : (s.modWarp k f).canonicalStores = true :=
  modGroup_canonical s k.group _ h fun _ hg => hg

theorem scratchWrite_canonical (s : State) (k : GroupKey) (off : Nat) (bs : List Byte) (h : s.canonicalStores = true) :
    (s.scratchWrite k off bs).canonicalStores = true :=
  modGroup_canonical s k _ h fun _ hg => cellWrites_wf bs _ _ hg

/-- A change of device memory that keeps its form keeps all stores so. -/
theorem memory_canonical (s : State) (m : Memory) (h : s.canonicalStores = true) (hm : m.wf = true) :
    ({ s with memory := m } : State).canonicalStores = true := by
  simp only [State.canonicalStores, Bool.and_eq_true] at *
  exact ⟨hm, h.2⟩

end Sys2Proof.Machine
end

