-- ==== Sys2Proof/Laws/Ops.lean ====
section
/-! SUPPORT. Sys2Proof/Laws/Ops.lean: what the shared operations of an issue answer: the context, the coupling-queue gate, raising a cause, stalling,
writing x registers, and that they keep stores canonical. -/

namespace Sys2Proof.Machine

/-! ## The gang that issues -/

/-- A meaning under a known context is that context's. -/
theorem withCtx_some {s : State} {c : Ctx} (h : s.ctx? = some c) (f : Ctx → Host.Outcome State Fault Refusal) : withCtx s f = f c := by
  simp [withCtx, h]

/-- What a context says of the state it was read from. -/
theorem ctx_spec {s : State} {c : Ctx} (h : s.ctx? = some c) :
    s.cur = some c.iss ∧ s.group? c.iss.w.group = some c.grp ∧ c.grp.warp? c.iss.w = some c.warp ∧ s.warp? c.iss.w = some c.warp ∧
      c.slices = gangSlices c.st c.iss.gang ∧ c.free = s.free := by
  unfold State.ctx? at h
  split at h
  · cases h
  · rename_i i hi
    split at h
    · cases h
    · rename_i g hg
      split at h
      · cases h
      · rename_i w hw
        cases h
        exact ⟨hi, hg, hw, by simp [State.warp?, hg, hw], rfl, rfl⟩

theorem ctx_key {s : State} {c : Ctx} (h : s.ctx? = some c) : c.warp.key = c.iss.w ∧ c.grp.key = c.iss.w.group := by
  obtain ⟨-, hg, hw, -⟩ := ctx_spec h
  exact ⟨by simpa using List.find?_some hw, by simpa using List.find?_some hg⟩

/-! ## Gates -/

@[simp] theorem gated_go (c : Ctx) (s : State) (k : Host.Outcome State Fault Refusal) : c.gated s .go k = k := rfl
@[simp] theorem gated_stall (c : Ctx) (s : State) (q : Want) (k : Host.Outcome State Fault Refusal) :
    c.gated s (.stall q) k = .next (c.stallOn s q) := rfl
@[simp] theorem gated_dead (c : Ctx) (s : State) (qs : BitVec 3) (k : Host.Outcome State Fault Refusal) :
    c.gated s (.dead qs) k = c.trap s 0x24 qs.toNat := rfl

@[simp] theorem and_go (g : Gate) : g.and .go = g := by cases g <;> rfl
@[simp] theorem go_and (g : Gate) : Gate.go.and g = g := by cases g <;> rfl

/-! ## Raising a cause and stalling -/

/-- A warp with one cause more: its strand stops, and for 0x10 to 0x14 both do. -/
def Warp.raised (w : Warp) (st : Strand) (gang now : Nat) (r : Raised) : Warp :=
  let w2 := ({ w with pending := w.pending ++ [r] } : Warp).modStrand st fun t =>
    { t with stopped := true, walking := [], walk := [], midway := false, first := false, pops := t.pops.filter (·.1 != gang) }
  (if 0x10 ≤ r.code && r.code ≤ 0x14 then w2.modStrand (other st) fun t => { t with stopped := true } else w2).recount now

/-- Raising a cause changes the issuing warp and nothing else. -/
theorem raise_eq (c : Ctx) (s : State) (r : Raised) : c.raise s r = s.modWarp c.iss.w fun w => w.raised c.iss.strand c.iss.gang s.now r := rfl

@[simp] theorem raised_key (w : Warp) (st : Strand) (gang now : Nat) (r : Raised) : (w.raised st gang now r).key = w.key := by
  cases st <;> (unfold Warp.raised; dsimp only; split <;> rfl)
@[simp] theorem raised_pending (w : Warp) (st : Strand) (gang now : Nat) (r : Raised) : (w.raised st gang now r).pending = w.pending ++ [r] := by
  cases st <;> (unfold Warp.raised; dsimp only; split <;> rfl)
@[simp] theorem raised_lanes (w : Warp) (st : Strand) (gang now : Nat) (r : Raised) : (w.raised st gang now r).lanes = w.lanes := by
  cases st <;> (unfold Warp.raised; dsimp only; split <;> rfl)
@[simp] theorem raised_y (w : Warp) (st : Strand) (gang now : Nat) (r : Raised) : (w.raised st gang now r).y = w.y := by
  cases st <;> (unfold Warp.raised; dsimp only; split <;> rfl)
@[simp] theorem raised_m (w : Warp) (st : Strand) (gang now : Nat) (r : Raised) : (w.raised st gang now r).m = w.m := by
  cases st <;> (unfold Warp.raised; dsimp only; split <;> rfl)
@[simp] theorem raised_g (w : Warp) (st : Strand) (gang now : Nat) (r : Raised) : (w.raised st gang now r).g = w.g := by
  cases st <;> (unfold Warp.raised; dsimp only; split <;> rfl)
@[simp] theorem raised_accs (w : Warp) (st : Strand) (gang now : Nat) (r : Raised) : (w.raised st gang now r).accs = w.accs := by
  cases st <;> (unfold Warp.raised; dsimp only; split <;> rfl)
theorem raised_stopped (w : Warp) (st : Strand) (gang now : Nat) (r : Raised) : ((w.raised st gang now r).strand st).stopped = true := by
  cases st <;> (unfold Warp.raised; dsimp only; split <;> rfl)

/-- Raising a cause: every field but groups stays, the warp is as above, every other warp as before. -/
theorem raise_spec (c : Ctx) (s : State) (r : Raised) :
    { c.raise s r with groups := s.groups } = s ∧
    (∀ w, s.warp? c.iss.w = some w → (c.raise s r).warp? c.iss.w = some (w.raised c.iss.strand c.iss.gang s.now r)) ∧
    (∀ k, k ≠ c.iss.w → (c.raise s r).warp? k = s.warp? k) := by
  have key := warp_modWarp s c.iss.w (fun w => w.raised c.iss.strand c.iss.gang s.now r) fun w hw => by simpa using hw
  refine ⟨rfl, fun w hw => ?_, fun k hk => ?_⟩
  · rw [raise_eq, key]; simp [hw]
  · rw [raise_eq, key]; simp [hk]

theorem raise_canonical (c : Ctx) (s : State) (r : Raised) (h : s.canonicalStores = true) : (c.raise s r).canonicalStores = true :=
  modWarp_canonical s _ _ h

theorem stallOn_canonical (c : Ctx) (s : State) (q : Want) (h : s.canonicalStores = true) : (c.stallOn s q).canonicalStores = true :=
  modWarp_canonical s _ _ h

/-! ## A-strand registers -/

theorem opA_eq (c : Ctx) (ty : BitVec 3) (l : Nat) (r : BitVec 5) : c.opA ty l r = c.regA ty l r := by
  simp only [Ctx.opA, Ctx.regA, aWide, wideA, Ctx.xx, extA, aSigned, signedA]
  rfl

theorem extA_eq (ty : BitVec 3) (v : Word) : extA ty v = immA ty v := rfl

theorem aLess_eq (ty : BitVec 3) (a b : Word64) : aLess ty a b = lessA ty a b := by
  simp [aLess, lessA, aSigned, signedA, BitVec.slt, BitVec.ult]

/-- Writing xD or XD changes the executing lanes' registers and marks alone. -/
theorem writeA_spec (c : Ctx) (o : AddrOp) (w : Warp) :
    (∀ l : Nat, (c.writeA o.h o.ty o.xd o.val w).lanes[l]? = (w.lanes[l]?).map (c.addrAfter o l)) ∧
    { c.writeA o.h o.ty o.xd o.val w with lanes := w.lanes, busy := w.busy } = w := by
  unfold Ctx.writeA
  dsimp only
  obtain ⟨b, hb⟩ := unmark_eq
    (w.modLanes (c.exec o.h) fun l k => if aWide o.ty then k.setXX o.xd.toNat (o.val l) else k.setX o.xd.toNat ((o.val l).setWidth 32))
    (c.exec o.h) (fun loc => loc == .xreg o.xd.toNat || (aWide o.ty && loc == .xreg (o.xd.toNat + 1)))
  rw [hb]
  refine ⟨fun l => ?_, rfl⟩
  show (w.modLanes _ _).lanes[l]? = _
  simp only [modLanes_get]
  congr 1

end Sys2Proof.Machine
end

