-- ==== Sys2Proof/Laws/State.lean ====
section
/-! SUPPORT. Sys2Proof/Laws/State.lean: what each update of the state leaves in each field, so that no proof unfolds an update. -/

namespace Sys2Proof.Machine

/-! ## modGroup -/

@[simp] theorem State.modGroup_cores (s : State) (k : GroupKey) (f : Group → Group) : (s.modGroup k f).cores = s.cores := rfl
@[simp] theorem State.modGroup_dies (s : State) (k : GroupKey) (f : Group → Group) : (s.modGroup k f).dies = s.dies := rfl
@[simp] theorem State.modGroup_memory (s : State) (k : GroupKey) (f : Group → Group) : (s.modGroup k f).memory = s.memory := rfl
@[simp] theorem State.modGroup_domains (s : State) (k : GroupKey) (f : Group → Group) : (s.modGroup k f).domains = s.domains := rfl
@[simp] theorem State.modGroup_rings (s : State) (k : GroupKey) (f : Group → Group) : (s.modGroup k f).rings = s.rings := rfl
@[simp] theorem State.modGroup_flipOwner (s : State) (k : GroupKey) (f : Group → Group) : (s.modGroup k f).flipOwner = s.flipOwner := rfl
@[simp] theorem State.modGroup_windows (s : State) (k : GroupKey) (f : Group → Group) : (s.modGroup k f).windows = s.windows := rfl
@[simp] theorem State.modGroup_launches (s : State) (k : GroupKey) (f : Group → Group) : (s.modGroup k f).launches = s.launches := rfl
@[simp] theorem State.modGroup_nextSeq (s : State) (k : GroupKey) (f : Group → Group) : (s.modGroup k f).nextSeq = s.nextSeq := rfl
@[simp] theorem State.modGroup_parseCount (s : State) (k : GroupKey) (f : Group → Group) : (s.modGroup k f).parseCount = s.parseCount := rfl
@[simp] theorem State.modGroup_tasks (s : State) (k : GroupKey) (f : Group → Group) : (s.modGroup k f).tasks = s.tasks := rfl
@[simp] theorem State.modGroup_ready (s : State) (k : GroupKey) (f : Group → Group) : (s.modGroup k f).ready = s.ready := rfl
@[simp] theorem State.modGroup_areas (s : State) (k : GroupKey) (f : Group → Group) : (s.modGroup k f).areas = s.areas := rfl
@[simp] theorem State.modGroup_sliceUnits (s : State) (k : GroupKey) (f : Group → Group) : (s.modGroup k f).sliceUnits = s.sliceUnits := rfl
@[simp] theorem State.modGroup_copies (s : State) (k : GroupKey) (f : Group → Group) : (s.modGroup k f).copies = s.copies := rfl
@[simp] theorem State.modGroup_matOps (s : State) (k : GroupKey) (f : Group → Group) : (s.modGroup k f).matOps = s.matOps := rfl
@[simp] theorem State.modGroup_tables (s : State) (k : GroupKey) (f : Group → Group) : (s.modGroup k f).tables = s.tables := rfl
@[simp] theorem State.modGroup_ports (s : State) (k : GroupKey) (f : Group → Group) : (s.modGroup k f).ports = s.ports := rfl
@[simp] theorem State.modGroup_claims (s : State) (k : GroupKey) (f : Group → Group) : (s.modGroup k f).claims = s.claims := rfl
@[simp] theorem State.modGroup_returns (s : State) (k : GroupKey) (f : Group → Group) : (s.modGroup k f).returns = s.returns := rfl
@[simp] theorem State.modGroup_worklists (s : State) (k : GroupKey) (f : Group → Group) : (s.modGroup k f).worklists = s.worklists := rfl
@[simp] theorem State.modGroup_eops (s : State) (k : GroupKey) (f : Group → Group) : (s.modGroup k f).eops = s.eops := rfl
@[simp] theorem State.modGroup_transfers (s : State) (k : GroupKey) (f : Group → Group) : (s.modGroup k f).transfers = s.transfers := rfl
@[simp] theorem State.modGroup_channels (s : State) (k : GroupKey) (f : Group → Group) : (s.modGroup k f).channels = s.channels := rfl
@[simp] theorem State.modGroup_flips (s : State) (k : GroupKey) (f : Group → Group) : (s.modGroup k f).flips = s.flips := rfl
@[simp] theorem State.modGroup_faultRecs (s : State) (k : GroupKey) (f : Group → Group) : (s.modGroup k f).faultRecs = s.faultRecs := rfl
@[simp] theorem State.modGroup_rdmaWaits (s : State) (k : GroupKey) (f : Group → Group) : (s.modGroup k f).rdmaWaits = s.rdmaWaits := rfl
@[simp] theorem State.modGroup_module (s : State) (k : GroupKey) (f : Group → Group) : (s.modGroup k f).module = s.module := rfl
@[simp] theorem State.modGroup_now (s : State) (k : GroupKey) (f : Group → Group) : (s.modGroup k f).now = s.now := rfl
@[simp] theorem State.modGroup_out (s : State) (k : GroupKey) (f : Group → Group) : (s.modGroup k f).out = s.out := rfl
@[simp] theorem State.modGroup_nextId (s : State) (k : GroupKey) (f : Group → Group) : (s.modGroup k f).nextId = s.nextId := rfl
@[simp] theorem State.modGroup_free (s : State) (k : GroupKey) (f : Group → Group) : (s.modGroup k f).free = s.free := rfl
@[simp] theorem State.modGroup_steps (s : State) (k : GroupKey) (f : Group → Group) : (s.modGroup k f).steps = s.steps := rfl
@[simp] theorem State.modGroup_agenda (s : State) (k : GroupKey) (f : Group → Group) : (s.modGroup k f).agenda = s.agenda := rfl
@[simp] theorem State.modGroup_cur (s : State) (k : GroupKey) (f : Group → Group) : (s.modGroup k f).cur = s.cur := rfl
@[simp] theorem State.modGroup_groups (s : State) (k : GroupKey) (f : Group → Group) : (s.modGroup k f).groups = updFirst (·.key == k) f s.groups := rfl

/-! ## modWarp -/

@[simp] theorem State.modWarp_cores (s : State) (k : WarpKey) (f : Warp → Warp) : (s.modWarp k f).cores = s.cores := rfl
@[simp] theorem State.modWarp_dies (s : State) (k : WarpKey) (f : Warp → Warp) : (s.modWarp k f).dies = s.dies := rfl
@[simp] theorem State.modWarp_memory (s : State) (k : WarpKey) (f : Warp → Warp) : (s.modWarp k f).memory = s.memory := rfl
@[simp] theorem State.modWarp_domains (s : State) (k : WarpKey) (f : Warp → Warp) : (s.modWarp k f).domains = s.domains := rfl
@[simp] theorem State.modWarp_rings (s : State) (k : WarpKey) (f : Warp → Warp) : (s.modWarp k f).rings = s.rings := rfl
@[simp] theorem State.modWarp_flipOwner (s : State) (k : WarpKey) (f : Warp → Warp) : (s.modWarp k f).flipOwner = s.flipOwner := rfl
@[simp] theorem State.modWarp_windows (s : State) (k : WarpKey) (f : Warp → Warp) : (s.modWarp k f).windows = s.windows := rfl
@[simp] theorem State.modWarp_launches (s : State) (k : WarpKey) (f : Warp → Warp) : (s.modWarp k f).launches = s.launches := rfl
@[simp] theorem State.modWarp_nextSeq (s : State) (k : WarpKey) (f : Warp → Warp) : (s.modWarp k f).nextSeq = s.nextSeq := rfl
@[simp] theorem State.modWarp_parseCount (s : State) (k : WarpKey) (f : Warp → Warp) : (s.modWarp k f).parseCount = s.parseCount := rfl
@[simp] theorem State.modWarp_tasks (s : State) (k : WarpKey) (f : Warp → Warp) : (s.modWarp k f).tasks = s.tasks := rfl
@[simp] theorem State.modWarp_ready (s : State) (k : WarpKey) (f : Warp → Warp) : (s.modWarp k f).ready = s.ready := rfl
@[simp] theorem State.modWarp_areas (s : State) (k : WarpKey) (f : Warp → Warp) : (s.modWarp k f).areas = s.areas := rfl
@[simp] theorem State.modWarp_sliceUnits (s : State) (k : WarpKey) (f : Warp → Warp) : (s.modWarp k f).sliceUnits = s.sliceUnits := rfl
@[simp] theorem State.modWarp_copies (s : State) (k : WarpKey) (f : Warp → Warp) : (s.modWarp k f).copies = s.copies := rfl
@[simp] theorem State.modWarp_matOps (s : State) (k : WarpKey) (f : Warp → Warp) : (s.modWarp k f).matOps = s.matOps := rfl
@[simp] theorem State.modWarp_tables (s : State) (k : WarpKey) (f : Warp → Warp) : (s.modWarp k f).tables = s.tables := rfl
@[simp] theorem State.modWarp_ports (s : State) (k : WarpKey) (f : Warp → Warp) : (s.modWarp k f).ports = s.ports := rfl
@[simp] theorem State.modWarp_claims (s : State) (k : WarpKey) (f : Warp → Warp) : (s.modWarp k f).claims = s.claims := rfl
@[simp] theorem State.modWarp_returns (s : State) (k : WarpKey) (f : Warp → Warp) : (s.modWarp k f).returns = s.returns := rfl
@[simp] theorem State.modWarp_worklists (s : State) (k : WarpKey) (f : Warp → Warp) : (s.modWarp k f).worklists = s.worklists := rfl
@[simp] theorem State.modWarp_eops (s : State) (k : WarpKey) (f : Warp → Warp) : (s.modWarp k f).eops = s.eops := rfl
@[simp] theorem State.modWarp_transfers (s : State) (k : WarpKey) (f : Warp → Warp) : (s.modWarp k f).transfers = s.transfers := rfl
@[simp] theorem State.modWarp_channels (s : State) (k : WarpKey) (f : Warp → Warp) : (s.modWarp k f).channels = s.channels := rfl
@[simp] theorem State.modWarp_flips (s : State) (k : WarpKey) (f : Warp → Warp) : (s.modWarp k f).flips = s.flips := rfl
@[simp] theorem State.modWarp_faultRecs (s : State) (k : WarpKey) (f : Warp → Warp) : (s.modWarp k f).faultRecs = s.faultRecs := rfl
@[simp] theorem State.modWarp_rdmaWaits (s : State) (k : WarpKey) (f : Warp → Warp) : (s.modWarp k f).rdmaWaits = s.rdmaWaits := rfl
@[simp] theorem State.modWarp_module (s : State) (k : WarpKey) (f : Warp → Warp) : (s.modWarp k f).module = s.module := rfl
@[simp] theorem State.modWarp_now (s : State) (k : WarpKey) (f : Warp → Warp) : (s.modWarp k f).now = s.now := rfl
@[simp] theorem State.modWarp_out (s : State) (k : WarpKey) (f : Warp → Warp) : (s.modWarp k f).out = s.out := rfl
@[simp] theorem State.modWarp_nextId (s : State) (k : WarpKey) (f : Warp → Warp) : (s.modWarp k f).nextId = s.nextId := rfl
@[simp] theorem State.modWarp_free (s : State) (k : WarpKey) (f : Warp → Warp) : (s.modWarp k f).free = s.free := rfl
@[simp] theorem State.modWarp_steps (s : State) (k : WarpKey) (f : Warp → Warp) : (s.modWarp k f).steps = s.steps := rfl
@[simp] theorem State.modWarp_agenda (s : State) (k : WarpKey) (f : Warp → Warp) : (s.modWarp k f).agenda = s.agenda := rfl
@[simp] theorem State.modWarp_cur (s : State) (k : WarpKey) (f : Warp → Warp) : (s.modWarp k f).cur = s.cur := rfl

/-! ## scratchWrite -/

@[simp] theorem State.scratchWrite_cores (s : State) (k : GroupKey) (n : Nat) (bs : List Byte) : (s.scratchWrite k n bs).cores = s.cores := rfl
@[simp] theorem State.scratchWrite_dies (s : State) (k : GroupKey) (n : Nat) (bs : List Byte) : (s.scratchWrite k n bs).dies = s.dies := rfl
@[simp] theorem State.scratchWrite_memory (s : State) (k : GroupKey) (n : Nat) (bs : List Byte) : (s.scratchWrite k n bs).memory = s.memory := rfl
@[simp] theorem State.scratchWrite_domains (s : State) (k : GroupKey) (n : Nat) (bs : List Byte) : (s.scratchWrite k n bs).domains = s.domains := rfl
@[simp] theorem State.scratchWrite_rings (s : State) (k : GroupKey) (n : Nat) (bs : List Byte) : (s.scratchWrite k n bs).rings = s.rings := rfl
@[simp] theorem State.scratchWrite_flipOwner (s : State) (k : GroupKey) (n : Nat) (bs : List Byte) : (s.scratchWrite k n bs).flipOwner = s.flipOwner := rfl
@[simp] theorem State.scratchWrite_windows (s : State) (k : GroupKey) (n : Nat) (bs : List Byte) : (s.scratchWrite k n bs).windows = s.windows := rfl
@[simp] theorem State.scratchWrite_launches (s : State) (k : GroupKey) (n : Nat) (bs : List Byte) : (s.scratchWrite k n bs).launches = s.launches := rfl
@[simp] theorem State.scratchWrite_nextSeq (s : State) (k : GroupKey) (n : Nat) (bs : List Byte) : (s.scratchWrite k n bs).nextSeq = s.nextSeq := rfl
@[simp] theorem State.scratchWrite_parseCount (s : State) (k : GroupKey) (n : Nat) (bs : List Byte) : (s.scratchWrite k n bs).parseCount = s.parseCount := rfl
@[simp] theorem State.scratchWrite_tasks (s : State) (k : GroupKey) (n : Nat) (bs : List Byte) : (s.scratchWrite k n bs).tasks = s.tasks := rfl
@[simp] theorem State.scratchWrite_ready (s : State) (k : GroupKey) (n : Nat) (bs : List Byte) : (s.scratchWrite k n bs).ready = s.ready := rfl
@[simp] theorem State.scratchWrite_areas (s : State) (k : GroupKey) (n : Nat) (bs : List Byte) : (s.scratchWrite k n bs).areas = s.areas := rfl
@[simp] theorem State.scratchWrite_sliceUnits (s : State) (k : GroupKey) (n : Nat) (bs : List Byte) : (s.scratchWrite k n bs).sliceUnits = s.sliceUnits := rfl
@[simp] theorem State.scratchWrite_copies (s : State) (k : GroupKey) (n : Nat) (bs : List Byte) : (s.scratchWrite k n bs).copies = s.copies := rfl
theorem State.scratchWrite_matOps (s : State) (k : GroupKey) (n : Nat) (bs : List Byte) : (s.scratchWrite k n bs).matOps = s.matOps.map fun m =>
    if m.w.group == k then m.note ((s.scratchWrite k n bs).scratchRead k) n bs.length else m := rfl
@[simp] theorem State.scratchWrite_tables (s : State) (k : GroupKey) (n : Nat) (bs : List Byte) : (s.scratchWrite k n bs).tables = s.tables := rfl
@[simp] theorem State.scratchWrite_ports (s : State) (k : GroupKey) (n : Nat) (bs : List Byte) : (s.scratchWrite k n bs).ports = s.ports := rfl
@[simp] theorem State.scratchWrite_claims (s : State) (k : GroupKey) (n : Nat) (bs : List Byte) : (s.scratchWrite k n bs).claims = s.claims := rfl
@[simp] theorem State.scratchWrite_returns (s : State) (k : GroupKey) (n : Nat) (bs : List Byte) : (s.scratchWrite k n bs).returns = s.returns := rfl
@[simp] theorem State.scratchWrite_worklists (s : State) (k : GroupKey) (n : Nat) (bs : List Byte) : (s.scratchWrite k n bs).worklists = s.worklists := rfl
@[simp] theorem State.scratchWrite_eops (s : State) (k : GroupKey) (n : Nat) (bs : List Byte) : (s.scratchWrite k n bs).eops = s.eops := rfl
@[simp] theorem State.scratchWrite_transfers (s : State) (k : GroupKey) (n : Nat) (bs : List Byte) : (s.scratchWrite k n bs).transfers = s.transfers := rfl
@[simp] theorem State.scratchWrite_channels (s : State) (k : GroupKey) (n : Nat) (bs : List Byte) : (s.scratchWrite k n bs).channels = s.channels := rfl
@[simp] theorem State.scratchWrite_flips (s : State) (k : GroupKey) (n : Nat) (bs : List Byte) : (s.scratchWrite k n bs).flips = s.flips := rfl
@[simp] theorem State.scratchWrite_faultRecs (s : State) (k : GroupKey) (n : Nat) (bs : List Byte) : (s.scratchWrite k n bs).faultRecs = s.faultRecs := rfl
@[simp] theorem State.scratchWrite_rdmaWaits (s : State) (k : GroupKey) (n : Nat) (bs : List Byte) : (s.scratchWrite k n bs).rdmaWaits = s.rdmaWaits := rfl
@[simp] theorem State.scratchWrite_module (s : State) (k : GroupKey) (n : Nat) (bs : List Byte) : (s.scratchWrite k n bs).module = s.module := rfl
@[simp] theorem State.scratchWrite_now (s : State) (k : GroupKey) (n : Nat) (bs : List Byte) : (s.scratchWrite k n bs).now = s.now := rfl
@[simp] theorem State.scratchWrite_out (s : State) (k : GroupKey) (n : Nat) (bs : List Byte) : (s.scratchWrite k n bs).out = s.out := rfl
@[simp] theorem State.scratchWrite_nextId (s : State) (k : GroupKey) (n : Nat) (bs : List Byte) : (s.scratchWrite k n bs).nextId = s.nextId := rfl
@[simp] theorem State.scratchWrite_free (s : State) (k : GroupKey) (n : Nat) (bs : List Byte) : (s.scratchWrite k n bs).free = s.free := rfl
@[simp] theorem State.scratchWrite_steps (s : State) (k : GroupKey) (n : Nat) (bs : List Byte) : (s.scratchWrite k n bs).steps = s.steps := rfl
@[simp] theorem State.scratchWrite_agenda (s : State) (k : GroupKey) (n : Nat) (bs : List Byte) : (s.scratchWrite k n bs).agenda = s.agenda := rfl
@[simp] theorem State.scratchWrite_cur (s : State) (k : GroupKey) (n : Nat) (bs : List Byte) : (s.scratchWrite k n bs).cur = s.cur := rfl

/-! ## setCore -/

@[simp] theorem State.setCore_groups (s : State) (k : CoreSt) : (s.setCore k).groups = s.groups := rfl
@[simp] theorem State.setCore_dies (s : State) (k : CoreSt) : (s.setCore k).dies = s.dies := rfl
@[simp] theorem State.setCore_memory (s : State) (k : CoreSt) : (s.setCore k).memory = s.memory := rfl
@[simp] theorem State.setCore_domains (s : State) (k : CoreSt) : (s.setCore k).domains = s.domains := rfl
@[simp] theorem State.setCore_rings (s : State) (k : CoreSt) : (s.setCore k).rings = s.rings := rfl
@[simp] theorem State.setCore_flipOwner (s : State) (k : CoreSt) : (s.setCore k).flipOwner = s.flipOwner := rfl
@[simp] theorem State.setCore_windows (s : State) (k : CoreSt) : (s.setCore k).windows = s.windows := rfl
@[simp] theorem State.setCore_launches (s : State) (k : CoreSt) : (s.setCore k).launches = s.launches := rfl
@[simp] theorem State.setCore_nextSeq (s : State) (k : CoreSt) : (s.setCore k).nextSeq = s.nextSeq := rfl
@[simp] theorem State.setCore_parseCount (s : State) (k : CoreSt) : (s.setCore k).parseCount = s.parseCount := rfl
@[simp] theorem State.setCore_tasks (s : State) (k : CoreSt) : (s.setCore k).tasks = s.tasks := rfl
@[simp] theorem State.setCore_ready (s : State) (k : CoreSt) : (s.setCore k).ready = s.ready := rfl
@[simp] theorem State.setCore_areas (s : State) (k : CoreSt) : (s.setCore k).areas = s.areas := rfl
@[simp] theorem State.setCore_sliceUnits (s : State) (k : CoreSt) : (s.setCore k).sliceUnits = s.sliceUnits := rfl
@[simp] theorem State.setCore_copies (s : State) (k : CoreSt) : (s.setCore k).copies = s.copies := rfl
@[simp] theorem State.setCore_matOps (s : State) (k : CoreSt) : (s.setCore k).matOps = s.matOps := rfl
@[simp] theorem State.setCore_tables (s : State) (k : CoreSt) : (s.setCore k).tables = s.tables := rfl
@[simp] theorem State.setCore_ports (s : State) (k : CoreSt) : (s.setCore k).ports = s.ports := rfl
@[simp] theorem State.setCore_claims (s : State) (k : CoreSt) : (s.setCore k).claims = s.claims := rfl
@[simp] theorem State.setCore_returns (s : State) (k : CoreSt) : (s.setCore k).returns = s.returns := rfl
@[simp] theorem State.setCore_worklists (s : State) (k : CoreSt) : (s.setCore k).worklists = s.worklists := rfl
@[simp] theorem State.setCore_eops (s : State) (k : CoreSt) : (s.setCore k).eops = s.eops := rfl
@[simp] theorem State.setCore_transfers (s : State) (k : CoreSt) : (s.setCore k).transfers = s.transfers := rfl
@[simp] theorem State.setCore_channels (s : State) (k : CoreSt) : (s.setCore k).channels = s.channels := rfl
@[simp] theorem State.setCore_flips (s : State) (k : CoreSt) : (s.setCore k).flips = s.flips := rfl
@[simp] theorem State.setCore_faultRecs (s : State) (k : CoreSt) : (s.setCore k).faultRecs = s.faultRecs := rfl
@[simp] theorem State.setCore_rdmaWaits (s : State) (k : CoreSt) : (s.setCore k).rdmaWaits = s.rdmaWaits := rfl
@[simp] theorem State.setCore_module (s : State) (k : CoreSt) : (s.setCore k).module = s.module := rfl
@[simp] theorem State.setCore_now (s : State) (k : CoreSt) : (s.setCore k).now = s.now := rfl
@[simp] theorem State.setCore_out (s : State) (k : CoreSt) : (s.setCore k).out = s.out := rfl
@[simp] theorem State.setCore_nextId (s : State) (k : CoreSt) : (s.setCore k).nextId = s.nextId := rfl
@[simp] theorem State.setCore_free (s : State) (k : CoreSt) : (s.setCore k).free = s.free := rfl
@[simp] theorem State.setCore_steps (s : State) (k : CoreSt) : (s.setCore k).steps = s.steps := rfl
@[simp] theorem State.setCore_agenda (s : State) (k : CoreSt) : (s.setCore k).agenda = s.agenda := rfl
@[simp] theorem State.setCore_cur (s : State) (k : CoreSt) : (s.setCore k).cur = s.cur := rfl

/-! ## modCore -/

@[simp] theorem State.modCore_groups (s : State) (d n : Nat) (f : CoreSt → CoreSt) : (s.modCore d n f).groups = s.groups := rfl
@[simp] theorem State.modCore_dies (s : State) (d n : Nat) (f : CoreSt → CoreSt) : (s.modCore d n f).dies = s.dies := rfl
@[simp] theorem State.modCore_memory (s : State) (d n : Nat) (f : CoreSt → CoreSt) : (s.modCore d n f).memory = s.memory := rfl
@[simp] theorem State.modCore_domains (s : State) (d n : Nat) (f : CoreSt → CoreSt) : (s.modCore d n f).domains = s.domains := rfl
@[simp] theorem State.modCore_rings (s : State) (d n : Nat) (f : CoreSt → CoreSt) : (s.modCore d n f).rings = s.rings := rfl
@[simp] theorem State.modCore_flipOwner (s : State) (d n : Nat) (f : CoreSt → CoreSt) : (s.modCore d n f).flipOwner = s.flipOwner := rfl
@[simp] theorem State.modCore_windows (s : State) (d n : Nat) (f : CoreSt → CoreSt) : (s.modCore d n f).windows = s.windows := rfl
@[simp] theorem State.modCore_launches (s : State) (d n : Nat) (f : CoreSt → CoreSt) : (s.modCore d n f).launches = s.launches := rfl
@[simp] theorem State.modCore_nextSeq (s : State) (d n : Nat) (f : CoreSt → CoreSt) : (s.modCore d n f).nextSeq = s.nextSeq := rfl
@[simp] theorem State.modCore_parseCount (s : State) (d n : Nat) (f : CoreSt → CoreSt) : (s.modCore d n f).parseCount = s.parseCount := rfl
@[simp] theorem State.modCore_tasks (s : State) (d n : Nat) (f : CoreSt → CoreSt) : (s.modCore d n f).tasks = s.tasks := rfl
@[simp] theorem State.modCore_ready (s : State) (d n : Nat) (f : CoreSt → CoreSt) : (s.modCore d n f).ready = s.ready := rfl
@[simp] theorem State.modCore_areas (s : State) (d n : Nat) (f : CoreSt → CoreSt) : (s.modCore d n f).areas = s.areas := rfl
@[simp] theorem State.modCore_sliceUnits (s : State) (d n : Nat) (f : CoreSt → CoreSt) : (s.modCore d n f).sliceUnits = s.sliceUnits := rfl
@[simp] theorem State.modCore_copies (s : State) (d n : Nat) (f : CoreSt → CoreSt) : (s.modCore d n f).copies = s.copies := rfl
@[simp] theorem State.modCore_matOps (s : State) (d n : Nat) (f : CoreSt → CoreSt) : (s.modCore d n f).matOps = s.matOps := rfl
@[simp] theorem State.modCore_tables (s : State) (d n : Nat) (f : CoreSt → CoreSt) : (s.modCore d n f).tables = s.tables := rfl
@[simp] theorem State.modCore_ports (s : State) (d n : Nat) (f : CoreSt → CoreSt) : (s.modCore d n f).ports = s.ports := rfl
@[simp] theorem State.modCore_claims (s : State) (d n : Nat) (f : CoreSt → CoreSt) : (s.modCore d n f).claims = s.claims := rfl
@[simp] theorem State.modCore_returns (s : State) (d n : Nat) (f : CoreSt → CoreSt) : (s.modCore d n f).returns = s.returns := rfl
@[simp] theorem State.modCore_worklists (s : State) (d n : Nat) (f : CoreSt → CoreSt) : (s.modCore d n f).worklists = s.worklists := rfl
@[simp] theorem State.modCore_eops (s : State) (d n : Nat) (f : CoreSt → CoreSt) : (s.modCore d n f).eops = s.eops := rfl
@[simp] theorem State.modCore_transfers (s : State) (d n : Nat) (f : CoreSt → CoreSt) : (s.modCore d n f).transfers = s.transfers := rfl
@[simp] theorem State.modCore_channels (s : State) (d n : Nat) (f : CoreSt → CoreSt) : (s.modCore d n f).channels = s.channels := rfl
@[simp] theorem State.modCore_flips (s : State) (d n : Nat) (f : CoreSt → CoreSt) : (s.modCore d n f).flips = s.flips := rfl
@[simp] theorem State.modCore_faultRecs (s : State) (d n : Nat) (f : CoreSt → CoreSt) : (s.modCore d n f).faultRecs = s.faultRecs := rfl
@[simp] theorem State.modCore_rdmaWaits (s : State) (d n : Nat) (f : CoreSt → CoreSt) : (s.modCore d n f).rdmaWaits = s.rdmaWaits := rfl
@[simp] theorem State.modCore_module (s : State) (d n : Nat) (f : CoreSt → CoreSt) : (s.modCore d n f).module = s.module := rfl
@[simp] theorem State.modCore_now (s : State) (d n : Nat) (f : CoreSt → CoreSt) : (s.modCore d n f).now = s.now := rfl
@[simp] theorem State.modCore_out (s : State) (d n : Nat) (f : CoreSt → CoreSt) : (s.modCore d n f).out = s.out := rfl
@[simp] theorem State.modCore_nextId (s : State) (d n : Nat) (f : CoreSt → CoreSt) : (s.modCore d n f).nextId = s.nextId := rfl
@[simp] theorem State.modCore_free (s : State) (d n : Nat) (f : CoreSt → CoreSt) : (s.modCore d n f).free = s.free := rfl
@[simp] theorem State.modCore_steps (s : State) (d n : Nat) (f : CoreSt → CoreSt) : (s.modCore d n f).steps = s.steps := rfl
@[simp] theorem State.modCore_agenda (s : State) (d n : Nat) (f : CoreSt → CoreSt) : (s.modCore d n f).agenda = s.agenda := rfl
@[simp] theorem State.modCore_cur (s : State) (d n : Nat) (f : CoreSt → CoreSt) : (s.modCore d n f).cur = s.cur := rfl

/-! ## setDie -/

@[simp] theorem State.setDie_groups (s : State) (d : DieSt) : (s.setDie d).groups = s.groups := rfl
@[simp] theorem State.setDie_cores (s : State) (d : DieSt) : (s.setDie d).cores = s.cores := rfl
@[simp] theorem State.setDie_memory (s : State) (d : DieSt) : (s.setDie d).memory = s.memory := rfl
@[simp] theorem State.setDie_domains (s : State) (d : DieSt) : (s.setDie d).domains = s.domains := rfl
@[simp] theorem State.setDie_rings (s : State) (d : DieSt) : (s.setDie d).rings = s.rings := rfl
@[simp] theorem State.setDie_flipOwner (s : State) (d : DieSt) : (s.setDie d).flipOwner = s.flipOwner := rfl
@[simp] theorem State.setDie_windows (s : State) (d : DieSt) : (s.setDie d).windows = s.windows := rfl
@[simp] theorem State.setDie_launches (s : State) (d : DieSt) : (s.setDie d).launches = s.launches := rfl
@[simp] theorem State.setDie_nextSeq (s : State) (d : DieSt) : (s.setDie d).nextSeq = s.nextSeq := rfl
@[simp] theorem State.setDie_parseCount (s : State) (d : DieSt) : (s.setDie d).parseCount = s.parseCount := rfl
@[simp] theorem State.setDie_tasks (s : State) (d : DieSt) : (s.setDie d).tasks = s.tasks := rfl
@[simp] theorem State.setDie_ready (s : State) (d : DieSt) : (s.setDie d).ready = s.ready := rfl
@[simp] theorem State.setDie_areas (s : State) (d : DieSt) : (s.setDie d).areas = s.areas := rfl
@[simp] theorem State.setDie_sliceUnits (s : State) (d : DieSt) : (s.setDie d).sliceUnits = s.sliceUnits := rfl
@[simp] theorem State.setDie_copies (s : State) (d : DieSt) : (s.setDie d).copies = s.copies := rfl
@[simp] theorem State.setDie_matOps (s : State) (d : DieSt) : (s.setDie d).matOps = s.matOps := rfl
@[simp] theorem State.setDie_tables (s : State) (d : DieSt) : (s.setDie d).tables = s.tables := rfl
@[simp] theorem State.setDie_ports (s : State) (d : DieSt) : (s.setDie d).ports = s.ports := rfl
@[simp] theorem State.setDie_claims (s : State) (d : DieSt) : (s.setDie d).claims = s.claims := rfl
@[simp] theorem State.setDie_returns (s : State) (d : DieSt) : (s.setDie d).returns = s.returns := rfl
@[simp] theorem State.setDie_worklists (s : State) (d : DieSt) : (s.setDie d).worklists = s.worklists := rfl
@[simp] theorem State.setDie_eops (s : State) (d : DieSt) : (s.setDie d).eops = s.eops := rfl
@[simp] theorem State.setDie_transfers (s : State) (d : DieSt) : (s.setDie d).transfers = s.transfers := rfl
@[simp] theorem State.setDie_channels (s : State) (d : DieSt) : (s.setDie d).channels = s.channels := rfl
@[simp] theorem State.setDie_flips (s : State) (d : DieSt) : (s.setDie d).flips = s.flips := rfl
@[simp] theorem State.setDie_faultRecs (s : State) (d : DieSt) : (s.setDie d).faultRecs = s.faultRecs := rfl
@[simp] theorem State.setDie_rdmaWaits (s : State) (d : DieSt) : (s.setDie d).rdmaWaits = s.rdmaWaits := rfl
@[simp] theorem State.setDie_module (s : State) (d : DieSt) : (s.setDie d).module = s.module := rfl
@[simp] theorem State.setDie_now (s : State) (d : DieSt) : (s.setDie d).now = s.now := rfl
@[simp] theorem State.setDie_out (s : State) (d : DieSt) : (s.setDie d).out = s.out := rfl
@[simp] theorem State.setDie_nextId (s : State) (d : DieSt) : (s.setDie d).nextId = s.nextId := rfl
@[simp] theorem State.setDie_free (s : State) (d : DieSt) : (s.setDie d).free = s.free := rfl
@[simp] theorem State.setDie_steps (s : State) (d : DieSt) : (s.setDie d).steps = s.steps := rfl
@[simp] theorem State.setDie_agenda (s : State) (d : DieSt) : (s.setDie d).agenda = s.agenda := rfl
@[simp] theorem State.setDie_cur (s : State) (d : DieSt) : (s.setDie d).cur = s.cur := rfl

/-! ## modDie -/

@[simp] theorem State.modDie_groups (s : State) (n : Nat) (f : DieSt → DieSt) : (s.modDie n f).groups = s.groups := rfl
@[simp] theorem State.modDie_cores (s : State) (n : Nat) (f : DieSt → DieSt) : (s.modDie n f).cores = s.cores := rfl
@[simp] theorem State.modDie_memory (s : State) (n : Nat) (f : DieSt → DieSt) : (s.modDie n f).memory = s.memory := rfl
@[simp] theorem State.modDie_domains (s : State) (n : Nat) (f : DieSt → DieSt) : (s.modDie n f).domains = s.domains := rfl
@[simp] theorem State.modDie_rings (s : State) (n : Nat) (f : DieSt → DieSt) : (s.modDie n f).rings = s.rings := rfl
@[simp] theorem State.modDie_flipOwner (s : State) (n : Nat) (f : DieSt → DieSt) : (s.modDie n f).flipOwner = s.flipOwner := rfl
@[simp] theorem State.modDie_windows (s : State) (n : Nat) (f : DieSt → DieSt) : (s.modDie n f).windows = s.windows := rfl
@[simp] theorem State.modDie_launches (s : State) (n : Nat) (f : DieSt → DieSt) : (s.modDie n f).launches = s.launches := rfl
@[simp] theorem State.modDie_nextSeq (s : State) (n : Nat) (f : DieSt → DieSt) : (s.modDie n f).nextSeq = s.nextSeq := rfl
@[simp] theorem State.modDie_parseCount (s : State) (n : Nat) (f : DieSt → DieSt) : (s.modDie n f).parseCount = s.parseCount := rfl
@[simp] theorem State.modDie_tasks (s : State) (n : Nat) (f : DieSt → DieSt) : (s.modDie n f).tasks = s.tasks := rfl
@[simp] theorem State.modDie_ready (s : State) (n : Nat) (f : DieSt → DieSt) : (s.modDie n f).ready = s.ready := rfl
@[simp] theorem State.modDie_areas (s : State) (n : Nat) (f : DieSt → DieSt) : (s.modDie n f).areas = s.areas := rfl
@[simp] theorem State.modDie_sliceUnits (s : State) (n : Nat) (f : DieSt → DieSt) : (s.modDie n f).sliceUnits = s.sliceUnits := rfl
@[simp] theorem State.modDie_copies (s : State) (n : Nat) (f : DieSt → DieSt) : (s.modDie n f).copies = s.copies := rfl
@[simp] theorem State.modDie_matOps (s : State) (n : Nat) (f : DieSt → DieSt) : (s.modDie n f).matOps = s.matOps := rfl
@[simp] theorem State.modDie_tables (s : State) (n : Nat) (f : DieSt → DieSt) : (s.modDie n f).tables = s.tables := rfl
@[simp] theorem State.modDie_ports (s : State) (n : Nat) (f : DieSt → DieSt) : (s.modDie n f).ports = s.ports := rfl
@[simp] theorem State.modDie_claims (s : State) (n : Nat) (f : DieSt → DieSt) : (s.modDie n f).claims = s.claims := rfl
@[simp] theorem State.modDie_returns (s : State) (n : Nat) (f : DieSt → DieSt) : (s.modDie n f).returns = s.returns := rfl
@[simp] theorem State.modDie_worklists (s : State) (n : Nat) (f : DieSt → DieSt) : (s.modDie n f).worklists = s.worklists := rfl
@[simp] theorem State.modDie_eops (s : State) (n : Nat) (f : DieSt → DieSt) : (s.modDie n f).eops = s.eops := rfl
@[simp] theorem State.modDie_transfers (s : State) (n : Nat) (f : DieSt → DieSt) : (s.modDie n f).transfers = s.transfers := rfl
@[simp] theorem State.modDie_channels (s : State) (n : Nat) (f : DieSt → DieSt) : (s.modDie n f).channels = s.channels := rfl
@[simp] theorem State.modDie_flips (s : State) (n : Nat) (f : DieSt → DieSt) : (s.modDie n f).flips = s.flips := rfl
@[simp] theorem State.modDie_faultRecs (s : State) (n : Nat) (f : DieSt → DieSt) : (s.modDie n f).faultRecs = s.faultRecs := rfl
@[simp] theorem State.modDie_rdmaWaits (s : State) (n : Nat) (f : DieSt → DieSt) : (s.modDie n f).rdmaWaits = s.rdmaWaits := rfl
@[simp] theorem State.modDie_module (s : State) (n : Nat) (f : DieSt → DieSt) : (s.modDie n f).module = s.module := rfl
@[simp] theorem State.modDie_now (s : State) (n : Nat) (f : DieSt → DieSt) : (s.modDie n f).now = s.now := rfl
@[simp] theorem State.modDie_out (s : State) (n : Nat) (f : DieSt → DieSt) : (s.modDie n f).out = s.out := rfl
@[simp] theorem State.modDie_nextId (s : State) (n : Nat) (f : DieSt → DieSt) : (s.modDie n f).nextId = s.nextId := rfl
@[simp] theorem State.modDie_free (s : State) (n : Nat) (f : DieSt → DieSt) : (s.modDie n f).free = s.free := rfl
@[simp] theorem State.modDie_steps (s : State) (n : Nat) (f : DieSt → DieSt) : (s.modDie n f).steps = s.steps := rfl
@[simp] theorem State.modDie_agenda (s : State) (n : Nat) (f : DieSt → DieSt) : (s.modDie n f).agenda = s.agenda := rfl
@[simp] theorem State.modDie_cur (s : State) (n : Nat) (f : DieSt → DieSt) : (s.modDie n f).cur = s.cur := rfl

/-! ## modDomain -/

@[simp] theorem State.modDomain_groups (s : State) (n : Nat) (f : Domain → Domain) : (s.modDomain n f).groups = s.groups := rfl
@[simp] theorem State.modDomain_cores (s : State) (n : Nat) (f : Domain → Domain) : (s.modDomain n f).cores = s.cores := rfl
@[simp] theorem State.modDomain_dies (s : State) (n : Nat) (f : Domain → Domain) : (s.modDomain n f).dies = s.dies := rfl
@[simp] theorem State.modDomain_memory (s : State) (n : Nat) (f : Domain → Domain) : (s.modDomain n f).memory = s.memory := rfl
@[simp] theorem State.modDomain_rings (s : State) (n : Nat) (f : Domain → Domain) : (s.modDomain n f).rings = s.rings := rfl
@[simp] theorem State.modDomain_flipOwner (s : State) (n : Nat) (f : Domain → Domain) : (s.modDomain n f).flipOwner = s.flipOwner := rfl
@[simp] theorem State.modDomain_windows (s : State) (n : Nat) (f : Domain → Domain) : (s.modDomain n f).windows = s.windows := rfl
@[simp] theorem State.modDomain_launches (s : State) (n : Nat) (f : Domain → Domain) : (s.modDomain n f).launches = s.launches := rfl
@[simp] theorem State.modDomain_nextSeq (s : State) (n : Nat) (f : Domain → Domain) : (s.modDomain n f).nextSeq = s.nextSeq := rfl
@[simp] theorem State.modDomain_parseCount (s : State) (n : Nat) (f : Domain → Domain) : (s.modDomain n f).parseCount = s.parseCount := rfl
@[simp] theorem State.modDomain_tasks (s : State) (n : Nat) (f : Domain → Domain) : (s.modDomain n f).tasks = s.tasks := rfl
@[simp] theorem State.modDomain_ready (s : State) (n : Nat) (f : Domain → Domain) : (s.modDomain n f).ready = s.ready := rfl
@[simp] theorem State.modDomain_areas (s : State) (n : Nat) (f : Domain → Domain) : (s.modDomain n f).areas = s.areas := rfl
@[simp] theorem State.modDomain_sliceUnits (s : State) (n : Nat) (f : Domain → Domain) : (s.modDomain n f).sliceUnits = s.sliceUnits := rfl
@[simp] theorem State.modDomain_copies (s : State) (n : Nat) (f : Domain → Domain) : (s.modDomain n f).copies = s.copies := rfl
@[simp] theorem State.modDomain_matOps (s : State) (n : Nat) (f : Domain → Domain) : (s.modDomain n f).matOps = s.matOps := rfl
@[simp] theorem State.modDomain_tables (s : State) (n : Nat) (f : Domain → Domain) : (s.modDomain n f).tables = s.tables := rfl
@[simp] theorem State.modDomain_ports (s : State) (n : Nat) (f : Domain → Domain) : (s.modDomain n f).ports = s.ports := rfl
@[simp] theorem State.modDomain_claims (s : State) (n : Nat) (f : Domain → Domain) : (s.modDomain n f).claims = s.claims := rfl
@[simp] theorem State.modDomain_returns (s : State) (n : Nat) (f : Domain → Domain) : (s.modDomain n f).returns = s.returns := rfl
@[simp] theorem State.modDomain_worklists (s : State) (n : Nat) (f : Domain → Domain) : (s.modDomain n f).worklists = s.worklists := rfl
@[simp] theorem State.modDomain_eops (s : State) (n : Nat) (f : Domain → Domain) : (s.modDomain n f).eops = s.eops := rfl
@[simp] theorem State.modDomain_transfers (s : State) (n : Nat) (f : Domain → Domain) : (s.modDomain n f).transfers = s.transfers := rfl
@[simp] theorem State.modDomain_channels (s : State) (n : Nat) (f : Domain → Domain) : (s.modDomain n f).channels = s.channels := rfl
@[simp] theorem State.modDomain_flips (s : State) (n : Nat) (f : Domain → Domain) : (s.modDomain n f).flips = s.flips := rfl
@[simp] theorem State.modDomain_faultRecs (s : State) (n : Nat) (f : Domain → Domain) : (s.modDomain n f).faultRecs = s.faultRecs := rfl
@[simp] theorem State.modDomain_rdmaWaits (s : State) (n : Nat) (f : Domain → Domain) : (s.modDomain n f).rdmaWaits = s.rdmaWaits := rfl
@[simp] theorem State.modDomain_module (s : State) (n : Nat) (f : Domain → Domain) : (s.modDomain n f).module = s.module := rfl
@[simp] theorem State.modDomain_now (s : State) (n : Nat) (f : Domain → Domain) : (s.modDomain n f).now = s.now := rfl
@[simp] theorem State.modDomain_out (s : State) (n : Nat) (f : Domain → Domain) : (s.modDomain n f).out = s.out := rfl
@[simp] theorem State.modDomain_nextId (s : State) (n : Nat) (f : Domain → Domain) : (s.modDomain n f).nextId = s.nextId := rfl
@[simp] theorem State.modDomain_free (s : State) (n : Nat) (f : Domain → Domain) : (s.modDomain n f).free = s.free := rfl
@[simp] theorem State.modDomain_steps (s : State) (n : Nat) (f : Domain → Domain) : (s.modDomain n f).steps = s.steps := rfl
@[simp] theorem State.modDomain_agenda (s : State) (n : Nat) (f : Domain → Domain) : (s.modDomain n f).agenda = s.agenda := rfl
@[simp] theorem State.modDomain_cur (s : State) (n : Nat) (f : Domain → Domain) : (s.modDomain n f).cur = s.cur := rfl

/-! ## modWindow -/

@[simp] theorem State.modWindow_groups (s : State) (n : Nat) (f : Window → Window) : (s.modWindow n f).groups = s.groups := rfl
@[simp] theorem State.modWindow_cores (s : State) (n : Nat) (f : Window → Window) : (s.modWindow n f).cores = s.cores := rfl
@[simp] theorem State.modWindow_dies (s : State) (n : Nat) (f : Window → Window) : (s.modWindow n f).dies = s.dies := rfl
@[simp] theorem State.modWindow_memory (s : State) (n : Nat) (f : Window → Window) : (s.modWindow n f).memory = s.memory := rfl
@[simp] theorem State.modWindow_domains (s : State) (n : Nat) (f : Window → Window) : (s.modWindow n f).domains = s.domains := rfl
@[simp] theorem State.modWindow_rings (s : State) (n : Nat) (f : Window → Window) : (s.modWindow n f).rings = s.rings := rfl
@[simp] theorem State.modWindow_flipOwner (s : State) (n : Nat) (f : Window → Window) : (s.modWindow n f).flipOwner = s.flipOwner := rfl
@[simp] theorem State.modWindow_launches (s : State) (n : Nat) (f : Window → Window) : (s.modWindow n f).launches = s.launches := rfl
@[simp] theorem State.modWindow_nextSeq (s : State) (n : Nat) (f : Window → Window) : (s.modWindow n f).nextSeq = s.nextSeq := rfl
@[simp] theorem State.modWindow_parseCount (s : State) (n : Nat) (f : Window → Window) : (s.modWindow n f).parseCount = s.parseCount := rfl
@[simp] theorem State.modWindow_tasks (s : State) (n : Nat) (f : Window → Window) : (s.modWindow n f).tasks = s.tasks := rfl
@[simp] theorem State.modWindow_ready (s : State) (n : Nat) (f : Window → Window) : (s.modWindow n f).ready = s.ready := rfl
@[simp] theorem State.modWindow_areas (s : State) (n : Nat) (f : Window → Window) : (s.modWindow n f).areas = s.areas := rfl
@[simp] theorem State.modWindow_sliceUnits (s : State) (n : Nat) (f : Window → Window) : (s.modWindow n f).sliceUnits = s.sliceUnits := rfl
@[simp] theorem State.modWindow_copies (s : State) (n : Nat) (f : Window → Window) : (s.modWindow n f).copies = s.copies := rfl
@[simp] theorem State.modWindow_matOps (s : State) (n : Nat) (f : Window → Window) : (s.modWindow n f).matOps = s.matOps := rfl
@[simp] theorem State.modWindow_tables (s : State) (n : Nat) (f : Window → Window) : (s.modWindow n f).tables = s.tables := rfl
@[simp] theorem State.modWindow_ports (s : State) (n : Nat) (f : Window → Window) : (s.modWindow n f).ports = s.ports := rfl
@[simp] theorem State.modWindow_claims (s : State) (n : Nat) (f : Window → Window) : (s.modWindow n f).claims = s.claims := rfl
@[simp] theorem State.modWindow_returns (s : State) (n : Nat) (f : Window → Window) : (s.modWindow n f).returns = s.returns := rfl
@[simp] theorem State.modWindow_worklists (s : State) (n : Nat) (f : Window → Window) : (s.modWindow n f).worklists = s.worklists := rfl
@[simp] theorem State.modWindow_eops (s : State) (n : Nat) (f : Window → Window) : (s.modWindow n f).eops = s.eops := rfl
@[simp] theorem State.modWindow_transfers (s : State) (n : Nat) (f : Window → Window) : (s.modWindow n f).transfers = s.transfers := rfl
@[simp] theorem State.modWindow_channels (s : State) (n : Nat) (f : Window → Window) : (s.modWindow n f).channels = s.channels := rfl
@[simp] theorem State.modWindow_flips (s : State) (n : Nat) (f : Window → Window) : (s.modWindow n f).flips = s.flips := rfl
@[simp] theorem State.modWindow_faultRecs (s : State) (n : Nat) (f : Window → Window) : (s.modWindow n f).faultRecs = s.faultRecs := rfl
@[simp] theorem State.modWindow_rdmaWaits (s : State) (n : Nat) (f : Window → Window) : (s.modWindow n f).rdmaWaits = s.rdmaWaits := rfl
@[simp] theorem State.modWindow_module (s : State) (n : Nat) (f : Window → Window) : (s.modWindow n f).module = s.module := rfl
@[simp] theorem State.modWindow_now (s : State) (n : Nat) (f : Window → Window) : (s.modWindow n f).now = s.now := rfl
@[simp] theorem State.modWindow_out (s : State) (n : Nat) (f : Window → Window) : (s.modWindow n f).out = s.out := rfl
@[simp] theorem State.modWindow_nextId (s : State) (n : Nat) (f : Window → Window) : (s.modWindow n f).nextId = s.nextId := rfl
@[simp] theorem State.modWindow_free (s : State) (n : Nat) (f : Window → Window) : (s.modWindow n f).free = s.free := rfl
@[simp] theorem State.modWindow_steps (s : State) (n : Nat) (f : Window → Window) : (s.modWindow n f).steps = s.steps := rfl
@[simp] theorem State.modWindow_agenda (s : State) (n : Nat) (f : Window → Window) : (s.modWindow n f).agenda = s.agenda := rfl
@[simp] theorem State.modWindow_cur (s : State) (n : Nat) (f : Window → Window) : (s.modWindow n f).cur = s.cur := rfl

/-! ## modLaunch -/

@[simp] theorem State.modLaunch_groups (s : State) (n : Nat) (f : Launch → Launch) : (s.modLaunch n f).groups = s.groups := rfl
@[simp] theorem State.modLaunch_cores (s : State) (n : Nat) (f : Launch → Launch) : (s.modLaunch n f).cores = s.cores := rfl
@[simp] theorem State.modLaunch_dies (s : State) (n : Nat) (f : Launch → Launch) : (s.modLaunch n f).dies = s.dies := rfl
@[simp] theorem State.modLaunch_memory (s : State) (n : Nat) (f : Launch → Launch) : (s.modLaunch n f).memory = s.memory := rfl
@[simp] theorem State.modLaunch_domains (s : State) (n : Nat) (f : Launch → Launch) : (s.modLaunch n f).domains = s.domains := rfl
@[simp] theorem State.modLaunch_rings (s : State) (n : Nat) (f : Launch → Launch) : (s.modLaunch n f).rings = s.rings := rfl
@[simp] theorem State.modLaunch_flipOwner (s : State) (n : Nat) (f : Launch → Launch) : (s.modLaunch n f).flipOwner = s.flipOwner := rfl
@[simp] theorem State.modLaunch_windows (s : State) (n : Nat) (f : Launch → Launch) : (s.modLaunch n f).windows = s.windows := rfl
@[simp] theorem State.modLaunch_nextSeq (s : State) (n : Nat) (f : Launch → Launch) : (s.modLaunch n f).nextSeq = s.nextSeq := rfl
@[simp] theorem State.modLaunch_parseCount (s : State) (n : Nat) (f : Launch → Launch) : (s.modLaunch n f).parseCount = s.parseCount := rfl
@[simp] theorem State.modLaunch_tasks (s : State) (n : Nat) (f : Launch → Launch) : (s.modLaunch n f).tasks = s.tasks := rfl
@[simp] theorem State.modLaunch_ready (s : State) (n : Nat) (f : Launch → Launch) : (s.modLaunch n f).ready = s.ready := rfl
@[simp] theorem State.modLaunch_areas (s : State) (n : Nat) (f : Launch → Launch) : (s.modLaunch n f).areas = s.areas := rfl
@[simp] theorem State.modLaunch_sliceUnits (s : State) (n : Nat) (f : Launch → Launch) : (s.modLaunch n f).sliceUnits = s.sliceUnits := rfl
@[simp] theorem State.modLaunch_copies (s : State) (n : Nat) (f : Launch → Launch) : (s.modLaunch n f).copies = s.copies := rfl
@[simp] theorem State.modLaunch_matOps (s : State) (n : Nat) (f : Launch → Launch) : (s.modLaunch n f).matOps = s.matOps := rfl
@[simp] theorem State.modLaunch_tables (s : State) (n : Nat) (f : Launch → Launch) : (s.modLaunch n f).tables = s.tables := rfl
@[simp] theorem State.modLaunch_ports (s : State) (n : Nat) (f : Launch → Launch) : (s.modLaunch n f).ports = s.ports := rfl
@[simp] theorem State.modLaunch_claims (s : State) (n : Nat) (f : Launch → Launch) : (s.modLaunch n f).claims = s.claims := rfl
@[simp] theorem State.modLaunch_returns (s : State) (n : Nat) (f : Launch → Launch) : (s.modLaunch n f).returns = s.returns := rfl
@[simp] theorem State.modLaunch_worklists (s : State) (n : Nat) (f : Launch → Launch) : (s.modLaunch n f).worklists = s.worklists := rfl
@[simp] theorem State.modLaunch_eops (s : State) (n : Nat) (f : Launch → Launch) : (s.modLaunch n f).eops = s.eops := rfl
@[simp] theorem State.modLaunch_transfers (s : State) (n : Nat) (f : Launch → Launch) : (s.modLaunch n f).transfers = s.transfers := rfl
@[simp] theorem State.modLaunch_channels (s : State) (n : Nat) (f : Launch → Launch) : (s.modLaunch n f).channels = s.channels := rfl
@[simp] theorem State.modLaunch_flips (s : State) (n : Nat) (f : Launch → Launch) : (s.modLaunch n f).flips = s.flips := rfl
@[simp] theorem State.modLaunch_faultRecs (s : State) (n : Nat) (f : Launch → Launch) : (s.modLaunch n f).faultRecs = s.faultRecs := rfl
@[simp] theorem State.modLaunch_rdmaWaits (s : State) (n : Nat) (f : Launch → Launch) : (s.modLaunch n f).rdmaWaits = s.rdmaWaits := rfl
@[simp] theorem State.modLaunch_module (s : State) (n : Nat) (f : Launch → Launch) : (s.modLaunch n f).module = s.module := rfl
@[simp] theorem State.modLaunch_now (s : State) (n : Nat) (f : Launch → Launch) : (s.modLaunch n f).now = s.now := rfl
@[simp] theorem State.modLaunch_out (s : State) (n : Nat) (f : Launch → Launch) : (s.modLaunch n f).out = s.out := rfl
@[simp] theorem State.modLaunch_nextId (s : State) (n : Nat) (f : Launch → Launch) : (s.modLaunch n f).nextId = s.nextId := rfl
@[simp] theorem State.modLaunch_free (s : State) (n : Nat) (f : Launch → Launch) : (s.modLaunch n f).free = s.free := rfl
@[simp] theorem State.modLaunch_steps (s : State) (n : Nat) (f : Launch → Launch) : (s.modLaunch n f).steps = s.steps := rfl
@[simp] theorem State.modLaunch_agenda (s : State) (n : Nat) (f : Launch → Launch) : (s.modLaunch n f).agenda = s.agenda := rfl
@[simp] theorem State.modLaunch_cur (s : State) (n : Nat) (f : Launch → Launch) : (s.modLaunch n f).cur = s.cur := rfl
@[simp] theorem State.modLaunch_launches (s : State) (n : Nat) (f : Launch → Launch) : (s.modLaunch n f).launches = updFirst (·.seq == n) f s.launches := rfl

/-! ## modTask -/

@[simp] theorem State.modTask_groups (s : State) (k : GroupKey) (f : Task → Task) : (s.modTask k f).groups = s.groups := rfl
@[simp] theorem State.modTask_cores (s : State) (k : GroupKey) (f : Task → Task) : (s.modTask k f).cores = s.cores := rfl
@[simp] theorem State.modTask_dies (s : State) (k : GroupKey) (f : Task → Task) : (s.modTask k f).dies = s.dies := rfl
@[simp] theorem State.modTask_memory (s : State) (k : GroupKey) (f : Task → Task) : (s.modTask k f).memory = s.memory := rfl
@[simp] theorem State.modTask_domains (s : State) (k : GroupKey) (f : Task → Task) : (s.modTask k f).domains = s.domains := rfl
@[simp] theorem State.modTask_rings (s : State) (k : GroupKey) (f : Task → Task) : (s.modTask k f).rings = s.rings := rfl
@[simp] theorem State.modTask_flipOwner (s : State) (k : GroupKey) (f : Task → Task) : (s.modTask k f).flipOwner = s.flipOwner := rfl
@[simp] theorem State.modTask_windows (s : State) (k : GroupKey) (f : Task → Task) : (s.modTask k f).windows = s.windows := rfl
@[simp] theorem State.modTask_launches (s : State) (k : GroupKey) (f : Task → Task) : (s.modTask k f).launches = s.launches := rfl
@[simp] theorem State.modTask_nextSeq (s : State) (k : GroupKey) (f : Task → Task) : (s.modTask k f).nextSeq = s.nextSeq := rfl
@[simp] theorem State.modTask_parseCount (s : State) (k : GroupKey) (f : Task → Task) : (s.modTask k f).parseCount = s.parseCount := rfl
@[simp] theorem State.modTask_ready (s : State) (k : GroupKey) (f : Task → Task) : (s.modTask k f).ready = s.ready := rfl
@[simp] theorem State.modTask_areas (s : State) (k : GroupKey) (f : Task → Task) : (s.modTask k f).areas = s.areas := rfl
@[simp] theorem State.modTask_sliceUnits (s : State) (k : GroupKey) (f : Task → Task) : (s.modTask k f).sliceUnits = s.sliceUnits := rfl
@[simp] theorem State.modTask_copies (s : State) (k : GroupKey) (f : Task → Task) : (s.modTask k f).copies = s.copies := rfl
@[simp] theorem State.modTask_matOps (s : State) (k : GroupKey) (f : Task → Task) : (s.modTask k f).matOps = s.matOps := rfl
@[simp] theorem State.modTask_tables (s : State) (k : GroupKey) (f : Task → Task) : (s.modTask k f).tables = s.tables := rfl
@[simp] theorem State.modTask_ports (s : State) (k : GroupKey) (f : Task → Task) : (s.modTask k f).ports = s.ports := rfl
@[simp] theorem State.modTask_claims (s : State) (k : GroupKey) (f : Task → Task) : (s.modTask k f).claims = s.claims := rfl
@[simp] theorem State.modTask_returns (s : State) (k : GroupKey) (f : Task → Task) : (s.modTask k f).returns = s.returns := rfl
@[simp] theorem State.modTask_worklists (s : State) (k : GroupKey) (f : Task → Task) : (s.modTask k f).worklists = s.worklists := rfl
@[simp] theorem State.modTask_eops (s : State) (k : GroupKey) (f : Task → Task) : (s.modTask k f).eops = s.eops := rfl
@[simp] theorem State.modTask_transfers (s : State) (k : GroupKey) (f : Task → Task) : (s.modTask k f).transfers = s.transfers := rfl
@[simp] theorem State.modTask_channels (s : State) (k : GroupKey) (f : Task → Task) : (s.modTask k f).channels = s.channels := rfl
@[simp] theorem State.modTask_flips (s : State) (k : GroupKey) (f : Task → Task) : (s.modTask k f).flips = s.flips := rfl
@[simp] theorem State.modTask_faultRecs (s : State) (k : GroupKey) (f : Task → Task) : (s.modTask k f).faultRecs = s.faultRecs := rfl
@[simp] theorem State.modTask_rdmaWaits (s : State) (k : GroupKey) (f : Task → Task) : (s.modTask k f).rdmaWaits = s.rdmaWaits := rfl
@[simp] theorem State.modTask_module (s : State) (k : GroupKey) (f : Task → Task) : (s.modTask k f).module = s.module := rfl
@[simp] theorem State.modTask_now (s : State) (k : GroupKey) (f : Task → Task) : (s.modTask k f).now = s.now := rfl
@[simp] theorem State.modTask_out (s : State) (k : GroupKey) (f : Task → Task) : (s.modTask k f).out = s.out := rfl
@[simp] theorem State.modTask_nextId (s : State) (k : GroupKey) (f : Task → Task) : (s.modTask k f).nextId = s.nextId := rfl
@[simp] theorem State.modTask_free (s : State) (k : GroupKey) (f : Task → Task) : (s.modTask k f).free = s.free := rfl
@[simp] theorem State.modTask_steps (s : State) (k : GroupKey) (f : Task → Task) : (s.modTask k f).steps = s.steps := rfl
@[simp] theorem State.modTask_agenda (s : State) (k : GroupKey) (f : Task → Task) : (s.modTask k f).agenda = s.agenda := rfl
@[simp] theorem State.modTask_cur (s : State) (k : GroupKey) (f : Task → Task) : (s.modTask k f).cur = s.cur := rfl
@[simp] theorem State.modTask_tasks (s : State) (k : GroupKey) (f : Task → Task) : (s.modTask k f).tasks = updFirst (·.g == k) f s.tasks := rfl

/-! ## modCopy -/

@[simp] theorem State.modCopy_groups (s : State) (n : Nat) (f : Copy → Copy) : (s.modCopy n f).groups = s.groups := rfl
@[simp] theorem State.modCopy_cores (s : State) (n : Nat) (f : Copy → Copy) : (s.modCopy n f).cores = s.cores := rfl
@[simp] theorem State.modCopy_dies (s : State) (n : Nat) (f : Copy → Copy) : (s.modCopy n f).dies = s.dies := rfl
@[simp] theorem State.modCopy_memory (s : State) (n : Nat) (f : Copy → Copy) : (s.modCopy n f).memory = s.memory := rfl
@[simp] theorem State.modCopy_domains (s : State) (n : Nat) (f : Copy → Copy) : (s.modCopy n f).domains = s.domains := rfl
@[simp] theorem State.modCopy_rings (s : State) (n : Nat) (f : Copy → Copy) : (s.modCopy n f).rings = s.rings := rfl
@[simp] theorem State.modCopy_flipOwner (s : State) (n : Nat) (f : Copy → Copy) : (s.modCopy n f).flipOwner = s.flipOwner := rfl
@[simp] theorem State.modCopy_windows (s : State) (n : Nat) (f : Copy → Copy) : (s.modCopy n f).windows = s.windows := rfl
@[simp] theorem State.modCopy_launches (s : State) (n : Nat) (f : Copy → Copy) : (s.modCopy n f).launches = s.launches := rfl
@[simp] theorem State.modCopy_nextSeq (s : State) (n : Nat) (f : Copy → Copy) : (s.modCopy n f).nextSeq = s.nextSeq := rfl
@[simp] theorem State.modCopy_parseCount (s : State) (n : Nat) (f : Copy → Copy) : (s.modCopy n f).parseCount = s.parseCount := rfl
@[simp] theorem State.modCopy_tasks (s : State) (n : Nat) (f : Copy → Copy) : (s.modCopy n f).tasks = s.tasks := rfl
@[simp] theorem State.modCopy_ready (s : State) (n : Nat) (f : Copy → Copy) : (s.modCopy n f).ready = s.ready := rfl
@[simp] theorem State.modCopy_areas (s : State) (n : Nat) (f : Copy → Copy) : (s.modCopy n f).areas = s.areas := rfl
@[simp] theorem State.modCopy_sliceUnits (s : State) (n : Nat) (f : Copy → Copy) : (s.modCopy n f).sliceUnits = s.sliceUnits := rfl
@[simp] theorem State.modCopy_matOps (s : State) (n : Nat) (f : Copy → Copy) : (s.modCopy n f).matOps = s.matOps := rfl
@[simp] theorem State.modCopy_tables (s : State) (n : Nat) (f : Copy → Copy) : (s.modCopy n f).tables = s.tables := rfl
@[simp] theorem State.modCopy_ports (s : State) (n : Nat) (f : Copy → Copy) : (s.modCopy n f).ports = s.ports := rfl
@[simp] theorem State.modCopy_claims (s : State) (n : Nat) (f : Copy → Copy) : (s.modCopy n f).claims = s.claims := rfl
@[simp] theorem State.modCopy_returns (s : State) (n : Nat) (f : Copy → Copy) : (s.modCopy n f).returns = s.returns := rfl
@[simp] theorem State.modCopy_worklists (s : State) (n : Nat) (f : Copy → Copy) : (s.modCopy n f).worklists = s.worklists := rfl
@[simp] theorem State.modCopy_eops (s : State) (n : Nat) (f : Copy → Copy) : (s.modCopy n f).eops = s.eops := rfl
@[simp] theorem State.modCopy_transfers (s : State) (n : Nat) (f : Copy → Copy) : (s.modCopy n f).transfers = s.transfers := rfl
@[simp] theorem State.modCopy_channels (s : State) (n : Nat) (f : Copy → Copy) : (s.modCopy n f).channels = s.channels := rfl
@[simp] theorem State.modCopy_flips (s : State) (n : Nat) (f : Copy → Copy) : (s.modCopy n f).flips = s.flips := rfl
@[simp] theorem State.modCopy_faultRecs (s : State) (n : Nat) (f : Copy → Copy) : (s.modCopy n f).faultRecs = s.faultRecs := rfl
@[simp] theorem State.modCopy_rdmaWaits (s : State) (n : Nat) (f : Copy → Copy) : (s.modCopy n f).rdmaWaits = s.rdmaWaits := rfl
@[simp] theorem State.modCopy_module (s : State) (n : Nat) (f : Copy → Copy) : (s.modCopy n f).module = s.module := rfl
@[simp] theorem State.modCopy_now (s : State) (n : Nat) (f : Copy → Copy) : (s.modCopy n f).now = s.now := rfl
@[simp] theorem State.modCopy_out (s : State) (n : Nat) (f : Copy → Copy) : (s.modCopy n f).out = s.out := rfl
@[simp] theorem State.modCopy_nextId (s : State) (n : Nat) (f : Copy → Copy) : (s.modCopy n f).nextId = s.nextId := rfl
@[simp] theorem State.modCopy_free (s : State) (n : Nat) (f : Copy → Copy) : (s.modCopy n f).free = s.free := rfl
@[simp] theorem State.modCopy_steps (s : State) (n : Nat) (f : Copy → Copy) : (s.modCopy n f).steps = s.steps := rfl
@[simp] theorem State.modCopy_agenda (s : State) (n : Nat) (f : Copy → Copy) : (s.modCopy n f).agenda = s.agenda := rfl
@[simp] theorem State.modCopy_cur (s : State) (n : Nat) (f : Copy → Copy) : (s.modCopy n f).cur = s.cur := rfl
@[simp] theorem State.modCopy_copies (s : State) (n : Nat) (f : Copy → Copy) : (s.modCopy n f).copies = updFirst (·.id == n) f s.copies := rfl

/-! ## modFlip -/

@[simp] theorem State.modFlip_groups (s : State) (n : Nat) (f : Flip → Flip) : (s.modFlip n f).groups = s.groups := rfl
@[simp] theorem State.modFlip_cores (s : State) (n : Nat) (f : Flip → Flip) : (s.modFlip n f).cores = s.cores := rfl
@[simp] theorem State.modFlip_dies (s : State) (n : Nat) (f : Flip → Flip) : (s.modFlip n f).dies = s.dies := rfl
@[simp] theorem State.modFlip_memory (s : State) (n : Nat) (f : Flip → Flip) : (s.modFlip n f).memory = s.memory := rfl
@[simp] theorem State.modFlip_domains (s : State) (n : Nat) (f : Flip → Flip) : (s.modFlip n f).domains = s.domains := rfl
@[simp] theorem State.modFlip_rings (s : State) (n : Nat) (f : Flip → Flip) : (s.modFlip n f).rings = s.rings := rfl
@[simp] theorem State.modFlip_flipOwner (s : State) (n : Nat) (f : Flip → Flip) : (s.modFlip n f).flipOwner = s.flipOwner := rfl
@[simp] theorem State.modFlip_windows (s : State) (n : Nat) (f : Flip → Flip) : (s.modFlip n f).windows = s.windows := rfl
@[simp] theorem State.modFlip_launches (s : State) (n : Nat) (f : Flip → Flip) : (s.modFlip n f).launches = s.launches := rfl
@[simp] theorem State.modFlip_nextSeq (s : State) (n : Nat) (f : Flip → Flip) : (s.modFlip n f).nextSeq = s.nextSeq := rfl
@[simp] theorem State.modFlip_parseCount (s : State) (n : Nat) (f : Flip → Flip) : (s.modFlip n f).parseCount = s.parseCount := rfl
@[simp] theorem State.modFlip_tasks (s : State) (n : Nat) (f : Flip → Flip) : (s.modFlip n f).tasks = s.tasks := rfl
@[simp] theorem State.modFlip_ready (s : State) (n : Nat) (f : Flip → Flip) : (s.modFlip n f).ready = s.ready := rfl
@[simp] theorem State.modFlip_areas (s : State) (n : Nat) (f : Flip → Flip) : (s.modFlip n f).areas = s.areas := rfl
@[simp] theorem State.modFlip_sliceUnits (s : State) (n : Nat) (f : Flip → Flip) : (s.modFlip n f).sliceUnits = s.sliceUnits := rfl
@[simp] theorem State.modFlip_copies (s : State) (n : Nat) (f : Flip → Flip) : (s.modFlip n f).copies = s.copies := rfl
@[simp] theorem State.modFlip_matOps (s : State) (n : Nat) (f : Flip → Flip) : (s.modFlip n f).matOps = s.matOps := rfl
@[simp] theorem State.modFlip_tables (s : State) (n : Nat) (f : Flip → Flip) : (s.modFlip n f).tables = s.tables := rfl
@[simp] theorem State.modFlip_ports (s : State) (n : Nat) (f : Flip → Flip) : (s.modFlip n f).ports = s.ports := rfl
@[simp] theorem State.modFlip_claims (s : State) (n : Nat) (f : Flip → Flip) : (s.modFlip n f).claims = s.claims := rfl
@[simp] theorem State.modFlip_returns (s : State) (n : Nat) (f : Flip → Flip) : (s.modFlip n f).returns = s.returns := rfl
@[simp] theorem State.modFlip_worklists (s : State) (n : Nat) (f : Flip → Flip) : (s.modFlip n f).worklists = s.worklists := rfl
@[simp] theorem State.modFlip_eops (s : State) (n : Nat) (f : Flip → Flip) : (s.modFlip n f).eops = s.eops := rfl
@[simp] theorem State.modFlip_transfers (s : State) (n : Nat) (f : Flip → Flip) : (s.modFlip n f).transfers = s.transfers := rfl
@[simp] theorem State.modFlip_channels (s : State) (n : Nat) (f : Flip → Flip) : (s.modFlip n f).channels = s.channels := rfl
@[simp] theorem State.modFlip_faultRecs (s : State) (n : Nat) (f : Flip → Flip) : (s.modFlip n f).faultRecs = s.faultRecs := rfl
@[simp] theorem State.modFlip_rdmaWaits (s : State) (n : Nat) (f : Flip → Flip) : (s.modFlip n f).rdmaWaits = s.rdmaWaits := rfl
@[simp] theorem State.modFlip_module (s : State) (n : Nat) (f : Flip → Flip) : (s.modFlip n f).module = s.module := rfl
@[simp] theorem State.modFlip_now (s : State) (n : Nat) (f : Flip → Flip) : (s.modFlip n f).now = s.now := rfl
@[simp] theorem State.modFlip_out (s : State) (n : Nat) (f : Flip → Flip) : (s.modFlip n f).out = s.out := rfl
@[simp] theorem State.modFlip_nextId (s : State) (n : Nat) (f : Flip → Flip) : (s.modFlip n f).nextId = s.nextId := rfl
@[simp] theorem State.modFlip_free (s : State) (n : Nat) (f : Flip → Flip) : (s.modFlip n f).free = s.free := rfl
@[simp] theorem State.modFlip_steps (s : State) (n : Nat) (f : Flip → Flip) : (s.modFlip n f).steps = s.steps := rfl
@[simp] theorem State.modFlip_agenda (s : State) (n : Nat) (f : Flip → Flip) : (s.modFlip n f).agenda = s.agenda := rfl
@[simp] theorem State.modFlip_cur (s : State) (n : Nat) (f : Flip → Flip) : (s.modFlip n f).cur = s.cur := rfl
@[simp] theorem State.modFlip_flips (s : State) (n : Nat) (f : Flip → Flip) : (s.modFlip n f).flips = updFirst (·.id == n) f s.flips := rfl

/-! ## setPort -/

@[simp] theorem State.setPort_groups (s : State) (q : Port) : (s.setPort q).groups = s.groups := rfl
@[simp] theorem State.setPort_cores (s : State) (q : Port) : (s.setPort q).cores = s.cores := rfl
@[simp] theorem State.setPort_dies (s : State) (q : Port) : (s.setPort q).dies = s.dies := rfl
@[simp] theorem State.setPort_memory (s : State) (q : Port) : (s.setPort q).memory = s.memory := rfl
@[simp] theorem State.setPort_domains (s : State) (q : Port) : (s.setPort q).domains = s.domains := rfl
@[simp] theorem State.setPort_rings (s : State) (q : Port) : (s.setPort q).rings = s.rings := rfl
@[simp] theorem State.setPort_flipOwner (s : State) (q : Port) : (s.setPort q).flipOwner = s.flipOwner := rfl
@[simp] theorem State.setPort_windows (s : State) (q : Port) : (s.setPort q).windows = s.windows := rfl
@[simp] theorem State.setPort_launches (s : State) (q : Port) : (s.setPort q).launches = s.launches := rfl
@[simp] theorem State.setPort_nextSeq (s : State) (q : Port) : (s.setPort q).nextSeq = s.nextSeq := rfl
@[simp] theorem State.setPort_parseCount (s : State) (q : Port) : (s.setPort q).parseCount = s.parseCount := rfl
@[simp] theorem State.setPort_tasks (s : State) (q : Port) : (s.setPort q).tasks = s.tasks := rfl
@[simp] theorem State.setPort_ready (s : State) (q : Port) : (s.setPort q).ready = s.ready := rfl
@[simp] theorem State.setPort_areas (s : State) (q : Port) : (s.setPort q).areas = s.areas := rfl
@[simp] theorem State.setPort_sliceUnits (s : State) (q : Port) : (s.setPort q).sliceUnits = s.sliceUnits := rfl
@[simp] theorem State.setPort_copies (s : State) (q : Port) : (s.setPort q).copies = s.copies := rfl
@[simp] theorem State.setPort_matOps (s : State) (q : Port) : (s.setPort q).matOps = s.matOps := rfl
@[simp] theorem State.setPort_tables (s : State) (q : Port) : (s.setPort q).tables = s.tables := rfl
@[simp] theorem State.setPort_claims (s : State) (q : Port) : (s.setPort q).claims = s.claims := rfl
@[simp] theorem State.setPort_returns (s : State) (q : Port) : (s.setPort q).returns = s.returns := rfl
@[simp] theorem State.setPort_worklists (s : State) (q : Port) : (s.setPort q).worklists = s.worklists := rfl
@[simp] theorem State.setPort_eops (s : State) (q : Port) : (s.setPort q).eops = s.eops := rfl
@[simp] theorem State.setPort_transfers (s : State) (q : Port) : (s.setPort q).transfers = s.transfers := rfl
@[simp] theorem State.setPort_channels (s : State) (q : Port) : (s.setPort q).channels = s.channels := rfl
@[simp] theorem State.setPort_flips (s : State) (q : Port) : (s.setPort q).flips = s.flips := rfl
@[simp] theorem State.setPort_faultRecs (s : State) (q : Port) : (s.setPort q).faultRecs = s.faultRecs := rfl
@[simp] theorem State.setPort_rdmaWaits (s : State) (q : Port) : (s.setPort q).rdmaWaits = s.rdmaWaits := rfl
@[simp] theorem State.setPort_module (s : State) (q : Port) : (s.setPort q).module = s.module := rfl
@[simp] theorem State.setPort_now (s : State) (q : Port) : (s.setPort q).now = s.now := rfl
@[simp] theorem State.setPort_out (s : State) (q : Port) : (s.setPort q).out = s.out := rfl
@[simp] theorem State.setPort_nextId (s : State) (q : Port) : (s.setPort q).nextId = s.nextId := rfl
@[simp] theorem State.setPort_free (s : State) (q : Port) : (s.setPort q).free = s.free := rfl
@[simp] theorem State.setPort_steps (s : State) (q : Port) : (s.setPort q).steps = s.steps := rfl
@[simp] theorem State.setPort_agenda (s : State) (q : Port) : (s.setPort q).agenda = s.agenda := rfl
@[simp] theorem State.setPort_cur (s : State) (q : Port) : (s.setPort q).cur = s.cur := rfl

/-! ## send -/

@[simp] theorem State.send_groups (s : State) (o : Out) : (s.send o).groups = s.groups := rfl
@[simp] theorem State.send_cores (s : State) (o : Out) : (s.send o).cores = s.cores := rfl
@[simp] theorem State.send_dies (s : State) (o : Out) : (s.send o).dies = s.dies := rfl
@[simp] theorem State.send_memory (s : State) (o : Out) : (s.send o).memory = s.memory := rfl
@[simp] theorem State.send_domains (s : State) (o : Out) : (s.send o).domains = s.domains := rfl
@[simp] theorem State.send_rings (s : State) (o : Out) : (s.send o).rings = s.rings := rfl
@[simp] theorem State.send_flipOwner (s : State) (o : Out) : (s.send o).flipOwner = s.flipOwner := rfl
@[simp] theorem State.send_windows (s : State) (o : Out) : (s.send o).windows = s.windows := rfl
@[simp] theorem State.send_launches (s : State) (o : Out) : (s.send o).launches = s.launches := rfl
@[simp] theorem State.send_nextSeq (s : State) (o : Out) : (s.send o).nextSeq = s.nextSeq := rfl
@[simp] theorem State.send_parseCount (s : State) (o : Out) : (s.send o).parseCount = s.parseCount := rfl
@[simp] theorem State.send_tasks (s : State) (o : Out) : (s.send o).tasks = s.tasks := rfl
@[simp] theorem State.send_ready (s : State) (o : Out) : (s.send o).ready = s.ready := rfl
@[simp] theorem State.send_areas (s : State) (o : Out) : (s.send o).areas = s.areas := rfl
@[simp] theorem State.send_sliceUnits (s : State) (o : Out) : (s.send o).sliceUnits = s.sliceUnits := rfl
@[simp] theorem State.send_copies (s : State) (o : Out) : (s.send o).copies = s.copies := rfl
@[simp] theorem State.send_matOps (s : State) (o : Out) : (s.send o).matOps = s.matOps := rfl
@[simp] theorem State.send_tables (s : State) (o : Out) : (s.send o).tables = s.tables := rfl
@[simp] theorem State.send_ports (s : State) (o : Out) : (s.send o).ports = s.ports := rfl
@[simp] theorem State.send_claims (s : State) (o : Out) : (s.send o).claims = s.claims := rfl
@[simp] theorem State.send_returns (s : State) (o : Out) : (s.send o).returns = s.returns := rfl
@[simp] theorem State.send_worklists (s : State) (o : Out) : (s.send o).worklists = s.worklists := rfl
@[simp] theorem State.send_eops (s : State) (o : Out) : (s.send o).eops = s.eops := rfl
@[simp] theorem State.send_transfers (s : State) (o : Out) : (s.send o).transfers = s.transfers := rfl
@[simp] theorem State.send_channels (s : State) (o : Out) : (s.send o).channels = s.channels := rfl
@[simp] theorem State.send_flips (s : State) (o : Out) : (s.send o).flips = s.flips := rfl
@[simp] theorem State.send_faultRecs (s : State) (o : Out) : (s.send o).faultRecs = s.faultRecs := rfl
@[simp] theorem State.send_rdmaWaits (s : State) (o : Out) : (s.send o).rdmaWaits = s.rdmaWaits := rfl
@[simp] theorem State.send_module (s : State) (o : Out) : (s.send o).module = s.module := rfl
@[simp] theorem State.send_now (s : State) (o : Out) : (s.send o).now = s.now := rfl
@[simp] theorem State.send_nextId (s : State) (o : Out) : (s.send o).nextId = s.nextId := rfl
@[simp] theorem State.send_free (s : State) (o : Out) : (s.send o).free = s.free := rfl
@[simp] theorem State.send_steps (s : State) (o : Out) : (s.send o).steps = s.steps := rfl
@[simp] theorem State.send_agenda (s : State) (o : Out) : (s.send o).agenda = s.agenda := rfl
@[simp] theorem State.send_cur (s : State) (o : Out) : (s.send o).cur = s.cur := rfl
@[simp] theorem State.send_out (s : State) (o : Out) : (s.send o).out = s.out ++ [o] := rfl

/-! ## bumpId -/

@[simp] theorem State.bumpId_groups (s : State) : (s.bumpId).groups = s.groups := rfl
@[simp] theorem State.bumpId_cores (s : State) : (s.bumpId).cores = s.cores := rfl
@[simp] theorem State.bumpId_dies (s : State) : (s.bumpId).dies = s.dies := rfl
@[simp] theorem State.bumpId_memory (s : State) : (s.bumpId).memory = s.memory := rfl
@[simp] theorem State.bumpId_domains (s : State) : (s.bumpId).domains = s.domains := rfl
@[simp] theorem State.bumpId_rings (s : State) : (s.bumpId).rings = s.rings := rfl
@[simp] theorem State.bumpId_flipOwner (s : State) : (s.bumpId).flipOwner = s.flipOwner := rfl
@[simp] theorem State.bumpId_windows (s : State) : (s.bumpId).windows = s.windows := rfl
@[simp] theorem State.bumpId_launches (s : State) : (s.bumpId).launches = s.launches := rfl
@[simp] theorem State.bumpId_nextSeq (s : State) : (s.bumpId).nextSeq = s.nextSeq := rfl
@[simp] theorem State.bumpId_parseCount (s : State) : (s.bumpId).parseCount = s.parseCount := rfl
@[simp] theorem State.bumpId_tasks (s : State) : (s.bumpId).tasks = s.tasks := rfl
@[simp] theorem State.bumpId_ready (s : State) : (s.bumpId).ready = s.ready := rfl
@[simp] theorem State.bumpId_areas (s : State) : (s.bumpId).areas = s.areas := rfl
@[simp] theorem State.bumpId_sliceUnits (s : State) : (s.bumpId).sliceUnits = s.sliceUnits := rfl
@[simp] theorem State.bumpId_copies (s : State) : (s.bumpId).copies = s.copies := rfl
@[simp] theorem State.bumpId_matOps (s : State) : (s.bumpId).matOps = s.matOps := rfl
@[simp] theorem State.bumpId_tables (s : State) : (s.bumpId).tables = s.tables := rfl
@[simp] theorem State.bumpId_ports (s : State) : (s.bumpId).ports = s.ports := rfl
@[simp] theorem State.bumpId_claims (s : State) : (s.bumpId).claims = s.claims := rfl
@[simp] theorem State.bumpId_returns (s : State) : (s.bumpId).returns = s.returns := rfl
@[simp] theorem State.bumpId_worklists (s : State) : (s.bumpId).worklists = s.worklists := rfl
@[simp] theorem State.bumpId_eops (s : State) : (s.bumpId).eops = s.eops := rfl
@[simp] theorem State.bumpId_transfers (s : State) : (s.bumpId).transfers = s.transfers := rfl
@[simp] theorem State.bumpId_channels (s : State) : (s.bumpId).channels = s.channels := rfl
@[simp] theorem State.bumpId_flips (s : State) : (s.bumpId).flips = s.flips := rfl
@[simp] theorem State.bumpId_faultRecs (s : State) : (s.bumpId).faultRecs = s.faultRecs := rfl
@[simp] theorem State.bumpId_rdmaWaits (s : State) : (s.bumpId).rdmaWaits = s.rdmaWaits := rfl
@[simp] theorem State.bumpId_module (s : State) : (s.bumpId).module = s.module := rfl
@[simp] theorem State.bumpId_now (s : State) : (s.bumpId).now = s.now := rfl
@[simp] theorem State.bumpId_out (s : State) : (s.bumpId).out = s.out := rfl
@[simp] theorem State.bumpId_free (s : State) : (s.bumpId).free = s.free := rfl
@[simp] theorem State.bumpId_steps (s : State) : (s.bumpId).steps = s.steps := rfl
@[simp] theorem State.bumpId_agenda (s : State) : (s.bumpId).agenda = s.agenda := rfl
@[simp] theorem State.bumpId_cur (s : State) : (s.bumpId).cur = s.cur := rfl
@[simp] theorem State.bumpId_nextId (s : State) : (s.bumpId).nextId = s.nextId + 1 := rfl

end Sys2Proof.Machine
end

