-- ==== Sys2Proof/Tests/Slice0.lean ====
section
/-! SUPPORT. Sys2Proof/Tests/Slice0.lean: the model's own tests. Expected words, codes and results come from the manual's worked cases (file and rule
named at each); the ill-formed terms from the rules of the fields; the witnesses meet the hypotheses of the statements. -/

namespace Sys2Proof.Tests

open Sys2Proof Sys2Proof.Machine

-- One test after another: proofs by decide that wait for the kernel would each hold a thread of their own.
set_option Elab.async false

/-! ## Ill-formed terms, one for each check of R80 step 2 -/

def h0 : Hdr := ⟨false, 0, false⟩
def guarded : Hdr := ⟨false, 1, false⟩

/-- IADD.i32 a0, a1 -> q, the base of the format Q terms. -/
def q0 : FormQ := ⟨0, 0, 0, 1, 0, 0, 0, false, false, 0⟩

/-- Its format: sources (R85), destination (R84, R25, R26), TYPE, RND, SAT, FLAG and SUB (R55). -/
theorem test_wf_format_q : (Instr.iadd h0 q0).wellFormed = true ∧
    ∀ q ∈ [{ q0 with sa := 61 }, { q0 with sc := 1 }, { q0 with fs := 1 }, { q0 with dk := 5, fs := 16 }, { q0 with dk := 6, fs := 0 },
      { q0 with dk := 6, fs := 8 }, { q0 with dk := 7, fs := 1 }, { q0 with ty := 4 }, { q0 with rnd := 1 }, { q0 with flag := true }, { q0 with sub := 1 }],
      (Instr.iadd h0 q).wellFormed = false := by decide

/-- SAT where the row has none (R111), the compare codes 6 and 7 (R114), SEL's SUB, DUP's count and SAVE's ranges (R131, R132). -/
theorem test_wf_rows_q : (Instr.imulh h0 { q0 with sat := true }).wellFormed = false ∧ (Instr.icmp h0 { q0 with sub := 6 }).wellFormed = false ∧
    (Instr.sel h0 { q0 with sub := 16 }).wellFormed = false ∧ (Instr.iabs h0 { q0 with sb := 0, ty := 1 }).wellFormed = false ∧
    (Instr.dup h0 { q0 with sb := 0, sub := 5 }).wellFormed = false ∧ (Instr.save h0 { q0 with dk := 2, sb := 0, sa := 7, sub := 1 }).wellFormed = false ∧
    (Instr.save h0 { q0 with dk := 2, sb := 0, fs := 31, sub := 1 }).wellFormed = false ∧ (Instr.matchLanes h0 { q0 with sb := 0, dk := 6, fs := 1 }).wellFormed = false ∧
    (Instr.vote h0 { q0 with sb := 0, sub := 1, flag := true }).wellFormed = false ∧ (Instr.shfl h0 { q0 with sub := 3, flag := true }).wellFormed = false ∧
    (Instr.bcast h0 { q0 with flag := true }).wellFormed = false := by decide

/-- The conversion rows: element index, destination type, E8M0's two targets, SAT (R126), the sharp scale (R127, R128), PACK's element (R129), the
reductions (R137). -/
theorem test_wf_conversions : (Instr.cvt h0 { q0 with sb := 0, ty := 4, sub := 6 }).wellFormed = true ∧
    (Instr.cvt h0 { q0 with sb := 0, ty := 4, sub := 5 }).wellFormed = false ∧ (Instr.cvt h0 { q0 with sb := 0, ty := 4, sub := 22 }).wellFormed = false ∧
    (Instr.cvt h0 { q0 with sb := 0, ty := 14, sub := 6 }).wellFormed = false ∧ (Instr.cvt h0 { q0 with sb := 0, ty := 4, sub := 6, sat := true }).wellFormed = false ∧
    (Instr.qnt h0 { q0 with ty := 6, sub := 4, flag := true }).wellFormed = false ∧ (Instr.qnt h0 { q0 with ty := 6, sub := 6 }).wellFormed = false ∧
    (Instr.dqnt h0 { q0 with ty := 6, sub := 68 }).wellFormed = false ∧ (Instr.pack h0 { q0 with ty := 6, sub := 4 }).wellFormed = false ∧
    (Instr.wred h0 { q0 with sb := 0, ty := 4, sub := 0 }).wellFormed = false ∧ (Instr.wred h0 { q0 with sb := 0, sub := 9 }).wellFormed = false ∧
    (Instr.wred h0 { q0 with sb := 0, sub := 1, sat := true }).wellFormed = false := by decide

/-- Formats QI, B and BD: a type, a guard with COND 0, a y register of YZ, AUX, the count, the table offset, BRD.loop's RCV (R88 to R91). -/
theorem test_wf_format_b : (Instr.iaddImm h0 ⟨0, 0, 0, 4, 1⟩).wellFormed = false ∧ (Instr.movi h0 ⟨0, 0, 1, 0, 1⟩).wellFormed = false ∧
    (Instr.rejoin guarded ⟨0, 0, 0, 0, 0⟩).wellFormed = false ∧ (Instr.bra guarded ⟨0, 0, 1⟩).wellFormed = false ∧ (Instr.bra h0 ⟨4, 16, 1⟩).wellFormed = false ∧
    (Instr.bra h0 ⟨6, 0, 1⟩).wellFormed = false ∧ (Instr.bra h0 ⟨1, 1, 1⟩).wellFormed = false ∧ (Instr.nop h0 ⟨0, 1, 0⟩).wellFormed = false ∧
    (Instr.call h0 ⟨0, 9 * 1024, 0⟩).wellFormed = false ∧ (Instr.callx h0 ⟨0, 128, 0⟩).wellFormed = false ∧ (Instr.ret h0 ⟨0, 0, 1⟩).wellFormed = false ∧
    (Instr.brx h0 ⟨0, 0, 2⟩).wellFormed = false ∧ (Instr.brdLoop h0 ⟨1, 1⟩).wellFormed = false := by decide

/-- Format A: types, even pairs, unused fields, ACMP's mask and condition (R92, R153). -/
theorem test_wf_format_a : (Instr.aadd h0 ⟨0, 2, 4, 3, 0⟩).wellFormed = true ∧ (Instr.aadd h0 ⟨0, 2, 4, 4, 0⟩).wellFormed = false ∧
    (Instr.aadd h0 ⟨1, 2, 4, 2, 0⟩).wellFormed = false ∧ (Instr.aadd h0 ⟨0, 2, 4, 0, 1⟩).wellFormed = false ∧ (Instr.amovi h0 ⟨0, 1, 0, 0, 1⟩).wellFormed = false ∧
    (Instr.acmp h0 ⟨0, 2, 4, 0, 0⟩).wellFormed = false ∧ (Instr.acmp h0 ⟨1, 2, 4, 0, 6⟩).wellFormed = false ∧ (Instr.acmpImm h0 ⟨1, 2, 6, 0, 0⟩).wellFormed = false ∧
    (Instr.asel h0 ⟨0, 2, 4, 0, 8⟩).wellFormed = false := by decide

/-- LD.b32 [X0] -> x1, the base of the format M terms. -/
def m0 : FormM := ⟨1, 0, 0, 2, 0, false, false, 0, 0⟩

/-- Format M: base pair, register alignment, SIZE, SCOPE, POL, XI, NT with POL, and what single rows leave at 0 (R93, R157, R165, R174 to R180). -/
theorem test_wf_format_m : (Instr.ld h0 m0).wellFormed = true ∧
    (∀ m ∈ [{ m0 with xbase := 1 }, { m0 with size := 3 }, { m0 with size := 4, xd := 2 }, { m0 with size := 7 }, { m0 with scope := 6 }, { m0 with pol := 6 },
      { m0 with xi := 1 }, { m0 with nt := true, pol := 1 }], (Instr.ld h0 m).wellFormed = false) ∧
    (Instr.lds h0 { m0 with scope := 1 }).wellFormed = false ∧ (Instr.ldc h0 { m0 with xbase := 2 }).wellFormed = false ∧
    (Instr.st h0 { m0 with size := 5 }).wellFormed = false ∧ (Instr.ldLq h0 m0).wellFormed = false ∧ (Instr.pf h0 m0).wellFormed = false ∧
    (Instr.fence h0 { m0 with xd := 0, size := 4 }).wellFormed = false ∧ (Instr.rfence h0 { m0 with xd := 0, size := 1 }).wellFormed = false ∧
    (Instr.cwb h0 { m0 with xd := 0 }).wellFormed = false ∧ (Instr.copy h0 { m0 with xd := 0, size := 0, scope := 1 }).wellFormed = false ∧
    (Instr.cpstat h0 { m0 with size := 0, imm := 40 }).wellFormed = false := by decide

/-- Atomics: the pairs of AOP and SIZE, XR, even pairs and CAS's registers (R94, R168). -/
theorem test_wf_atomics : (Instr.atom h0 m0).wellFormed = true ∧ (Instr.mred h0 { m0 with size := 3, xd := 2 }).wellFormed = false ∧
    (Instr.red h0 { m0 with imm := 8 * 32768 }).wellFormed = false ∧ (Instr.red h0 { m0 with imm := 524288 }).wellFormed = false ∧
    (Instr.atom h0 { m0 with size := 3 }).wellFormed = false ∧ (Instr.atom h0 { m0 with imm := 9 * 32768 }).wellFormed = false ∧
    (Instr.atom h0 { m0 with nt := true, scope := 1 }).wellFormed = false ∧ (Instr.mred h0 { m0 with pol := 1 }).wellFormed = false := by decide

/-- Format X (R95, R107, R195, R204 to R213). -/
theorem test_wf_format_x : (Instr.mma h0 ⟨0, 0, 0, 6, 8, 0, 1, 0, false, 0⟩).wellFormed = true ∧ (Instr.mma h0 ⟨0, 0, 0, 6, 8, 0, 1, 0, true, 0⟩).wellFormed = false ∧
    (Instr.mma h0 ⟨1, 0, 0, 6, 8, 0, 1, 0, false, 0⟩).wellFormed = false ∧ (Instr.mla h0 ⟨0, 0, 0, 6, 0, 3, 0, 0, false, 0⟩).wellFormed = false ∧
    (Instr.mma h0 ⟨0, 0, 0, 4, 8, 0, 0, 0, false, 0⟩).wellFormed = false ∧ (Instr.mma h0 ⟨0, 0, 0, 6, 8, 0, 4, 0, false, 0⟩).wellFormed = false ∧
    (Instr.mla h0 ⟨0, 60, 0, 6, 0, 0, 0, 0, false, 0⟩).wellFormed = false ∧ (Instr.mla h0 ⟨0, 0, 0, 15, 0, 0, 0, 0, false, 0⟩).wellFormed = true ∧
    (Instr.mmax h0 ⟨0, 0, 0, 0, 0, 0, 1, 0, false, 0⟩).wellFormed = false ∧ (Instr.mz h0 ⟨1, 0, 0, 0, 0, 0, 2, 0, false, 0⟩).wellFormed = false ∧
    (Instr.mdra h0 ⟨0, 0, 0, 5, 0, 0, 0, 0, false, 0⟩).wellFormed = false ∧ (Instr.mfence guarded ⟨0, 0, 0, 0, 0, 0, 0, 0, false, 0⟩).wellFormed = false ∧
    (Instr.mwait h0 ⟨0, 0, 0, 0, 0, 0, 1, 1, false, 0⟩).wellFormed = false ∧ (Instr.mcfg h0 ⟨0, 0, 0, 0, 0, 0, 0, 0, false, 0⟩).wellFormed = false := by decide

/-- Format E (R96, R219) and a record that is not 256 bytes (R314). -/
theorem test_wf_format_e : (Instr.route h0 ⟨0, 0, 8, 0, 0, 0x1301, 1⟩).wellFormed = false ∧ (Instr.rtake h0 ⟨0, 0, 1, 0, 0, 0, 0⟩).wellFormed = false ∧
    (Instr.rstat h0 ⟨0, 0, 0, 0, 0, 0x0100, 1⟩).wellFormed = false ∧ (Instr.epop h0 ⟨0, 29, 0, 0, 0, 0, 0⟩).wellFormed = false ∧
    (Instr.epush h0 ⟨0, 1, 0, 1, 2, 0, 0⟩).wellFormed = false ∧ (Instr.bar guarded ⟨0, 0, 0, 0, 0, 0, 0⟩).wellFormed = false ∧
    (Instr.abar h0 ⟨0, 0, 0, 0, 0, 8, 0⟩).wellFormed = false ∧ (Instr.clk h0 ⟨0, 0, 0, 0, 0, 16, 2⟩).wellFormed = false ∧
    (Instr.perf h0 ⟨0, 0, 0, 0, 0, 4, 0⟩).wellFormed = false ∧ (Instr.sys h0 ⟨1, 0, 60, 0, 0, 1, 1⟩).wellFormed = false ∧
    (Instr.topo h0 ⟨0, 0, 0, 0, 0, 6, 0⟩).wellFormed = false ∧ (Instr.rett h0 ⟨0, 0, 0, 0, 0, 0, 2⟩).wellFormed = false ∧
    (Instr.launch 1 ⟨[]⟩).wellFormed = false ∧ (Instr.launch 256 ⟨List.replicate 256 0⟩).wellFormed = false := by decide

/-! ## Words the manual writes out -/

/-- Spec 03, 04: the C-strand words and REJOIN's immediates. -/
theorem test_decode_c_strand : decode 0x31C0940011680000 = .instr (.ffma ⟨true, 0, false⟩ ⟨1, 5, 0, 1, 11, 4, 0, false, false, 0⟩) ∧
    decode 0x388181C440000000 = .instr (.fmulImm h0 ⟨3, 0, 56, 4, 0x40000000⟩) ∧
    decode 0x70104000FFFFFFFA = .instr (.bra ⟨false, 2, false⟩ ⟨1, 0, 0xFFFFFFFA⟩) ∧ decode 0x7088000010000018 = .instr (.brdIf guarded ⟨4, 6⟩) ∧
    decode 0x6200000005FF58D0 = .instr (.rejoin h0 ⟨0, 0, 0, 0, 0x05FF58D0⟩) ∧ decode 0x6200000005FAC688 = .instr (.rejoin h0 ⟨0, 0, 0, 0, 0x05FAC688⟩) := by
  decide +kernel

/-- Spec 05: the A-strand words. -/
theorem test_decode_a_strand : decode 0x8A01080300000002 = .instr (.ashlImm h0 ⟨8, 8, 0, 3, 2⟩) ∧
    decode 0x9040C00300000000 = .instr (.ld ⟨true, 0, false⟩ ⟨6, 0, 0, 3, 0, false, false, 0, 0⟩) ∧
    decode 0x96000A0200000000 = .instr (.stSq h0 ⟨0, 10, 0, 2, 0, false, false, 0, 0⟩) ∧
    decode 0x9800E40260480010 = .instr (.atom h0 ⟨7, 4, 0, 2, 3, false, false, 0, 0x480010⟩) ∧
    decode 0xB9000C0000000000 = .instr (.copys h0 ⟨0, 12, 0, 0, 0, false, false, 0, 0⟩) := by decide +kernel

/-- Spec 06, 07, 11, 12, 13: matrix and system words. -/
theorem test_decode_system : decode 0xC088040960000000 = .instr (.mla guarded ⟨0, 8, 9, 6, 0, 0, 0, 0, false, 0⟩) ∧
    decode 0xC188000068010000 = .instr (.mma guarded ⟨0, 0, 0, 6, 8, 0, 1, 0, false, 0⟩) ∧
    decode 0xC408060D00000000 = .instr (.msca guarded ⟨0, 12, 13, 0, 0, 0, 0, 0, false, 0⟩) ∧
    decode 0xD800004000026001 = .instr (.route h0 ⟨0, 0, 8, 0, 0, 0x1300, 1⟩) ∧
    decode 0xE140400000000040 = .instr (.epop ⟨true, 0, false⟩ ⟨0, 16, 0, 0, 0, 2, 0⟩) ∧
    decode 0xE900000000000020 = .instr (.abar h0 ⟨0, 0, 0, 0, 0, 1, 0⟩) ∧ decode 0xF180000000081401 = .instr (.setxvImm h0 ⟨0, 0, 0, 0, 0, 0x40A0, 1⟩) ∧
    decode 0xF003800000002202 = .instr (.sys h0 ⟨7, 0, 0, 0, 0, 0x110, 2⟩) ∧ decode 0xF140000000000062 = .instr (.clk ⟨true, 0, false⟩ ⟨0, 0, 0, 0, 0, 3, 2⟩) ∧
    decode 0xF400000000000000 = .instr (.perf h0 ⟨0, 0, 0, 0, 0, 0, 0⟩) := by decide +kernel

/-- An unassigned opcode, one of the other strand, and a BRD of mode 2 (R80, R91, R97). -/
theorem test_decode_refuses : decode 0 = .unassigned 0 ∧ decodeIn .c 0x9040C00300000000 = .unassigned 0x120 ∧ decode 0x708800001000001A = .reserved 0x0E1 ∧
    decodeIn .a 0x7011000000000000 = .reserved 0x0E0 := by decide +kernel
/-! ## Worked values -/

/-- R70's worked case of T8: 0.3, −0.3 downward, two ties, 5 000. -/
theorem test_t8_worked : convert 4 6 0 false false 0 0x3E99999A = ⟨0x23, flagIX⟩ ∧ convert 4 6 2 false false 0 0xBE99999A = ⟨0xA4, flagIX⟩ ∧
    convert 4 6 0 false false 0 0x3F840000 = ⟨0x40, flagIX⟩ ∧ convert 4 6 0 false false 0 0x45200000 = ⟨0x7E, flagIX⟩ ∧
    convert 4 6 0 false false 0 0x459C4000 = ⟨0x7F, flagSX ||| flagIX⟩ := by decide +kernel

/-- R113's four lanes. -/
theorem test_divide_worked : divInt 0 false [7, 2] = ⟨3, 0⟩ ∧ divInt 0 true [7, 2] = ⟨1, 0⟩ ∧ divInt 0 false [BitVec.ofInt 32 (-7), 2] = ⟨BitVec.ofInt 32 (-3), 0⟩ ∧
    divInt 0 true [BitVec.ofInt 32 (-7), 2] = ⟨BitVec.ofInt 32 (-1), 0⟩ ∧ divInt 0 false [5, 0] = ⟨0xFFFFFFFF, flagDZ⟩ ∧ divInt 0 true [5, 0] = ⟨5, flagDZ⟩ ∧
    divInt 0 false [0x80000000, 0xFFFFFFFF] = ⟨0x80000000, flagDZ⟩ ∧ divInt 0 true [0x80000000, 0xFFFFFFFF] = ⟨0, flagDZ⟩ := by decide +kernel

/-- R58, R112: a packed sum saturates one half alone and wraps without SAT. -/
theorem test_add_halves : addInt 2 true [0x7FFF0001, 0x00010001] = ⟨0x7FFF0002, flagSX⟩ ∧ addInt 2 false [0x7FFFFFFF, 0x00010001] = ⟨0x80000000, 0⟩ := by
  decide +kernel

/-- R76's worked MSCA: 1.0 + 3.0 × 2^−4 = 1.1875. -/
theorem test_msca_worked : mscaAcc 0x3F800000 0x40400000 130 120 = ⟨0x3F980000, 0⟩ := by decide +kernel

/-- R37's word of row counts. -/
theorem test_rows_word : rfOf 0x06464168 = 360 ∧ scOf 0x06464168 = 400 ∧ accOf 0x06464168 = 100 := by decide

/-- R371's pair of dies and their band (R376). -/
theorem test_sites_worked : siteOf 247 = (15, 15) ∧ siteOf 264 = (16, 16) ∧ regionOf 247 = 0 ∧ regionOf 264 = 3 ∧ hops 247 264 = 2 ∧ bandOf 247 264 = 1 ∧
    bandBound 1 = 120 := by decide

/-- R303's worked leaf. -/
theorem test_leaf_worked : (pageOfLeaf 4 0 0x000400500123000F).pa = 0x5001230000 ∧ (pageOfLeaf 4 0 0x000400500123000F).evp = 1 ∧
    (pageOfLeaf 4 0 0x000400500123000F).r = true ∧ (pageOfLeaf 4 0 0x000400500123000F).w = true ∧ (pageOfLeaf 4 0 0x000400500123000F).qz = false := by
  decide +kernel

/-- R314: record 65 stands in slot 0 with sequence byte 2. -/
theorem test_sequence_byte : (65 - 1) % 64 = 0 ∧ seqByte 65 = 2 ∧ seqByte 1 = 1 ∧ seqByte (64 * 255 + 1) = 1 := by decide

/-- R183's tensor of width 5: .mirror, .clamp and .zero at columns −2 and −1 and row 3 of 3. -/
theorem test_edges_worked : (List.map (fun e => (resolveEdge e (-2) 5, resolveEdge e (-1) 5, resolveEdge e 3 3)) [0, 1, 2]) =
    [(none, none, none), (some 0, some 0, some 2), (some 1, some 0, some 2)] := by decide +kernel

/-! ## One step -/

/-- The first warp's lane l after one step of word w from reset. -/
def laneAfterStep (w l : Nat) : Option Lane :=
  match step (State.reset.withFetchWord 64 w) with
  | .next t => (t.warp? ⟨0, 0, 0⟩).map (·.lane l)
  | _ => none

/-- MOVI 5 -> q: OP 0x0C1, the queue of every lane shifts (R22, R130). -/
theorem test_step_movi : (laneAfterStep 0x6080000000000005 3).map (fun k => (k.a.getD 0 0, k.a.getD 1 0)) = some (5, 0) := by decide +kernel

/-- AMOVI.i32 7 -> x9 in lane 15, the pc then 1 (R151). -/
theorem test_step_amovi : (laneAfterStep 0x8601200000000007 15).map (fun k => k.x.getD 9 0) = some 7 := by decide +kernel
/-! ## Witnesses: states and operands that meet the hypotheses of the statements -/

/-- One warp of width 16 about to issue in strand st, its whole gang, in a state that f has prepared. -/
def prepared (f : State → State) (st : Strand) : State := { f (State.reset.withFetchWord 64 0) with cur := some ⟨⟨0, 0, 0⟩, st, 0⟩ }

def ctxOf (s : State) (h : s.ctx?.isSome = true) : Ctx := s.ctx?.get h

theorem ctxOf_eq (s : State) (h : s.ctx?.isSome = true) : s.ctx? = some (ctxOf s h) := by simp [ctxOf]

/-- Every lane may issue with nothing prepared. -/
def sC : State := prepared id .c
def cC : Ctx := ctxOf sC (by decide +kernel)
def sA : State := prepared id .a
def cA : Ctx := ctxOf sA (by decide +kernel)

/-- The warp changed. -/
def withWarp (f : Warp → Warp) : State → State := fun s => s.modWarp ⟨0, 0, 0⟩ f

/-- Each slice a gang of its own. -/
def parted (t : StrandSt) : StrandSt := { t with slices := mapIdxList (fun i (k : Slice) => { k with gang := i }) t.slices }

theorem test_witness_IssueEnds : cC.warp.key = cC.iss.w ∧ (sC.warp? cC.iss.w).isSome = true ∧ 0 ∈ cC.slices ∧ cC.slices.Nodup ∧
    0 < (cC.warp.strand cC.iss.strand).slices.length ∧ (nextPc 0 (cC.st.slice 0)).stack = [] ∧ (nextPc 0 (cC.st.slice 0)).calls = [] ∧
    (nextPc 0 (cC.st.slice 0)).active ≠ 0 ∧ (nextPc 0 (cC.st.slice 0)).live ≠ 0 ∧ (nextPc 0 (cC.st.slice 0)).hold = .none := by decide +kernel

/-- A slice that has come to the reconvergence point of its not-taken arm, of its other arm with a tag of its own, and one whose loop has lost its lanes. -/
def armNot : Slice := { (cC.st.slice 0) with pc := 9, active := 3, tag := 2, tagSet := true, stack := [.pending 9 12 4, .join 9 15 0 false none] }
def armTaken (tag : Byte) : Slice :=
  { (cC.st.slice 0) with pc := 9, active := 12, tag := 5, tagSet := true, stack := [.join 9 15 0 false (some ⟨tag, true, true⟩)] }
def loopEmpty : Slice := { (cC.st.slice 0) with pc := 4, active := 0, stack := [.loop 6 15] }

theorem test_witness_IssueEnds_arms : (∀ sl ∈ [armNot, armTaken 5, armTaken 2, loopEmpty], sl.live ≠ 0 ∧ sl.hold = .none ∧ sl.base < sl.stack.length) ∧
    (armNot.pc = 9 ∧ ({ armNot with pc := 4, active := 12 &&& armNot.live, tag := 0, tagSet := false, stack := [.join 9 15 0 false (some ⟨2, true, true⟩)] } : Slice).goesOn = true) ∧
    ((armTaken 2).pc = 9 ∧ (armTaken 2).active ≠ 0 ∧ (5 : Byte) ≠ 2 ∧ ({ armTaken 5 with pc := 9, active := 15 &&& (armTaken 5).live, stack := [] } : Slice).goesOn = true) ∧
    (loopEmpty.active = 0 ∧ ({ loopEmpty with pc := 7, active := 15 &&& loopEmpty.live, stack := [] } : Slice).goesOn = true) := by decide +kernel

theorem test_witness_LaneRowsComplete : sC.ctx? = some cC ∧ (∃ o, intOp cC (.iadd h0 q0) = some o ∧ cC.laneGate o = .go) ∧
    (∃ o, floatOp cC (.fadd h0 { q0 with ty := 4 }) = some o ∧ cC.laneGate o = .go) ∧
    (∃ o, crossOp cC (.bcast h0 { q0 with sb := 0, flag := true }) = some o ∧ cC.laneGate o = .go) :=
  ⟨ctxOf_eq _ _, ⟨_, rfl, by decide +kernel⟩, ⟨_, rfl, by decide +kernel⟩, ⟨_, rfl, by decide +kernel⟩⟩

/-- The A-strand has exited. -/
def sDead : State := prepared (withWarp fun w => { w with a := { w.a with slices := w.a.slices.map fun k => { k with live := 0, active := 0 } } }) .c
def cDead : Ctx := ctxOf sDead (by decide +kernel)

/-- The C-strand waits for an LQ entry, the A-strand for one of the IQ, both since ck 0. -/
def sStuck : State := { prepared (withWarp fun w => { w with
  c := { w.c with slices := w.c.slices.map fun k => { k with stall := some ⟨1, 0, 0, 0, false, false⟩ } }
  a := { w.a with slices := w.a.slices.map fun k => { k with stall := some ⟨0, 0, 0, 1, false, false⟩ } }
  stuckSince := some 0 }) .c with now := 256 }

theorem test_witness_CouplingQueuesHold : sC.ctx? = some cC ∧ (∃ o, intOp cC (.iadd h0 { q0 with sa := 56 }) = some o ∧ cC.laneGate o = .stall ⟨1, 0, 0, 0, false, false⟩) ∧
    sDead.ctx? = some cDead ∧ (∃ o, intOp cDead (.iadd h0 { q0 with sa := 56 }) = some o ∧ cDead.laneGate o = .dead 1) ∧
    (∃ g w, sStuck.group? ⟨0, 0⟩ = some g ∧ g.warp? ⟨0, 0, 0⟩ = some w ∧ g.active = true ∧ w.deadlocked = true ∧ w.stuckSince = some 0 ∧ 0 + 256 ≤ sStuck.now ∧
      w.pending = []) := by
  refine ⟨ctxOf_eq _ _, ⟨_, rfl, by decide +kernel⟩, ctxOf_eq _ _, ⟨_, rfl, by decide +kernel⟩, ⟨_, _, rfl, rfl, ?_⟩⟩
  decide +kernel

theorem test_witness_QueueOpsComplete : sC.ctx? = some cC ∧ cC.lqGate (lqNeed [0]) = .go := ⟨ctxOf_eq _ _, by decide +kernel⟩

theorem test_witness_AddressOpsComplete : sA.ctx? = some cA ∧ (addrOp cA (.aadd h0 ⟨0, 2, 4, 3, 0⟩)).isSome = true :=
  ⟨ctxOf_eq _ _, rfl⟩

/-- Every lane has two IQ entries. -/
def sQueued : State := prepared (withWarp fun w => { w with lanes := w.lanes.map fun k => { k with iq := [4, 5], sq := [6, 7, 8, 9] } }) .a
def cQueued : Ctx := ctxOf sQueued (by decide +kernel)

theorem test_witness_ComparePopComplete : sA.ctx? = some cA ∧ (acmpOp cA (.acmp h0 ⟨1, 2, 4, 0, 0⟩)).isSome = true ∧ sQueued.ctx? = some cQueued ∧
    cQueued.popGate false 1 = .go := ⟨ctxOf_eq _ _, rfl, ctxOf_eq _ _, by decide +kernel⟩

/-- The code object has a table of four words. -/
def sTable : State := prepared (fun s => { s with launches := s.launches.map fun l => { l with code := { l.code with tSeg := (8, 16) } } }) .c
def cTable : Ctx := ctxOf sTable (by decide +kernel)

theorem test_witness_BranchesComplete : sTable.ctx? = some cTable ∧ cTable.lqGate (lqNeed [0]) = .go ∧ cTable.slices.Nodup ∧ cTable.warp.handler = false ∧
    (∃ t vs, State.tableWords cTable (fun _ => 0) cTable.slices sTable = (t, .ok vs)) ∧
    (∃ t r, State.tableWords cC (fun _ => 0) cC.slices sC = (t, .error r)) ∧ (sC.launch? cC.iss.w.seq).map (fun l => l.code.tSeg.2) = some 0 :=
  ⟨ctxOf_eq _ _, by decide +kernel, by decide +kernel, by decide +kernel, ⟨_, _, rfl⟩, ⟨_, _, rfl⟩, by decide +kernel⟩
/-- The table's page is in transition, or is not. -/
def sTableHeld : State := { sTable with memory := sTable.memory.store 0x3000 (leBytes 8 (2 ^ 48 + 0xF)) }

theorem test_witness_BranchesComplete_table : (∀ i ∈ cTable.slices, sTableHeld.tableWaits cTable 0 = true ∧ sTable.tableWaits cTable 0 = false) ∧
    (∃ l t p, sTable.launch? cTable.iss.w.seq = some l ∧ 12 + 4 ≤ l.code.tSeg.2 ∧ l.code.tSeg.2 < 16 + 4 ∧
      sTable.resolve cTable.grp.die cTable.grp.core cTable.grp.dom (l.code.base + l.code.tSeg.1 + 12) = (t, .ok p)) :=
  ⟨by decide +kernel, _, _, _, rfl, by decide +kernel, by decide +kernel, rfl⟩

/-- Slice 0 alone, its lanes 0 and 2 of m1, its stack full. -/
def sFull : State := prepared (withWarp fun w => { w with
  c := let t := parted w.c; { t with slices := t.slices.map fun k => { k with stack := List.replicate 32 (.loop 0 0) } }
  m := w.m.set! 1 5 }) .c
def cFull : Ctx := ctxOf sFull (by decide +kernel)

theorem test_witness_DivergenceCompletes : sC.ctx? = some cC ∧ (∀ i ∈ cC.slices, (cC.st.slice i).stack.length + 2 ≤ 32) ∧
    sFull.ctx? = some cFull ∧ cFull.slices = [0] ∧ (cFull.st.slice 0).stack.length = 32 ∧ (cFull.st.slice 0).active &&& cFull.guardNib guarded 0 ≠ 0 ∧
    (cFull.st.slice 0).active &&& ~~~(cFull.guardNib guarded 0) ≠ 0 :=
  ⟨ctxOf_eq _ _, by decide +kernel, ctxOf_eq _ _, by decide +kernel⟩

/-- Die 0 has the first GiB of domain 0 translated, all of it ordinary memory of stack 0. -/
def page0 : Page := pageOfLeaf 2 0x3000 0xF
def mapped (s : State) : State := s.modDie 0 fun d => { d with tlb := [((0, 0), page0)] }
def sMap : State := prepared mapped .a
def cMap : Ctx := ctxOf sMap (by decide +kernel)
def sMapQ : State := { prepared (fun s => mapped (withWarp (fun w => { w with lanes := w.lanes.map fun k => { k with iq := [4, 5], sq := [6, 7, 8, 9] } }) s)) .a with now := 1 }
def cMapQ : Ctx := ctxOf sMapQ (by decide +kernel)

theorem test_witness_LoadsComplete : sMap.ctx? = some cMap ∧
    (∃ o, loadOp sMap cMap (.ld h0 m0) = some o ∧ o.clear ∧ cMap.loadGate o.m o.queue o.pop = .go) ∧
    (∃ o, loadOp sMap cMap (.ldLq h0 { m0 with xd := 0 }) = some o ∧ o.clear ∧ cMap.loadGate o.m o.queue o.pop = .go) ∧
    sMapQ.ctx? = some cMapQ ∧ ∃ o, loadOp sMapQ cMapQ (.ldx h0 m0) = some o ∧ o.clear ∧ cMapQ.loadGate o.m o.queue o.pop = .go :=
  ⟨ctxOf_eq _ _, ⟨_, rfl, by unfold MemOp.clear; decide +kernel, by decide +kernel⟩, ⟨_, rfl, by unfold MemOp.clear; decide +kernel, by decide +kernel⟩,
    ctxOf_eq _ _, _, rfl, by unfold MemOp.clear; decide +kernel, by decide +kernel⟩

theorem test_witness_StoresIssue : sMapQ.ctx? = some cMapQ ∧
    (∃ o, storeOp sMapQ cMapQ (.st h0 { m0 with imm := 64 }) = some o ∧ o.clear ∧ cMapQ.storeGate o.m o.queue o.pop = .go) ∧
    ∃ o, storeOp sMapQ cMapQ (.stxSq h0 { m0 with xd := 0, imm := 64 }) = some o ∧ o.clear ∧ cMapQ.storeGate o.m o.queue o.pop = .go :=
  ⟨ctxOf_eq _ _, ⟨_, rfl, by unfold MemOp.clear; decide +kernel, by decide +kernel⟩, _, rfl, by unfold MemOp.clear; decide +kernel, by decide +kernel⟩

theorem test_witness_AtomicsIssue : sMap.ctx? = some cMap ∧ (∃ o, atomicOp sMap cMap (.atom h0 { m0 with imm := 64 }) = some (o, .atom) ∧ o.clear) ∧
    (∃ o, atomicOp sMap cMap (.mred h0 { m0 with imm := 64 }) = some (o, .mred) ∧ o.clear) :=
  ⟨ctxOf_eq _ _, ⟨_, rfl, by unfold MemOp.clear; decide +kernel⟩, _, rfl, by unfold MemOp.clear; decide +kernel⟩

/-- A scratch load beyond the group's rows fails its check; an odd address of size 8 is misaligned. -/
theorem test_witness_AccessFaults : sA.ctx? = some cA ∧
    (∃ o, loadOp sA cA (.lds h0 m0) = some o ∧ cA.loadGate o.m o.queue o.pop = .go ∧ o.found.miss = [] ∧ o.found.bad ≠ []) ∧
    (8 ≤ 8 ∧ (1 : Word64).toNat % 8 ≠ 0) ∧ 16 ∈ [1, 2, 4, 8, 16] :=
  ⟨ctxOf_eq _ _, ⟨_, rfl, by decide +kernel, by decide +kernel, by decide +kernel⟩, by decide, by decide⟩

/-- The group has eight rows of scratch; its page may be neither read nor written. -/
def sRows : State := prepared (fun s => (s.modDie 0 fun d => { d with tlb := [((0, 0), { page0 with r := false, fx := true })] }).modGroup ⟨0, 0⟩ fun g =>
  { g with scRows := 8 }) .a
def cRows : Ctx := ctxOf sRows (by decide +kernel)

/-- Each check of an access: scratch of no group of the cohort, its last four bytes and the four beyond by one, odd addresses; the page's two bits. -/
theorem test_witness_AccessFaults_each : (0x09000000 / 2 ^ 24 % 256 = 9 ∧ ∀ j ∈ cRows.grp.cohort, (sRows.group? ⟨cRows.grp.key.seq, j⟩).all (·.slot != 9) = true) ∧
    (∀ ea ∈ [0xFF00049C, 0xFF00049D], ea / 2 ^ 24 % 256 = 0xFF ∧ (ea % 2 ^ 24 + 4 ≤ 148 * cRows.grp.scRows ∧ ea % 4 = 0 ∨ 148 * cRows.grp.scRows < ea % 2 ^ 24 + 4 ∧ ea % 4 ≠ 0)) ∧
    needAtomic.aligned = true ∧ (needLoad.r && needStore.w) = true ∧
    (match sRows.look cRows 0x8000 with
      | .page p => !p.r && p.fx
      | _ => false) = true := by decide +kernel

theorem test_witness_FencesComplete : sMap.ctx? = some cMap ∧ cMap.warp.accs = [] ∧
    (let k := cMap.allChecks h0 fun l => sMap.checkMem cMap needLine 1 l (cMap.eaOf { m0 with xd := 0, size := 0, imm := 64 } 1 false l)
     k.miss = [] ∧ k.bad = []) := ⟨ctxOf_eq _ _, by decide +kernel, by decide +kernel⟩

def farLine : Nat := 5 * 2 ^ 36 / 128
/-- Die 0 holds a dirty SC line, 0 of its own stack or one of stack 5, and the page says whose it is. -/
def sDirtyAt (line : Nat) : State := sMap.modDie 0 fun d =>
  { d with tlb := [((0, 0), { page0 with pa := 128 * line, cc := 1 })], lines := [⟨false, line, 0, 0, true, false, 1, List.replicate 128 5, 0, 0⟩] }
def lineM (scope : BitVec 3) : FormM := { m0 with xd := 0, size := 0, scope := scope }

/-- CWB and CINV of that line: what their checks find, which lines they aim at, that no write of the die's own is on its way, whose the line is. -/
theorem test_witness_FencesComplete_line : (∀ x ∈ [(0, 4, [0], true), (farLine, 5, [farLine], false), (0, 3, [], true)],
    let s := sDirtyAt x.1
    let m := lineM (BitVec.ofNat 3 x.2.1)
    let k := cMap.allChecks h0 fun l => s.checkMem cMap needLine 1 l (cMap.eaOf m 1 false l)
    let s1 := k.pages.foldl (fun s x => s.reach cMap.grp.die cMap.grp.core cMap.grp.dom false x) s
    k.miss = [] ∧ k.bad = [] ∧ s.scAimed cMap m.scope.toNat k.units = x.2.2.1 ∧ s1.memory.wf = true ∧ s1.memory.ownOnWay 0 x.1 = false ∧
      (s1.die 0).lines.map (fun l => (l.line, l.sc, l.dirty, l.data.getD 0 0)) = [(x.1, true, 1, 5)] ∧
      (s1.homeOf (stackOf (128 * x.1)) == 0) = x.2.2.2) := by decide +kernel

/-- An access of one unit in flight, by instruction 5 of the warp; 148 bytes of scratch stand behind it. -/
def inFlight (kind : AccessKind) (aop : Nat) (dest : Dest) (u : AUnit) (s : State) : State :=
  (withWarp (fun w => { w with
    accs := [⟨5, kind, 2, 0, false, 0, aop, dest, [u], false, 0, 9⟩]
    longs := [⟨5, .a, 0, [], some 5, 0⟩, ⟨6, .c, 0, [(3, 1)], none, 4⟩]
    busy := [⟨5, 0, .xreg 1⟩] }) s).modGroup ⟨0, 0⟩ fun g => { g with
      scRows := 1
      scratch := [(0, 7)] }

def inScratch (d : List Byte) : AUnit := ⟨0, 0, 4, .scratch ⟨0, 0⟩ 0, d, .issued, false, none, 0xFF000000⟩
def ioPage : Page := { page0 with cc := 2 }
def inMemory (d : List Byte) : AUnit := ⟨0, 0, 4, .mem 0x8000 ioPage, d, .issued, false, none, 0x8000⟩

/-- What a flight of instruction 5 is: its units, its kind, and that nothing earlier blocks the first. -/
def flying (s : State) : Option (List AUnit × AccessKind × Bool) :=
  (s.flight? ⟨0, 0, 0⟩ 5).map fun f => (f.acc.units, f.acc.kind, f.acc.units.any f.blocked)

def sLoad : State := inFlight .load 0 (.xreg 1) (inScratch []) sA
def sAtom : State := inFlight .atom 0 (.xreg 1) (inScratch [1, 0, 0, 0]) sA

theorem test_witness_ResultsReturn : flying sLoad = some ([inScratch []], .load, false) ∧
    ((sLoad.flight? ⟨0, 0, 0⟩ 5).bind fun f => (sLoad.readUnit f (inScratch [])).map fun r => (r.1, r.2.1)) = some ([7, 0, 0, 0], false) ∧
    ((sLoad.warp? ⟨0, 0, 0⟩).bind fun w => (w.longs.find? (·.id == 6)).map (·.access)) = some none ∧
    ((sAtom.warp? ⟨0, 0, 0⟩).bind fun w => (w.longs.find? (·.id == 5)).map (·.access)) = some (some 5) ∧
    flying sAtom = some ([inScratch [1, 0, 0, 0]], .atom, false) := by decide +kernel

/-- The access at physical address pa of a page, at a scope and a level, as instruction 5; the die holds the lines given. -/
def pageOf (pa cc wp : Nat) : Page := { page0 with pa := pa / 2 ^ 30 * 2 ^ 30, cc := cc, wp := wp }
def madeAt (kind : AccessKind) (pa cc wp scope : Nat) (lv : Level) (d : List Byte) (ls : List CacheLine) : State :=
  (withWarp fun w => { w with accs := w.accs.map fun a => { a with scope := scope } })
    (inFlight kind 0 .none { inMemory d with place := .mem pa (pageOf pa cc wp), level := lv, va := pa } (sA.modDie 0 fun k => { k with lines := ls }))
def heldLine (sc : Bool) (dirty poison : BitVec 128) : CacheLine := ⟨false, 256, 0, 0, sc, false, dirty, List.replicate 128 5, poison, 0⟩
def farPa : Nat := 5 * 2 ^ 36 + 0x8000

/-- What a unit of a state asks for is as the statements ask: no earlier store in sight, nothing of the line on its way, memory in order. -/
def atEase (s : State) (pa : Nat) : Bool :=
  (s.flight? ⟨0, 0, 0⟩ 5).any fun f => f.acc.units.all (fun u => !(f.blocked u) && (u.level == .coh || !(s.waitsEarly f u))) && (s.earlies 0).all (fun e => e.unit.level != .issued) &&
    s.memory.wf && !(s.leaving 0 pa) && !(s.memory.ownOnWay 0 (lineOf pa)) && pa % 128 + 4 ≤ 128 && s.memory.sent.isEmpty && s.memory.log.isEmpty

/-- Loads: of an HC line, of a held SC line within the die and CP line, beyond the die with a clean copy, and of lines not held. -/
theorem test_witness_ResultsReturn_bytes : (∀ x ∈ [(0, 0, []), (1, 3, [heldLine true 1 0]), (2, 5, [heldLine false 1 0]), (1, 4, [heldLine true 0 0]), (1, 5, []), (2, 0, [])],
      atEase (madeAt .load 0x8000 x.1 0 x.2.1 .issued [] x.2.2) 0x8000 = true ∧
      (((madeAt .load 0x8000 x.1 0 x.2.1 .issued [] x.2.2).flight? ⟨0, 0, 0⟩ 5).bind fun f => (f.acc.units.head?.bind fun u =>
        (madeAt .load 0x8000 x.1 0 x.2.1 .issued [] x.2.2).readUnit f u).map fun r => (r.1, r.2.1)) =
          some (if x.1 ≠ 0 ∧ x.2.2 ≠ [] ∧ (x.2.1 ≤ 3 ∨ x.1 = 2) then [5, 5, 5, 5] else [0, 0, 0, 0], false)) ∧
    (sLoad.group? ⟨0, 0⟩).map (fun g => (g.rowsOut, (sLoad.core g.die g.core).windows.any (·.open_))) = some (false, false) := by decide +kernel

/-- Die 3 has sent one write to stack 0; another of die 4 the home has applied and die 0 has not. -/
def sent3 : Packet := ⟨1, 3, 1, 0x8000, [9], false, [], none, [], false, none, true, 0, []⟩
def sSent : State := { sA with memory := { sA.memory with
  sent := [sent3]
  log := [⟨2, 4, 1, 0x9000, [8], false, [], some [0], [], false, none, true, 0, []⟩] } }
def sLate : State := { sA with memory := { sA.memory with sent := [{ sent3 with deps := [(4, 1)] }, ⟨2, 4, 1, 0x9000, [8], false, [], none, [], false, none, true, 0, []⟩] } }

/-- Writes of a die's own on their way, and of another's that it has applied. -/
theorem test_witness_ResultsReturn_views : (sSent.memory.sent = [] ++ sent3 :: [] ∧ sent3.src = 3 ∧ covers sent3.pa sent3.bytes.length 0x8000 = true) ∧
    (∀ p ∈ sSent.memory.sent, p.src = 4 → covers p.pa p.bytes.length 0x9000 = false) ∧
    ∀ p ∈ sSent.memory.log, covers p.pa p.bytes.length 0x9000 = true → p.seenBy 4 = true := by decide +kernel

def sStore : State := inFlight .store 0 .none (inScratch [1, 2, 3, 4]) sA
def sStoreIo : State := inFlight .store 0 .none (inMemory [1, 2, 3, 4]) sA
def sMred : State := inFlight .mred 0 .none (inMemory [1, 0, 0, 0]) sA

theorem test_witness_StoresPerform : flying sStore = some ([inScratch [1, 2, 3, 4]], .store, false) ∧
    (sStore.group? ⟨0, 0⟩).map (fun g => (g.rowsOut, cellsWf g.scratch)) = some (false, true) ∧
    flying sStoreIo = some ([inMemory [1, 2, 3, 4]], .store, false) ∧ ioPage.cc = 2 ∧ ioPage.pp = none ∧ sStoreIo.memory.wf = true ∧
    flying sAtom = some ([inScratch [1, 0, 0, 0]], .atom, false) ∧ (sAtom.group? ⟨0, 0⟩).map (fun g => (g.rowsOut, cellsWf g.scratch)) = some (false, true) := by
  decide +kernel

/-- The store at each level on its way to its die; the line it goes to is held, or is not. -/
def held0 : CacheLine := ⟨false, 256, 0, 0, false, false, 0, List.replicate 128 5, 0, 0⟩
def wpPage (wp : Nat) : Page := { page0 with cc := 2, wp := wp }
def sStoreAt (lv : Level) (wp : Nat) (ls : List CacheLine) : State :=
  inFlight .store 0 .none { inMemory [1, 2, 3, 4] with place := .mem 0x8000 (wpPage wp), level := lv } (sA.modDie 0 fun d => { d with lines := ls })

theorem test_witness_StoresPerform_levels : (∀ lv ∈ [(Level.issued, Level.grp), (.grp, .clu), (.clu, .coh)],
      ((sStoreAt lv.1 0 []).flight? ⟨0, 0, 0⟩ 5).map (fun f => ((sStoreAt lv.1 0 []).crowded f 0x8000 4 lv.2, f.acc.units.map (·.level),
        f.acc.units.any fun u => u.level == .issued && (sStoreAt lv.1 0 []).waitsEarly f u)) = some (false, [lv.1], false)) ∧
    ((sStoreAt .coh 2 []).cached? 0 (lineOf 0x8000)) = none ∧ (sStoreAt .coh 2 []).homeOf (stackOf 0x8000) = 0 ∧ (wpPage 2).cc ≠ 0 ∧
    ((sStoreAt .coh 0 [held0]).cached? 0 (lineOf 0x8000)) = some held0 ∧ held0.data.length = 128 ∧ 0x8000 % 128 + 4 ≤ 128 ∧ (wpPage 0).pp = none ∧
    ((sStoreAt .coh 0 [held0]).flight? ⟨0, 0, 0⟩ 5).map (fun f => (f.die, f.acc.nt, decide (f.acc.scope ≤ 3), f.acc.pol)) = some (0, false, true, 0) := by decide +kernel

/-- Stores at the cohort's level: to a held line of a write-through page, to an HC line of the die's own stack or another's; and at the die's, its
packet alone or behind another. -/
theorem test_witness_StoresPerform_hc : (∀ x ∈ [(0x8000, 1, 1, [heldLine true 0 0]), (0x8000, 2, 1, [heldLine false 0 0]), (0x8000, 0, 0, []), (farPa, 0, 0, [])],
      let s := madeAt .store x.1 x.2.1 x.2.2.1 0 .coh [1, 2, 3, 4] x.2.2.2
      atEase s x.1 = true ∧ (s.cached? 0 (lineOf x.1)) = x.2.2.2.head? ∧ (s.homeOf (stackOf x.1) == 0) = (x.1 == 0x8000) ∧ (pageOf x.1 x.2.1 x.2.2.1).pp = none ∧
        s.memory.dirAt (lineOf x.1) ≠ .o 0 ∧ (s.die 0).lines.all (fun l => !l.sc || l.dirty == 0) = true) ∧
    (∀ x ∈ [(Option.none, [], true), (none, [{ sent3 with id := 2, src := 4 }], true), (some [0], [{ sent3 with id := 2, src := 0, seq := 0 }], false)],
      let p : Packet := { sent3 with src := 0, old := x.1 }
      let s := inFlight .store 0 .none { inMemory [9] with place := .mem 0x8000 (pageOf 0x8000 0 0), level := .die, len := 1, packet := some 1 }
        { sA with memory := { sA.memory with sent := x.2.1 ++ (if x.1 = none then [p] else []), log := if x.1 = none then [] else [p] } }
      (s.memory.sent ++ s.memory.log).find? (·.id == 1) = some p ∧ s.memory.wf = true ∧ flying s = some ([{ inMemory [9] with place := .mem 0x8000 (pageOf 0x8000 0 0), level := .die, len := 1, packet := some 1 }], .store, false) ∧
        ((s.memory.sent ++ s.memory.log).all fun q => q.id == 1 || q.all || !(before q p)) = x.2.2) := by decide +kernel

/-- ATOM at the home of an HC line and of an SC line, poisoned or not, and in a held line; its page's home is the die. -/
theorem test_witness_StoresPerform_atomics : (∀ x ∈ [(0, 0, [], []), (1, 4, [], []), (1, 3, [heldLine true 0 0], []), (2, 5, [heldLine false 0 0], []), (0, 0, [], [0x8000])],
      let s0 := madeAt .atom 0x8000 x.1 0 x.2.1 .issued [1, 0, 0, 0] x.2.2.1
      let s : State := { s0 with memory := { s0.memory with poison := x.2.2.2 } }
      atEase s 0x8000 = true ∧ s.homeOf (stackOf 0x8000) = 0 ∧ (s.cached? 0 (lineOf 0x8000)) = x.2.2.1.head? ∧ s.memory.poisoned 0x8000 4 = !x.2.2.2.isEmpty ∧
        (heldLine true 0 0).data.length = 128 ∧ linePoisoned (heldLine true 0 0) (0x8000 % 128) 4 = false) ∧
    (sMred.memory.poisoned 0x8000 4 = false ∧ ({ sMred with memory := { sMred.memory with poison := [0x8000] } } : State).memory.poisoned 0x8000 4 = true) := by decide +kernel

theorem test_witness_HomesApply : sSent.isLive (sSent.homeOf 0) = true ∧ sSent.memory.nextFor (sSent.homeOf 0) 3 = some sent3 ∧
    sSent.memory.applicable (sSent.homeOf 0) sent3 = true ∧ sSent.homeOf (stackOf sent3.pa) = sSent.homeOf 0 ∧ sSent.memory.wf = true ∧
    (sSent.memory.nextFor 0 4).map (fun p => (sSent.memory.applicable 0 p, p.old.isSome)) = some (true, true) ∧
    (sLate.memory.nextFor 0 3).map (sLate.memory.applicable 0) = some false ∧
    flying sMred = some ([inMemory [1, 0, 0, 0]], .mred, false) ∧ ioPage.cc ≠ 0 ∧ sMred.memory.wf = true ∧ sMred.homeOf (stackOf 0x8000) = 0 ∧
    sMred.leaving 0 0x8000 = false ∧ sMred.memory.ownOnWay 0 (lineOf 0x8000) = false := by decide +kernel

/-- The A-strand waits for the page of address 0. -/
def sWalk : State := prepared (withWarp fun w => { w with a := { w.a with walking := [(0, false)] } }) .a

theorem test_witness_WalksComplete : sWalk.isLive 0 = true ∧
    (sWalk.walkers 0 0 0).map (fun x => (x.1.key, x.1.core)) = [(⟨0, 0⟩, 0)] ∧
    (∃ s1 p, sWalk.resolve 0 0 0 0 = (s1, .ok p) ∧ p.qz = false) ∧
    (∃ s1 r, sWalk.resolve 0 0 0 0x40000000000 = (s1, .error r)) :=
  ⟨by decide +kernel, by decide +kernel, ⟨_, _, rfl, rfl⟩, _, _, rfl⟩
/-- The first entry of level 2 is e; die 0 has page in reserve, or the ring at 0xB000 of its stack holds it, or no ring does. -/
def sEntry (e : Nat) (reserve : Bool) (n : Nat) : State :=
  let s := sC.modDie 0 fun d => { d with reserve := if reserve then [(2, 0x40000000)] else [] }
  { s with
      rings := [((5, 2), 0xC000), ((0, 2), 0xB000)]
      memory := ((s.memory.store 0x3000 (leBytes 8 e)).store 0xB000 (leBytes 4 4 ++ leBytes 4 7 ++ leBytes 4 (7 + n))).store 0xB058 (leBytes 8 0x40000000) }

/-- Leaves of 1 GiB: one that is homed, one asked for first, of a page in reserve, of a ring, and of none; entries that are not present, reserved, of a
table too low, with reserved bits; an address that is not canonical. -/
theorem test_witness_WalksComplete_tables : (sC.domain 0).root = some 0x1000 ∧ (0 / 2 ^ 56 = 0 ∧ (2 ^ 56 - 1 : Nat) / 2 ^ 56 = 0 ∧ (2 ^ 56 : Nat) / 2 ^ 56 = 1 ∧ (2 ^ 64 - 1 : Nat) / 2 ^ 56 = 255) ∧
    (∀ x ∈ [(0xF, false), (0x200F, true), (0x200F + 0x40 + 0xFFF * 2 ^ 52, true)],
      let s := sEntry x.1 x.2 1
      (∀ k ∈ [0, 1], let e := s.levelEntry 0x1000 0 k
        e % 4 = 1 ∧ e / 4 % 64 = 0 ∧ e / 2 ^ 48 = 0 ∧ e / 256 % 16 = 0 ∧ s.tableAt 0x1000 0 (k + 1) = 0x2000 + 0x1000 * k) ∧ 0x3000 % 2 ^ 36 < Config.stackBytes / 2097152 * 2097152 ∧
      s.levelEntry 0x1000 0 2 = x.1 ∧ x.1 / 2 ^ 9 % 4 ≠ 3 ∧ x.1 / 2 ^ 7 % 4 ≠ 3 ∧ x.1 / 2 ^ 5 % 4 ≠ 3 ∧ x.1.testBit 15 = false ∧ (x.1 / 2 ^ 52 = 0 ∨ (x.1 / 2 ^ 5 % 4 = 2 ∧ x.1 / 2 ^ 52 = 0xFFF)) ∧
      x.1.testBit 13 = x.2 ∧ x.1.testBit 14 = false ∧ s.memory.wf = true ∧ tableGet 2 (s.die 0).reserve = (if x.2 then some 0x40000000 else none)) ∧
    (0 % leafBytes 2 = 0 ∧ 0 % 2 ^ 36 + leafBytes 2 ≤ Config.stackMappable) ∧
    (∀ e ∈ [0, 0x603, 0x183, 0x63, 0x8043, 0x5, 2 ^ 48 + 1], (sEntry e false 0).levelEntry 0x1000 0 2 = e ∧
      (e % 2 = 0 ∨ (e % 4 = 3 ∧ (e / 2 ^ 9 % 4 = 3 ∨ e / 2 ^ 7 % 4 = 3 ∨ e / 2 ^ 5 % 4 = 3 ∨ (e.testBit 15 = true ∧ e / 2 ^ 5 % 4 = 2))) ∨
        (e % 4 = 1 ∧ (e / 2 ^ 48 ≠ 0 ∨ e / 4 % 64 ≠ 0)))) := by decide +kernel

theorem test_witness_WalksComplete_rings : (∀ n ∈ [0, 1], let s := sEntry 0x200F false n
      tableGet 2 (s.die 0).reserve = none ∧ s.memory.nat 0xB000 4 = 4 ∧ s.memory.nat 0xB004 4 = 7 ∧ s.memory.nat 0xB008 4 = 7 + n ∧
        s.memory.nat (0xB000 + 0x40 + 8 * (7 % 4)) 8 = 0x40000000 ∧ s.memory.nat 0xC004 4 = s.memory.nat 0xC008 4) ∧
    ((0 : Nat) ≠ 5 ∧ ∀ q ∈ (sEntry 0x200F false 1).rings, q.1.1 < 512) ∧ 0x40000000 % 65536 = 0 ∧ 0x40000000 < 2 ^ 48 ∧
    (let m := (sEntry 0x200F false 1).memory.store 0xB004 (leBytes 4 8); m.nat 0xB004 4 = (7 + 1) % 2 ^ 32 ∧
      ∀ i < 8, m.byte (0x3000 + i) = (sEntry 0x200F false 1).memory.byte (0x3000 + i)) ∧
    ((sEntry 0x200F false 1).resolve 0 0 0 0).2.isOk = true ∧ ((sEntry 0x200F false 0).resolve 0 0 0 0).2.isOk = false := by decide +kernel
/-- Descriptors of a COPY, a COPYG and a COPYS at 0x8000, with two layout records; the group has eight rows of scratch. -/
def plainDesc : List Byte := leBytes 8 0x9000 ++ leBytes 8 0xFF000000 ++ leBytes 4 16 ++ leBytes 4 2
def gatherDesc : List Byte := leBytes 8 0x9000 ++ leBytes 8 0xFF000000 ++ leBytes 4 0 ++ leBytes 4 2 ++ leBytes 8 0xA000 ++ leBytes 4 1 ++ leBytes 4 4 ++
  leBytes 4 0 ++ leBytes 4 0 ++ leBytes 4 1
def tileDesc : List Byte := leBytes 8 0 ++ leBytes 8 0 ++ leBytes 4 0 ++ leBytes 4 0 ++ leBytes 8 0x8100 ++ leBytes 8 0x8140 ++ leBytes 8 0 ++ leBytes 8 0 ++
  leBytes 2 1 ++ leBytes 2 1
def layoutRec (base kind : Nat) : List Byte := leBytes 8 base ++ leBytes 4 4 ++ leBytes 4 4 ++ leBytes 4 4 ++ leBytes 1 2 ++ leBytes 1 kind
def sCopy (d : List Byte) : State := prepared (fun s =>
  { (mapped s).modGroup ⟨0, 0⟩ (fun g => { g with scRows := 8 }) with
      memory := ((s.memory.store 0x8000 d).store 0x8100 (layoutRec 0x9000 0)).store 0x8140 (layoutRec 0xFF000000 1) }) .a
def copyM : FormM := ⟨0, 0, 0, 0, 0, false, false, 0, 0x8000⟩

/-- The checks of a copy pass, its descriptor is read, and its plan has nothing wrong. -/
def copyFits (d : List Byte) (plan : State → Ctx → List Byte → Plan) : Bool :=
  match (sCopy d).ctx? with
  | none => false
  | some c =>
    let k := (sCopy d).checkRecord c 0 64 (c.eaOf copyM 8 false 0)
    k.miss.isEmpty && k.bad.isEmpty && !k.wait && c.firstLane? h0 == some 0 &&
      match c.readEights 8 (c.eaOf copyM 8 false 0).toNat (k.pages.foldl (fun s x => s.reach c.grp.die c.grp.core c.grp.dom false x) (sCopy d)) with
      | none => false
      | some (s2, b) => (plan s2 c b).bad.isEmpty && (plan s2 c b).total != 0

theorem test_witness_CopiesStart : copyFits plainDesc (fun s c d => s.planPlain c 0 d) = true ∧ copyFits gatherDesc (fun s c d => s.planGather c 0 d) = true ∧
    copyFits tileDesc (fun s c d => s.planTile c 0 d (layoutOf (s.memory.bytes 0x8100 32)) (layoutOf (s.memory.bytes 0x8140 32))) = true ∧
    tileFields (tileDesc ++ List.replicate 8 0) = true ∧ ctlBit plainDesc 2 = false := by decide +kernel

theorem test_witness_CopiesStart_idle : sA.ctx? = some cA ∧ cA.firstLane? ⟨false, 0, true⟩ = none := ⟨ctxOf_eq _ _, by decide +kernel⟩

/-- A copy of 16 bytes into scratch that is running, one that has written them, and one whose source is not mapped. -/
def copyOf (src cursor : Nat) : Copy := ⟨9, ⟨0, 0⟩, 0, 0, 0, 0, 0x8000, .plain src 0 16, none, some ⟨0, 0⟩, some 0, 0, false, false, [], [], [], cursor, 16, .running,
  false, 0, 0, [], []⟩
def sCopying (k : Copy) : State := { prepared (fun s => (mapped s).modGroup ⟨0, 0⟩ fun g => { g with scRows := 8 }) .a with copies := [k] }

theorem test_witness_CopiesProgress : (sCopying (copyOf 0x9000 0)).copy? 9 = some (copyOf 0x9000 0) ∧ (copyOf 0x9000 0).run = .running ∧
    (sCopying (copyOf 0x9000 0)).relDone (copyOf 0x9000 0) = true ∧ (sCopying (copyOf 0x9000 0)).isLive 0 = true ∧ (copyOf 0x9000 0).chunks = 1 ∧
    (copyOf 0x9000 0).chunkLen 0 = 16 ∧ (sCopying (copyOf 0x9000 0)).poisonIn (copyOf 0x9000 0) 0 16 = none ∧
    ((sCopying (copyOf 0x9000 0)).reachRows (copyOf 0x9000 0) 16).2 = (copyOf 0x9000 0, none) ∧
    (match State.moveBytes (0, 16) 4 0 (sCopying (copyOf 0x9000 0)) (copyOf 0x9000 0) with
      | .ok _ _ => true
      | _ => false) = true ∧
    (sCopying (copyOf 0x9000 1)).copyPerformed (copyOf 0x9000 1) = true ∧
    ((sCopying (copyOf 0x40000000000 0)).copyFault (copyOf 0x40000000000 0)).2.2.isSome = true ∧
    (({ sCopying (copyOf 0x40000000000 0) with domains := [⟨0, some 0x1000, some (0x200000, 0x400000), 0, 0⟩] } : State).faultFree 0 0) = true ∧
    sMap.ctx? = some cMap ∧ cMap.firstLane? h0 = some 0 := by
  and_intros <;> first | exact ctxOf_eq _ _ | rfl | decide +kernel

/-- Within scratch, 16 bytes from 0 on to 600 on, as COPY, as gathered and scattered rows of 8 (entry 1 at the limit), as tiles of a matrix of 4 × 4 words. -/
def innerKinds : List CopyKind := [.plain 0 600 16, .gather false 0 600 0x9000 2 8 8 8 1, .gather true 0 600 0x9000 2 8 8 8 1,
  .tile (0, 4, 4, 4) (600, 4, 4, 4) 4 0 0 0 0 2 2 0]
def innerCopy (kind : CopyKind) : Copy := { copyOf 0 0 with kind := kind, srcS := some ⟨0, 0⟩, index := [0, 1] }
def gapless (k : Copy) : Bool := (List.range 16).all fun i => (k.byte i).any fun b => (List.range 16).all fun j => (k.byte j).any fun c =>
  (b.src == none || b.src != c.dst) && (i == j || b.dst == none || b.dst != c.dst)

theorem test_witness_CopiesProgress_scratch : ∀ kind ∈ innerKinds, let k := innerCopy kind; let s := sCopying k
    s.copy? 9 = some k ∧ s.relDone k = true ∧ s.isLive k.die = true ∧ k.chunks = 1 ∧ k.chunkAt 0 = 0 ∧ k.chunkLen 0 = 16 ∧ k.written 0 = 0 ∧ k.old = [] ∧ k.total = 16 ∧
      k.rowsBelow 16 ≤ k.index.length ∧ (s.group? ⟨0, 0⟩).map (fun g => (g.rowsOut, cellsWf g.scratch, (s.core g.die g.core).windows.any (·.open_))) = some (false, true, false) ∧
      gapless k = true := by decide +kernel

/-- From memory to scratch and back: byte 0 of a chunk, the page HC and both ways open. -/
theorem test_witness_CopiesProgress_memory : (∀ x ∈ [(none, some (⟨0, 0⟩ : GroupKey), 0x9000, 0), (some ⟨0, 0⟩, none, 0, 0x9000)],
    let k : Copy := { copyOf 0 0 with kind := .plain x.2.2.1 x.2.2.2 16, srcS := x.1, dstS := x.2.1 }
    let s := sCopying k
    s.relDone k = true ∧ k.chunkLen 0 = 16 ∧ k.rowsBelow 16 = 0 ∧ s.poisonIn k 0 16 = none ∧ s.memory.wf = true ∧ k.srcS ≠ k.dstS ∧
      (match s.resolve 0 0 0 0x9000 with
        | (t, .ok p) => t == s && !p.qz && p.pp.isNone && p.cc == 0 && p.at_ 0x9000 == 0x9000 && p.r && p.w && !p.fx && (0x9001 ≤ p.leafAt || p.leafAt + 8 ≤ 0x9000)
        | _ => false) = true ∧
      s.earlies 0 = [] ∧ s.leaving 0 0x9000 = false ∧ s.memory.poisoned 0x9000 1 = false ∧ s.inCode 0 0x9000 1 = false ∧ s.inWorkspace 0 0x9000 = false ∧
      s.memory.ownOnWay 0 (lineOf 0x9000) = false) ∧
    takesElem 0 2 3 2 ∧ takesElem 1 (-1) 3 0 ∧ takesElem 1 3 3 2 ∧ takesElem 2 (-2) 3 1 ∧ takesElem 2 3 3 2 ∧ ([0, 1] : List Nat)[8 / 8]? = some 1 := by
  refine ⟨by decide +kernel, .inl ⟨by decide, by decide, by decide⟩, .inr (.inl ⟨rfl, .inl ⟨by decide, rfl⟩⟩), .inr (.inl ⟨rfl, .inr ⟨by decide, by decide⟩⟩),
    .inr (.inr ⟨rfl, .inl ⟨by decide, by decide, by decide⟩⟩), .inr (.inr ⟨rfl, .inr ⟨by decide, by decide, by decide⟩⟩), rfl⟩

/-- CPSTAT on each of its modes: the stage at its count or below, aborted with poison. -/
theorem test_witness_CopiesProgress_cpstat : cMap.firstLane? h0 = some 0 ∧ (cMap.x 0 0).toNat ≤ (cMap.grp.stages.getD 0 Stage.zero).count.toNat ∧
    (cMap.grp.stages.getD 0 Stage.zero).abortBit = false ∧ (∀ i ∈ [0, 1, 2, 3, 4], (BitVec.ofNat 24 (8 * i)).toNat / 8 = i) ∧
    ((prepared (fun s => s.modGroup ⟨0, 0⟩ (·.setStage 0 fun t => { t with abortBit := true, poisonAbort := true })) .a).ctx?.map fun c =>
      ((c.grp.stages.getD 0 Stage.zero).abortBit, (c.grp.stages.getD 0 Stage.zero).poisonAbort)) = some (true, true) ∧
    ((prepared (withWarp fun w => { w with lanes := w.lanes.map fun k => { k with x := k.x.set! 1 1 } }) .a).ctx?.map fun c =>
      ((c.grp.stages.getD 0 Stage.zero).count.toNat, (c.x 0 1).toNat)) = some (0, 1) := by decide +kernel

/-- The first GiB is a publish pair of flip entry 3; a flip of it at each of its stages. -/
def sPair (f : List Flip) : State := { prepared (fun s => (withWarp (fun w => { w with a := { w.a with publish := if f.isEmpty then none else some 7 } }) s).modDie 0
  fun d => { d with tlb := [((0, 0), { page0 with pp := some 3 })] }) .a with flips := f }
def flipAt (stage : Nat) (dies : List Nat) : Flip := ⟨7, 3, ⟨0, 0, 0⟩, 0, stage, dies, dies, 0⟩

theorem test_witness_PublishFlips :
    (match (sPair []).ctx? with
      | none => false
      | some c => c.firstLane? h0 == some 0 && (sPair []).look c (vaOf (c.eaOf copyM 8 false 0) 0) == .page { page0 with pp := some 3 } &&
        !((sPair []).copyInto c.grp 3)) = true ∧
    (sPair [flipAt 0 []]).flip? 7 = some (flipAt 0 []) ∧ (sPair [flipAt 1 []]).isLive 0 = true ∧
    ((sPair [flipAt 2 []]).warp? ⟨0, 0, 0⟩).map (fun w => (w.a.publish, w.key)) = some (some 7, ⟨0, 0, 0⟩) := by decide +kernel

theorem live_in_range (s : State) (l : List Nat) (h : l = List.range Config.dies) : ∀ d ∈ s.liveDies, d ∈ l := fun _ k => h ▸ (List.mem_filter.1 k).1

theorem test_witness_PublishFlips_all (l : List Nat) (h : l = List.range Config.dies) :
    (∀ d ∈ (sPair [flipAt 1 l]).liveDies, d ∈ (flipAt 1 l).closed) ∧ (∀ d ∈ (sPair [flipAt 2 l]).liveDies, d ∈ (flipAt 2 l).taken) :=
  ⟨live_in_range _ l h, live_in_range _ l h⟩
/-- A copy of the group into the buffer; a flip that has begun on the die, one behind another of its entry; a page of no pair. -/
theorem test_witness_PublishFlips_waits : ((sPair []).ctx?.map fun c => ({ sPair [] with memory := (sPair []).memory.store 0x3000 (leBytes 8 (3 * 2 ^ 52 + 0x800F)), flipOwner := [(3, 0)], copies := [{ copyOf 0x9000 0 with kind := .plain 0 0x9000 16, srcS := some ⟨0, 0⟩, dstS := none }] } : State).copyInto c.grp 3) = some true ∧
    cMap.firstLane? h0 = some 0 ∧ sMap.look cMap (vaOf (cMap.eaOf copyM 1 false 0) 0) = .page page0 ∧ page0.pp = none ∧ cA.firstLane? ⟨false, 0, true⟩ = none ∧
    (sPair [flipAt 1 []]).begun 0 3 = false ∧ ((sPair [flipAt 2 []]).liveDies.length ≠ 0) ∧ 0 ∉ (flipAt 2 []).taken := by decide +kernel
/-- The group has accumulator rows for 17 tiles an octet; one matrix operation is queued. -/
def arrayed (ops : List MatOp) : State → State := fun s => { s.modGroup ⟨0, 0⟩ (fun g => { g with accRows := 400 }) with matOps := ops }
def opZero (slot : Option Nat) : MatOp := ⟨1, ⟨0, 0, 0⟩, .mz 0 false false [(1, 1)], slot, 0, []⟩
def sArray (ops : List MatOp) : State := prepared (arrayed ops) .c
def cArray : Ctx := ctxOf (sArray []) (by decide +kernel)
def x0 : FormX := ⟨0, 0, 0, 0, 0, 0, 0, 0, false, 0⟩

theorem test_witness_MatrixIssues : (sArray []).ctx? = some cArray ∧
    (∃ o, matReq cArray (.mz h0 x0) = some o ∧ cArray.lqGate (lqNeed o.codes) = .go ∧ cArray.parted = false ∧ cArray.machine o.b = none ∧
      cArray.grp.tiles.isSome = true ∧ o.bad = [] ∧ o.kind.isSome = true ∧ ((sArray []).matOps.filter (·.w == cArray.iss.w)).length < 64) ∧
    (sArray []).matOps = [] ∧ cArray.machine none = none ∧ (opZero (some 0)).slot = some x0.imm8.toNat ∧ (opZero none).w = cArray.iss.w := by
  refine ⟨ctxOf_eq _ _, ⟨_, rfl, ?_⟩, rfl, ?_, rfl, rfl⟩ <;> decide +kernel

/-- What stops a matrix instruction: a part of the warp, an error of its rows or of its latch's, no tile; a slot that holds a batch or not. -/
def sMatStop (f : Warp → Warp) (acc : Nat) : State := prepared (fun s => (withWarp f s).modGroup ⟨0, 0⟩ fun g => { g with accRows := acc }) .c

theorem test_witness_MatrixIssues_stops : (∀ x ∈ [((fun w => { w with c := parted w.c } : Warp → Warp), 400, true, none, none, true), (fun w => { w with machineCheck := some 7 }, 400, false, some 7, some 7, true),
      (fun w => { w with latchCheck := [(false, 9)] }, 400, false, none, some 9, true), (id, 0, false, none, none, false)],
      ((sMatStop x.1 x.2.1).ctx?.map fun c => (c.parted, c.warp.machineCheck, (c.machine (some false)).isSome, c.grp.tiles.isSome, c.lqGate (lqNeed [0]) == .go)) =
        some (x.2.2.1, x.2.2.2.1, x.2.2.2.2.1.isSome, x.2.2.2.2.2, true)) ∧
    ((sMatStop (fun w => { w with latchCheck := [(false, 9)] }) 400).ctx?.bind fun c => c.warp.latchCheck.find? (·.1 == false)) = some (false, 9) ∧
    (∃ o, matReq cArray (.mma h0 { x0 with ta := 6, tb := 6 }) = some o ∧ o.b = some false) ∧
    ((List.replicate 64 (opZero none)).filter (·.w == cArray.iss.w)).length = 64 ∧ (∀ m ∈ [opZero none], m.slot ≠ some x0.imm8.toNat) := by
  refine ⟨by decide +kernel, by decide +kernel, ⟨_, rfl, rfl⟩, by decide +kernel, by decide +kernel⟩

theorem test_witness_MatrixPerforms : (sArray [opZero none]).matOps.find? (·.id == 1) = some (opZero none) ∧
    (((sArray [opZero none]).group? ⟨0, 0⟩).bind fun g => g.warp? ⟨0, 0, 0⟩).isSome = true ∧
    (sArray [opZero none]).matOps.find? (·.w == ⟨0, 0, 0⟩) = some (opZero none) := by decide +kernel

/-- One operation of each kind, of octet 0, that is the warp's oldest and is performed. -/
def matKinds : List MatKind := [.loadA 6 [(0, [some 0])], .loadB false 8 [0, 148], .mma 0 8 6 6 false false true false [(0, 1)], .mma 0 8 9 10 false true false true [(0, 1)],
  .mmax 0 8 false true true false [(0, 1)], .msca 0 8 [(0, 1, [127], [127])], .mz 0 true true [(0, 1)], .mdr 0 8 6 4 [(0, [some 0])], .mdra 0 8 8 0 [(0, 1)],
  .mcfg (some 5) none]
def sPerforms (kind : MatKind) : State := { sArray [{ opZero none with kind := kind, rows := [(0, [List.replicate 16 3])] }] with
  groups := (sArray []).groups.map fun g => { g with scRows := 8 } }

theorem test_witness_MatrixPerforms_kinds : ∀ kind ∈ matKinds,
    ((sPerforms kind).matOps.head?.map fun m => ((sPerforms kind).matOps.find? (·.id == m.id) == some m, (sPerforms kind).matOps.find? (·.w == m.w) == some m)) = some (true, true) ∧
    (((sPerforms kind).group? ⟨0, 0⟩).bind fun g => (g.warp? ⟨0, 0, 0⟩).map fun w => (w.cfgBad == none, (g.bLatch false).bad.isEmpty && cellsWf g.scratch,
      (List.range 2).all fun o => (w.octet o).bad.isEmpty && (w.octet o).latch.bad.isEmpty)) = some (true, true, true) := by decide +kernel

theorem test_witness_MatrixPerforms_next : ∀ kind ∈ matKinds, (match exec (.matrixOpComplete 1) (sPerforms kind) with
    | .next _ => true
    | _ => false) = true := by decide +kernel

/-- Rows of the pool with an error: a row of the A latch, a row of the tile, a column of the B latch. -/
theorem test_witness_MatrixPerforms_errors : overlaps (148 * 0) 148 (128 * 1) (4 * codeBits 6) = true ∧ overlaps (148 * 1) 148 (128 * 1) (4 * codeBits 6) = true ∧
    ∃ q ∈ [(tileRow (some 0) 0 0, 5)], q.1 = tileRow (some 0) 0 0 := by decide +kernel

/-- Slice 0 a gang of its own, at call level 8 or at none. -/
def sDeep : State := prepared (withWarp fun w => { w with
  c := let t := parted w.c; { t with slices := t.slices.map fun k => { k with calls := List.replicate 8 ⟨0, 0, [], 0, 0⟩ } } }) .c
def cDeep : Ctx := ctxOf sDeep (by decide +kernel)

theorem test_witness_CallsComplete : sDeep.ctx? = some cDeep ∧ cDeep.slices = [0] ∧ 8 ≤ (cDeep.st.slice 0).calls.length ∧ sC.ctx? = some cC ∧
    (∀ i ∈ cC.slices, (cC.st.slice i).calls.length < 8) ∧ cC.lqGate (lqNeed [8]) = .go ∧ sA.ctx? = some cA ∧ cA.iss.strand = .a :=
  ⟨ctxOf_eq _ _, by decide +kernel, by decide +kernel, ctxOf_eq _ _, by decide +kernel, by decide +kernel, ctxOf_eq _ _, by decide +kernel⟩

/-- The A-strand has ended its phase. -/
def sAhead : State := prepared (withWarp fun w => { w with a := { w.a with phaseId := some 0 } }) .c
def cAhead : Ctx := ctxOf sAhead (by decide +kernel)

theorem test_witness_ExitsComplete : sC.ctx? = some cC ∧ cC.warp.handler = false ∧ (cC.warp.strand (other cC.iss.strand)).phaseId = none ∧ cC.iss.strand = .c ∧
    sAhead.ctx? = some cAhead ∧ cAhead.warp.handler = false ∧ (cAhead.warp.strand (other cAhead.iss.strand)).phaseId.isSome = true ∧
    (∀ i, i < cAhead.st.slices.length → i ∈ cAhead.slices ∨ (cAhead.st.slice i).live = 0) ∧
    (∀ i ∈ cAhead.slices, (cAhead.st.slice i).live &&& ~~~(cAhead.st.slice i).active = 0) := by
  refine ⟨ctxOf_eq _ _, ?_, ?_, ?_, ctxOf_eq _ _, ?_, ?_, ?_, ?_⟩ <;> decide +kernel

/-- Slice 0 has called, and two of its lanes have returned. -/
def sCalled : State := prepared (withWarp fun w => { w with
  c := let t := parted w.c; { t with slices := t.slices.map fun k => { k with active := 12, calls := [⟨8, 0, List.replicate 4 (Vector.replicate 8 7), 3, 0⟩] } } }) .c
def cCalled : Ctx := ctxOf sCalled (by decide +kernel)

theorem test_witness_ExitsComplete_return : sCalled.ctx? = some cCalled ∧ cCalled.warp.handler = false ∧ 0 ∈ cCalled.slices ∧ cCalled.slices.Nodup ∧
    0 < cCalled.st.slices.length ∧ (cCalled.st.slice 0).calls.map (fun f => (f.retPc, f.depth, f.returned)) = [(8, 0, 3)] ∧
    (cCalled.st.slice 0).stack.length ≤ 0 ∧ (cCalled.st.slice 0).live ≠ 0 ∧ (cCalled.st.slice 0).hold = .none ∧
    ({ (cCalled.st.slice 0) with pc := 8, active := (3 ||| (cCalled.st.slice 0).active) &&& (cCalled.st.slice 0).live, calls := [] } : Slice).goesOn = true :=
  ⟨ctxOf_eq _ _, by decide +kernel⟩

/-- A bound table of one port at 0x9000: rows of 16 bytes, 4 elements, inbox of 2 at row 10 of the one group, CAP cap; the group is resident
and has 20 rows of scratch with a routing descriptor at 0 and its vector of one row at 64: port 0, weight 1. -/
def scratchDesc : List Byte := leBytes 4 0xFF000080 ++ leBytes 4 4 ++ leBytes 4 0xFF000040 ++ leBytes 4 0xFF000100 ++ leBytes 4 4 ++ leBytes 2 1
def scratchVec : List Byte := leBytes 4 0x3F800000 ++ leBytes 1 0 ++ leBytes 1 1
def cellsAt (a : Nat) (d : List Byte) : List Host.Cell := (mapIdxList (fun i b => (a + i, b)) d).filter fun p => p.2 != 0
def routed (cap : Nat) : State → State := fun s =>
  let t := (mapped s).modGroup ⟨0, 0⟩ fun g => { g with scRows := 20, resident := true, scratch := cellsAt 0 scratchDesc ++ cellsAt 64 scratchVec }
  { t with
    launches := s.launches.map fun l => { l with code := { l.code with resident := true } }
    memory := (s.memory.store 0x9000 (leBytes 4 0 ++ leBytes 2 1)).store 0x9040 (leBytes 2 1 ++ leBytes 2 cap ++ leBytes 2 16 ++ leBytes 2 4 ++
      leBytes 2 0 ++ leBytes 2 0 ++ leBytes 2 10 ++ leBytes 2 2)
    tables := [⟨0, 0, 0x9000, 0, 0⟩] }
def sRoute : State := prepared (routed 1) .c
def cRoute : Ctx := ctxOf sRoute (by decide +kernel)
def e0 : FormE := ⟨0, 0, 8, 0, 0, 0, 0⟩

/-- A usable port answers, with rows of 16 bytes and 4 elements. -/
def portIs (s : State) : Bool := ((s.usable 0 0 0).map fun u => (u.1.rowBytes, u.1.elems, u.1.first, u.1.depth, u.2.key)) == some (16, 4, 10, 2, ⟨0, 0⟩)

def desc0 : RDesc := ⟨0xFF000080, 4, 0xFF000040, 0xFF000100, 4, 1, true⟩
def oneSlot : List (List VSlot) := [[⟨0x3F800000, 0, true, true⟩, ⟨0, 0, false, true⟩]]

theorem test_witness_RouteOpensWindow : sRoute.ctx? = some cRoute ∧ cRoute.lqGate (lqNeed [e0.sa]) = .go ∧ cRoute.firstLane? h0 = some 0 ∧
    (sRoute.rwindow 0 0 0).open_ = false ∧ (sRoute.header 0 0).isSome = true ∧ portIs sRoute = true ∧
    rdescOf (sRoute.scratchSee cRoute.grp.key 0 32) = desc0 ∧ (cRoute.aOf 0 e0.sa 0).toNat = 0 ∧ cRoute.areaBad 0 0 32 true = [] ∧
    cRoute.areaBad 0 desc0.vec 16 false = [] ∧ sRoute.vector cRoute.grp.key desc0.vec 1 = oneSlot ∧
    cRoute.rowsBad 0 desc0.input desc0.inStride 1 16 = [] ∧ cRoute.rowsBad 0 desc0.output desc0.outStride 1 16 = [] ∧
    sC.header 0 0 = none := by
  refine ⟨ctxOf_eq _ _, ?_⟩ <;> decide +kernel

/-- The page of the table is there, is in transition, or is not mapped: what the part's reading of the table comes to. -/
def frozen (s : State) : State := { s with memory := s.memory.store 0x3000 (leBytes 8 (2 ^ 48 + 0xF)) }
def unmapped (s : State) : State := { s with memory := s.memory.store 0x3000 (leBytes 8 0) }

/-- 0 the part waits; else the table's header is not legal, its port not usable, or both are. -/
def tableIs (s : State) (at_ : Nat × Nat) : Nat :=
  match s.tableReach at_ 0 0 [0] with
  | none => 0
  | some z => if (z.header 0 0).isNone then 1 else if (z.usable 0 0 0).isNone then 2 else 3

/-- A claim of row 0 whose row was d at issue, and its return. -/
def claim1 (d : List Byte) : Claim := ⟨1, 0, 0, 0, 0, 0, 0, 1, 0, 0, ⟨0, 0⟩, 0x80, d, none⟩
def openWin (dl : Option Nat) : RWindow := ⟨1, true, false, false, ⟨0, 0⟩, 0, false, 0x80, 4, 0x100, 4, 16, 4, [⟨[⟨true, 0x3F800000, 0, false, none⟩], false, none⟩], [], dl⟩
def withRoute (cap : Nat) (cs : List Claim) (rs : List Return) (q : List Port) (w : Option RWindow) (st : Strand) : State :=
  { prepared (fun s => match w with
      | none => routed cap s
      | some w => { routed cap s with cores := [{ (CoreSt.fresh 0 0) with windows := w :: List.replicate 15 emptyWindow }] }) st with
    claims := cs
    returns := rs
    ports := q }
def sClaim (cap : Nat) : State := withRoute cap [claim1 []] [] [] (some (openWin none)) .c
def sWaiting : State := withRoute 1 [] [] [⟨0, 0, 0, [(0, 1)], [], [claim1 [1, 2]], 0⟩] (some (openWin none)) .c
def sReturn (g : Nat) : State := withRoute 1 [] [⟨3, { claim1 [] with gen := g }, some [0, 0, 0, 0], false⟩] [] (some (openWin none)) .c

theorem test_witness_ClaimsTravel : (∀ cap ∈ [1, 0], (sClaim cap).claims.find? (·.id == 1) = some (claim1 []) ∧ portIs (sClaim cap) = true ∧
      (sClaim cap).isLive 0 = true ∧ ((sClaim cap).usable 0 0 0).map (·.1.cap) = some cap ∧ (tableGet 0 ((sClaim cap).port 0 0 0).counts).getD 0 = 0) ∧
    portIs sWaiting = true ∧ (sWaiting.port 0 0 0).waiting = [claim1 [1, 2]] ∧ (sWaiting.port 0 0 0).freeSlot 2 = some 0 ∧
    (sWaiting.group? ⟨0, 0⟩).map (fun g => (g.rowsOut, cellsWf g.scratch)) = some (false, true) ∧
    (∀ g ∈ [1, 2], ((sReturn g).returns.find? (·.id == 3)).isSome = true ∧ ((sReturn g).core 0 0).windows.length = 16 ∧
      (sReturn g).rwindow 0 0 0 = openWin none) := by decide +kernel

theorem test_witness_RouteOpensWindow_table : tableIs sRoute (0, 0) = 3 ∧ tableIs (frozen sRoute) (0, 0) = 0 ∧ tableIs (unmapped sRoute) (0, 0) = 1 ∧
    tableIs { sRoute with memory := sRoute.memory.store 0x9040 (leBytes 2 0) } (0, 0) = 2 ∧ tableIs sWaiting panelSite = 3 ∧ cRoute.pushGate 0 = .go := by decide +kernel

/-- The port's inbox is full, with n rows in its staging ring; or the row accepted first stands there. -/
def sRing (n : Nat) : State := withRoute 1 [claim1 []] [] [⟨0, 0, 0, [], [⟨0, { claim1 [] with id := 7 }, true⟩, ⟨1, { claim1 [] with id := 8 }, true⟩],
  List.replicate n { claim1 [] with id := 9, staged := some 0 }, 0⟩] (some (openWin none)) .c
def sStaged : State := withRoute 1 [] [] [⟨0, 0, 0, [], [], [{ claim1 [] with staged := some 0 }], 1⟩] (some (openWin none)) .c

theorem test_witness_ClaimsTravel_ring : (∀ n ∈ [0, 15, 16], portIs (sRing n) = true ∧ ((sRing n).port 0 0 0).waiting.length = n ∧
      ((sRing n).port 0 0 0).inbox.length = 2 ∧ ((sRing n).table? 0 0).isSome = true ∧
      (∀ x ∈ ((sRing n).port 0 0 0).waiting, x.staged.isSome = true ∧ x.id ≠ 1) ∧ (claim1 []).staged = none) ∧
    portIs sStaged = true ∧ ((sStaged.port 0 0 0).waiting.map (·.staged)) = [some 0] ∧ (sStaged.port 0 0 0).freeSlot 2 = some 0 ∧
    (sStaged.table? 0 0).isSome = true := by decide +kernel

/-- The port's inbox holds one row, taken or not. -/
def sInbox (taken : Bool) : State := withRoute 1 [] [] [⟨0, 0, 0, [(0, 1)], [⟨0, claim1 [], taken⟩], [], 0⟩] (some (openWin (some 5))) .c
def cInbox : Ctx := ctxOf (sInbox false) (by decide +kernel)
def cTaken : Ctx := ctxOf (sInbox true) (by decide +kernel)

theorem test_witness_PortOpsComplete : (sInbox false).ctx? = some cInbox ∧ cInbox.firstLane? h0 = some 0 ∧ portIs (sInbox false) = true ∧ cInbox.grp.key = ⟨0, 0⟩ ∧
    cInbox.pushGate 0 = .go ∧ (((sInbox false).port 0 0 0).inbox.find? (fun b => !b.taken)).isSome = true ∧
    (∀ b ∈ ((sInbox true).port 0 0 0).inbox, b.taken = true) := by
  refine ⟨ctxOf_eq _ _, ?_, ?_, ?_, ?_, ?_, ?_⟩ <;> decide +kernel

/-- A row returned from the inbox: f0 holds its address, f1 that of a row. -/
def sRet : State := withWarp (fun w => { w with lanes := w.lanes.map fun k => { k with f := (k.f.set! 0 0xFF0005C8).set! 1 0xFF000200 } }) (sInbox true)
def cRet : Ctx := ctxOf sRet (by decide +kernel)

theorem test_witness_PortOpsComplete_return : sRet.ctx? = some cRet ∧ cRet.lqGate (lqNeed [8, 9]) = .go ∧ portIs sRet = true ∧
    cRet.reads 0 [8, 9] 0 = [0xFF0005C8, 0xFF000200] ∧ 0x5C8 = 10 * 148 + 0 * 16 ∧ cRet.areaBad 0 0xFF000200 (4 * 2) false = [] :=
  ⟨ctxOf_eq _ _, by decide +kernel, by decide +kernel, by decide +kernel, by decide, by decide +kernel⟩

theorem test_witness_WindowsComplete : ((sInbox false).core 0 0).windows.length = 16 ∧ (sInbox false).rwindow 0 0 0 = openWin (some 5) ∧
    5 ≤ ({ sInbox false with now := 5 } : State).now ∧ (openWin (some 5)).open_ = true ∧ (openWin (some 5)).succ = false ∧
    (openWin (some 5)).owner = cInbox.grp.key ∧ ((sInbox false).group? ⟨0, 0⟩).map (fun g => cellsWf g.scratch) = some true ∧
    (sRoute.rwindow 0 0 0).open_ = false ∧ (sInbox false).now < 5 := by decide +kernel

/-- Worklist 3 is of domain 0 and open on die 0 with the tasks given; an Escapement descriptor stands at scratch 0. -/
def unit3 (ts : List ETask) (term : Bool) : EUnit := ⟨3, true, term, ts, 256, 0, 0, 0, 4, true, 0, 0, 0, 0⟩
def listed (ts : List ETask) (term : Bool) (s : State) : State :=
  { (s.modDie 0 fun d => { d with units := [unit3 ts term] }).modGroup ⟨0, 0⟩ (fun g => { g with scRows := 1 }) with worklists := [⟨3, some 0, [], 0, term, 0⟩] }
def someTask : ETask := ⟨7, 0, 0, false⟩
def sList (ts : List ETask) (term : Bool) : State := prepared (listed ts term) .c
def e3 : FormE := ⟨0, 0, 8, 8, 8, 3, 0⟩
def cList : Ctx := ctxOf (sList [someTask] false) (by decide +kernel)

theorem test_witness_WorklistOpsComplete : e3.wl = 3 ∧ (sList [someTask] false).ctx? = some cList ∧ cList.firstLane? h0 = some 0 ∧
    ((sList [someTask] false).worklist? 3).bind (·.dom) = some cList.grp.dom ∧ (sList [someTask] false).unit 0 3 = unit3 [someTask] false ∧
    cList.pushGate 0 = .go ∧ cList.lqGate (lqNeed [8, 8, 8]) = .go ∧ cList.areaBad 0 (cList.aOf 0 8 0).toNat 32 true = [] ∧
    (edescOf ((sList [someTask] false).scratchSee ⟨0, 0⟩ 0 32)).legal = true ∧ cList.st.pops = [] ∧
    ((unit3 [someTask] false).serveN 16).1 = [someTask] ∧ (unit3 [] true).serveN 16 = ([], unit3 [] true, 0) ∧
    ((sList [] true).worklist? 3).map (·.terminated) = some true ∧ ((sC.worklist? 3).bind (·.dom)) ≠ some cC.grp.dom := by
  refine ⟨?_, ctxOf_eq _ _, ?_⟩ <;> decide +kernel

/-- The worklist is another domain's, or the unit is closed, with a pop of this gang held open by a close, or without. -/
theorem test_witness_WorklistOpsComplete_stops : (sC.worklist? 3).bind (·.dom) ≠ some cC.grp.dom ∧ cC.st.pops = [] ∧ cC.lqGate (lqNeed [8, 8, 8]) = .go ∧
    (let s := (sList [] false).modDie 0 fun d => { d with units := [{ unit3 [] false with open_ := false }] }
     (s.unit 0 3).open_ = false ∧ (s.worklist? 3).bind (·.dom) = some cList.grp.dom) ∧
    ((prepared (fun s => withWarp (fun w => { w with c := { w.c with pops := [(0, 3, true)] } }) s) .c).ctx?.map fun c => c.st.pops.map fun p => (p.1 == c.iss.gang, p.2)) =
      some [(true, 3, true)] := by decide +kernel

theorem test_witness_TasksServedInOrder : ((unit3 [someTask] false).serve).isSome = true ∧ (unit3 [] false).serve = none := by decide +kernel

/-- Three units: the bucket's oldest task in spill beside a younger one on chip, all of it in spill, and one whose bucket is beyond G + L. -/
def spilledTask : ETask := ⟨8, 0, 0, true⟩
theorem test_witness_TasksServedInOrder_refill : (((unit3 [spilledTask, someTask] false).serve.map fun r => (r.1.payload, r.2.1.tasks.length, r.2.2)) = some (8, 1, 0)) ∧
    (((unit3 [spilledTask, { spilledTask with payload := 9 }] false).serve.map fun r => (r.1.payload, r.1.spilled)) = some (8, false)) ∧
    (unit3 [spilledTask, someTask] false).onChip = 1 ∧ (unit3 [spilledTask, someTask] false).bucket spilledTask = (unit3 [] false).bucket someTask ∧
    ({ unit3 [{ someTask with prio := 5 }] false with g := 0 }.serve = none) ∧ 0 + (unit3 [] false).lead < (unit3 [] false).bucket { someTask with prio := 5 } := by decide +kernel

/-- An open on its way; a sample on its way; tasks moving; a unit with more tasks than it keeps. -/
def sOpening : State := { sList [] false with eops := [⟨4, 3, false, 0, 0, false, 0, 0, [0], 0⟩] }
def sSampled : State := { sList [] false with worklists := [⟨3, some 0, [⟨5, 1, false, [0], 0⟩], 0, false, 0⟩] }
def sMoving : State := { sList [] false with transfers := [⟨6, 3, 1, 0, [someTask]⟩] }

theorem test_witness_WorklistEvents : (sOpening.eops.find? (·.id == 4)).isSome = true ∧ sOpening.isLive 0 = true ∧
    ({ sOpening with eops := [⟨4, 3, true, 0, 0, false, 0, 0, [0], 0⟩] } : State).unit 0 3 = unit3 [] false ∧ (sC.unit 0 3).open_ = false ∧
    (sSampled.worklist? 3).isSome = true ∧ sSampled.openDies 3 ≠ [] ∧ 0 + 256 ≤ ({ sSampled with now := 256 } : State).now ∧
    (sSampled.unit 0 3).balancing = true ∧ (sSampled.unit 0 3).tickedAt + 256 ≤ 256 ∧ (sMoving.transfers.find? (·.id == 6)).isSome = true ∧
    (sMoving.unit 0 3).open_ = true := by decide +kernel
/-- 513 tasks on die 0 and none on die 1, which shares its stack; both units balance. -/
def sFull513 : State := { (sList [] false).modDie 0 (fun d => { d with units := [unit3 (List.replicate 513 someTask) false] }) with
  dies := ((sList [] false).modDie 0 fun d => { d with units := [unit3 (List.replicate 513 someTask) false] }).dies ++ [{ (DieSt.fresh 1) with units := [unit3 [] false] }] }

/-- Die 0 closes while its own tasks are on their way to die 1. -/
theorem test_witness_WorklistEvents_close : let s := { sList [someTask] false with transfers := [⟨6, 3, 0, 1, [someTask]⟩], eops := [⟨4, 3, true, 0, 0, false, 0, 0, [0], 0⟩] }
    (s.eops.find? (·.id == 4)).map (fun o => (o.close, o.due)) = some (true, [0]) ∧ (s.unit 0 3).open_ = true ∧
    (s.transfers.filter fun x => x.wl == 3 && x.from_ == 0).length = 1 := by decide +kernel

theorem test_witness_WorklistEvents_balance : sFull513.sharers 3 0 = [1] ∧ (sFull513.unit 0 3).onChip = 513 ∧ (sFull513.unit 1 3).reported = 0 ∧
    (sFull513.unit 0 3).balancing = true := by decide +kernel

/-- A sample that has not yet reached a die whose unit has closed. -/
theorem test_witness_WorklistEvents_sample : let s := { (sList [] false) with worklists := [⟨3, some 0, [⟨5, 1, false, [0], 0⟩], 0, false, 0⟩] }
    (s.worklist? 3).map (fun w => w.samples.map (·.due)) = some [[0]] ∧ s.isLive 0 = true ∧ (s.unit 0 3).open_ = true ∧
      (((s.modDie 0 fun d => { d with units := [{ unit3 [] false with open_ := false }] }).unit 0 3).open_) = false := by decide +kernel

/-- The group has a successor task; every slice of the strand holds h. -/
def task1 (count holds : Nat) : Task := ⟨⟨0, 0⟩, 0x40000, 0x50000, count, holds, none, false, [0], 0, none⟩
def tasked (t : Task) (s : State) : State := { s with tasks := [t] }
def holding (h : Hold) (w : Warp) : Warp :=
  let put (t : StrandSt) : StrandSt := { t with slices := t.slices.map fun k => { k with hold := h } }
  { w with
      c := put w.c
      a := put w.a }
def sTask : State := prepared (tasked (task1 1 0)) .c
def cTask : Ctx := ctxOf sTask (by decide +kernel)
def loading : Warp → Warp := fun w => { w with longs := [⟨5, .a, 0, [], some 5, 0⟩], accs := [⟨5, .store, 2, 0, false, 0, 0, .none, [inMemory [1]], false, 0, 0⟩] }
def sUnfenced : State := prepared (withWarp loading) .a
def cUnfenced : Ctx := ctxOf sUnfenced (by decide +kernel)
def sHeld : State := prepared (withWarp (holding .bar)) .c

theorem test_witness_BarriersAndPhases : sTask.ctx? = some cTask ∧ cTask.iss.strand = .c ∧ sA.ctx? = some cA ∧ cA.iss.strand = .a ∧ cA.warp.accs = [] ∧ cA.warp.longs = [] ∧
    sUnfenced.ctx? = some cUnfenced ∧ cUnfenced.warp.longs.map (·.access) = [some 5] ∧
    (sTask.launch? 0).map (fun l => (l.code.resident, l.code.phases.map (·.id), l.groups)) = some (false, [0], 1) ∧
    (cTask.warp.strand .a).exited = false ∧ (cTask.warp.strand .a).phaseId = none ∧ sTask.task? ⟨0, 0⟩ = some (task1 1 0) ∧
    cTask.lqGate (lqNeed [8]) = .go ∧ cTask.firstLane? h0 = some 0 ∧ (cTask.aOf 0 8 0).toNat = 0 ∧ 0 < (task1 1 1).holds ∧
    (prepared (routed 1) .c |>.launch? 0).map (·.code.resident) = some true ∧
    ((sHeld.group? ⟨0, 0⟩).map fun g => g.warps.map fun w => (w.saved, w.arrived .c .bar)) = some [(none, true)] ∧
    ((sTask.group? ⟨0, 0⟩).map fun g => g.warps.map fun w => (w.arrived .c .bar, w.excused .c)) = some [(false, false)] := by
  refine ⟨ctxOf_eq _ _, ?_, ctxOf_eq _ _, ?_, ?_, ?_, ctxOf_eq _ _, ?_⟩ <;> decide +kernel

/-- Another's write that the group sees and the die does not yet: nothing of it where nothing is on its way. -/
theorem test_witness_BarriersAndPhases_ready : cA.warp.accs = [] ∧ cA.warp.longs = [] ∧ sA.partials cA.grp.agent.die = [] ∧ sA.memory.sent ++ sA.memory.log = [] ∧
    ((sStoreAt .grp 0 []).partials 0).map (fun e => (e.free, e.unit.level, e.unit.performedAt 2)) = [(false, .grp, false)] := by decide +kernel

/-- A fence with nothing of the warp or the group behind it, and one with a store on its way. -/
theorem test_witness_FencesComplete_done : sMap.partials 0 = [] ∧ sMap.memory.sent ++ sMap.memory.log = [] ∧ cMap.warp.longs = [] ∧
    (sUnfenced.ctx?.map fun c => (c.warp.longs.map (·.access), c.warp.accs.map fun a => (a.kind, a.units.map fun u => u.performedAt 3))) =
      some ([some 5], [(.store, [false])]) := by decide +kernel

/-- Channel 3: die 0 has arrived at generation 1, or has only joined generation 1. -/
def channel3 (arr : List (Nat × Nat × Word)) (seen : Nat) : Channel := ⟨0, 3, 1, [0], arr, [(1, 5)], [(0, seen)], [(0, 1)]⟩
def sChannel (k : Channel) : State := { sC with channels := [k] }
def e3c : FormE := ⟨0, 0, 8, 8, 8, 3, 0⟩

theorem test_witness_ChannelsComplete : (sC.channel 0 e3c.channel).waits 0 = false ∧ ((sChannel (channel3 [] 0)).channel 0 e3c.channel).waits 0 = true ∧
    sC.ctx? = some cC ∧ cC.firstLane? h0 = some 0 ∧ tableGet 0 (sC.channel 0 e3c.channel).joined = none ∧
    tableGet 0 (channel3 [] 1).joined = some 1 ∧ (tableGet 0 (channel3 [] 0).seen).getD 0 = 0 ∧ (tableGet 0 (channel3 [] 1).seen).getD 0 = 1 ∧
    (sChannel (channel3 [(0, 0, 7)] 0)).channels.find? (fun q => q.seq == 0 && q.num == e3c.channel) = some (channel3 [(0, 0, 7)] 0) ∧ sC.isLive 0 = true := by
  refine ⟨?_, ?_, ctxOf_eq _ _, ?_⟩ <;> decide +kernel

/-- A warp in handler mode; a strand that sleeps to ck 9. -/
def inHandler (w : Warp) : Warp := { w with
  handler := true
  saved := some ⟨w.c.slices, w.a.slices, 0x48, [0], .c, true, 0, [], 0, none, none, none⟩ }
def sHandler : State := prepared (withWarp inHandler) .c
def cHandler : Ctx := ctxOf sHandler (by decide +kernel)
def sAsleep : State := prepared (withWarp fun w => { w with c := { w.c with sleepEnd := some 9 } }) .c

theorem test_witness_SystemRowsComplete : sC.ctx? = some cC ∧ cC.firstLane? h0 = some 0 ∧ cC.warp.handler = false ∧ cC.pushGate 0 = .go ∧
    cC.lqGate (lqNeed [8]) = .go ∧ sHandler.ctx? = some cHandler ∧ cHandler.warp.handler = true ∧ cHandler.warp.saved.isSome = true ∧
    (sAsleep.warp? ⟨0, 0, 0⟩).map (fun w => (w.strand .c).sleepEnd) = some (some 9) := by
  refine ⟨ctxOf_eq _ _, ?_, ?_, ?_, ?_, ctxOf_eq _ _, ?_, ?_, ?_⟩ <;> decide +kernel

/-- A handler that writes v to 0x110, in a domain with a workspace, a store of its warp on its way or not; its fault record taken or not. -/
def sHandles (v : Word) (f : Warp → Warp) (taken : Bool) : State :=
  { prepared (withWarp fun w => f { inHandler w with lanes := w.lanes.map fun k => { k with f := k.f.set! 0 v } }) .c with
      domains := [⟨0, some 0x1000, some (0x200000, 0x400000), 0, 0⟩]
      faultRecs := if taken then [⟨0, 0, 1, 0, 0x10, none, none, 0, none, none⟩] else [] }

theorem test_witness_SystemRowsComplete_handler : (∀ n ∈ [0, 1, 2, 3, 4], let v := BitVec.ofNat 32 n
      ((sHandles v id false).ctx?.map fun c => (c.firstLane? h0, c.aOf 0 8 0, c.warp.handler && c.lqGate (lqNeed [8]) == .go &&
      c.pushGate 7 == .go && !c.warp.storesOut && (sHandles v id false).faultFree 0 ((sHandles v id false).nextFault 0))) = some (some 0, v, true)) := by decide +kernel

theorem test_witness_SystemRowsComplete_records : ((sHandles 2 id false).launch? 0).map (·.ended) = some false ∧ (sHandles 2 id false).faultRecs = [] ∧
    (sHandles 2 id true).faultFree 0 0 = false ∧
    ((sHandles 3 (fun w => { w with accs := [⟨5, .store, 2, 0, false, 0, 0, .none, [inMemory [1]], false, 0, 0⟩] }) false).warp? ⟨0, 0, 0⟩).map Warp.storesOut = some true ∧
    (3 < (4 : Word).toNat ∧ sAsleep.now < 9 ∧ 9 ≤ ({ sAsleep with now := 9 } : State).now) := by decide +kernel

theorem test_witness_EmptyGuardsComplete : sC.ctx? = some cC ∧ cC.firstLane? ⟨false, 0, true⟩ = none ∧ cC.pushGate 0 = .go ∧ cC.lqGate (lqNeed [8, 8, 8]) = .go :=
  ⟨ctxOf_eq _ _, by decide +kernel, by decide +kernel, by decide +kernel⟩

/-- The PC stands beyond its segment. -/
def sAstray : State := prepared (fun s => mapped (withWarp (fun w => { w with c := { w.c with slices := w.c.slices.map fun k => { k with pc := 9 } } }) s)) .c
def cAstray : Ctx := ctxOf sAstray (by decide +kernel)

theorem test_witness_TrapsRaise : sC.ctx? = some cC ∧ cC.warp.handler = false ∧ sHandler.ctx? = some cHandler ∧ cHandler.warp.handler = true ∧
    sAstray.ctx? = some cAstray ∧ (match sAstray.fetch cAstray with
      | (t, .fault _ _) => t == sAstray
      | _ => false) = true :=
  ⟨ctxOf_eq _ _, by decide +kernel, ctxOf_eq _ _, by decide +kernel, ctxOf_eq _ _, by decide +kernel⟩

/-- The warp as f leaves it, in a domain with a workspace. -/
def sWarp (f : Warp → Warp) : State := { prepared (withWarp f) .c with domains := [⟨0, some 0x1000, some (0x200000, 0x400000), 0, 0⟩] }
def raisedIn (code : Nat) (w : Warp) : Warp := { w with pending := [cC.cause code 5] }
def quiet (s : State) : Bool := ((s.warp? ⟨0, 0, 0⟩).map fun w => !w.gone && w.longs.isEmpty && !w.held && !w.parkedFor && !w.evicted && !w.c.first && !w.a.first) == some true

theorem test_witness_CausesTaken : (∀ f ∈ [raisedIn 0x48, raisedIn 0x10, fun w => raisedIn 0x48 (inHandler w), fun w => { w with asyncs := [0x41] },
      fun w => { w with asyncs := [0x50] }], quiet (sWarp f) = true ∧ ((sWarp f).warp? ⟨0, 0, 0⟩).isSome = true) ∧
    ((sWarp (raisedIn 0x48)).warp? ⟨0, 0, 0⟩).map (·.pending) = some [cC.cause 0x48 5] ∧ (cC.cause 0x48 5).code ∉ [0x50, 0x51, 0x10, 0x11] ∧
    (cC.cause 0x10 5).code = 0x10 ∧ (sWarp (raisedIn 0x10)).faultFree 0 ((sWarp (raisedIn 0x10)).nextFault 0) = true ∧
    ({ sWarp (raisedIn 0x10) with faultRecs := [⟨0, 0, 1, 0, 0x10, none, none, 0, none, none⟩] } : State).faultFree 0 0 = false ∧
    ((sWarp id).launch? 0).map (·.ended) = some false ∧ ((sWarp loading).warp? ⟨0, 0, 0⟩).map (·.longs.isEmpty) = some false := by decide +kernel

theorem test_witness_CausesTaken_waits : ((sWarp fun w => { w with evictNamed := true }).warp? ⟨0, 0, 0⟩).map (·.evictNamed) = some true ∧
    ((sWarp fun w => { w with a := { w.a with midway := true } }).warp? ⟨0, 0, 0⟩).map Warp.midway = some true ∧
    ((sWarp id).warp? ⟨0, 0, 0⟩).map Warp.midway = some false := by decide +kernel

/-- Causes of one code of two slices and of both strands: the one taken is the C-strand's of the lowest slice. -/
theorem test_witness_CausesTaken_first : let r : Raised := cC.cause 0x08 0
    ∀ x ∈ [r, { r with slice := 1, lane := 4, gang := [1] }, { r with strand := .a }], x = r ∨ r.code < x.code ∨ (x.code = r.code ∧
      ((r.strand = .c ∧ x.strand = .a) ∨ (r.strand = x.strand ∧ 64 * r.slice + r.lane < 64 * x.slice + x.lane))) := by decide +kernel

/-- A machine check of neither, of the warp, and of a latch. -/
theorem test_witness_CausesTaken_checks : (∀ k ∈ [none, some MatCheck.warp, some (.latch true)], let r : Raised := { cC.cause 0x01 7 with check := k }
      let s := sWarp fun w => { w with pending := [r], machineCheck := some 7, latchCheck := [(true, 7)] }
      quiet s = true ∧ (s.warp? ⟨0, 0, 0⟩).map (fun w => w.pending == [r] && !w.handler && w.machineCheck == some 7 && w.latchCheck == [(true, 7)]) = some true) := by decide +kernel

/-- Both strands of the handler have returned, or exited. -/
theorem test_witness_HandlerReturns : (((sWarp fun w => inHandler (holding (.rett true) w)).warp? ⟨0, 0, 0⟩).map fun w =>
      (w.handler, w.c.exited, w.c.returned, w.a.returned, w.saved.isSome)) = some (true, false, true, true, true) ∧
    (((sWarp fun w => inHandler w.retire).warp? ⟨0, 0, 0⟩).map fun w => (w.handler, w.c.exited, w.a.exited)) = some (true, true, true) ∧
    ((sWarp id).group? ⟨0, 0⟩).isSome = true := by decide +kernel

/-- Core 0 of die 0 with the sets given, and a second group of the launch. -/
def sCore (act pend : List GroupKey) (now : Nat) (f : Warp → Warp) : State :=
  let s := sWarp f
  { s with
      cores := [{ (CoreSt.fresh 0 0) with active := act, pending := pend }]
      groups := s.groups ++ (s.groups.map fun g => { g with key := ⟨0, 1⟩, active := false })
      now := now }
def gA : GroupKey := ⟨0, 0⟩
def gB : GroupKey := ⟨0, 1⟩
def sleepy (w : Warp) : Warp := { w with
  c := { w.c with sleepEnd := some 9999 }
  a := { w.a with sleepEnd := some 9999 } }
/-- A started launch of higher priority, none of whose groups is placed. -/
def sUrgent (rows : Word) : State :=
  let s := sCore [gA] [] 0 id
  { s with launches := s.launches ++ [{ oneLaunch with seq := 1, prio := 7, placed := 0, rows := rows }] }

theorem test_witness_ScheduleEvents : ((sCore [gA] [] 0 id).core 0 0).pending = [] ∧ (sCore [] [gA] 0 id).pendingHead ((sCore [] [gA] 0 id).core 0 0) = some gA ∧
    ((sCore [] [gA] 0 id).group? gA).isSome = true ∧ 8 ≤ ((sCore (List.replicate 8 gA) [gB] 0 sleepy).core 0 0).active.length ∧
    ((List.replicate 8 gA).filterMap (sCore (List.replicate 8 gA) [gB] 0 sleepy).group?).find? (fun g => g.warps.any Warp.parks && (sCore (List.replicate 8 gA) [gB] 0 sleepy).groupIdle g) =
      (sCore [] [] 0 sleepy).group? gA ∧
    (((sCore [gA] [gB] 65536 id).group? gA).map fun g => (g.active, decide (g.entered + 1024 * (sCore [gA] [gB] 65536 id).sliceUnits ≤ 65536))) = some (true, true) ∧
    (((sCore [gA] [gB] 65536 fun w => { w with asyncs := [0x51] }).group? gA).map fun g => g.warps.map fun w => (w.key.group, w.asyncs, w.gone)) = some [(gA, [0x51], false)] := by
  decide +kernel

/-- A group that holds more rows than a pool has stands for a die without room. -/
def sCrowd : State := { sUrgent 897 with groups := (sUrgent 897).groups.take 1 |>.map fun g => { g with rowMap := List.replicate 1000 (some 0) } }

theorem test_witness_ScheduleEvents_preempt : (sUrgent 45).works.map (fun x => (x.launch.seq, x.members, (sUrgent 45).dieFor x)) = [(1, [0], some 0)] ∧
    sCrowd.works.map sCrowd.dieFor = [none] ∧
    (sCrowd.works.map fun x => (sCrowd.evictFor x).map fun y => (y.1, y.2.map fun c => (c.1, c.2.1))) = [some (0, [(0, [⟨0, 0, 0⟩])])] ∧ sCrowd.evictOrder 0 0 7 = [⟨0, 0, 0⟩] ∧
    sCrowd.evictOrder 0 0 0 = [] := by decide +kernel

/-- A warp named for eviction; one evicted, its rows back or not. -/
def putOut (w : Warp) : Warp := { inHandler w with
  handler := false
  evicted := true }
theorem test_witness_EvictionAndRestoration : (((sWarp fun w => { w with evictNamed := true }).warp? ⟨0, 0, 0⟩).map fun w =>
      [w.evictNamed, w.evicted, w.handler, w.longs.isEmpty, w.held, w.parkedFor]) = some [true, false, false, true, false, false] ∧
    (sWarp id).matOps = [] ∧ (sWarp id).copies = [] ∧
    (((sWarp putOut).group? gA).map fun g => [g.rowsOut, (sWarp putOut).openWindow g] ++ g.warps.flatMap fun w => [w.evicted, w.held, w.parkedFor, w.saved.isSome, w.key.group == gA]) =
      some [false, false, true, false, false, true, true] ∧
    ((sWarp putOut).group? gA).map (sWarp putOut).waitedFor = some false ∧ (sWarp putOut).isLive 0 = true ∧ rowsPerWarp 16 ≤ (sWarp putOut).coreFree 0 0 := by decide +kernel

/-- A copy of the group that runs and stands between two chunks when the rows go. -/
def sGoing : State := { sWarp putOut with copies := [{ copyOf 0x9000 0 with stage := some 0 }] }

theorem test_witness_EvictionAndRestoration_copies : ((sGoing.group? gA).map fun g => (g.rowsOut, g.warps.map (·.evicted), sGoing.openWindow g)) = some (false, [true], false) ∧
    (∀ c ∈ sGoing.copies, c.inRegion gA = true ∧ c.run = .running ∧ c.atBoundary = true) ∧ sGoing.matOps = [] := by decide +kernel

/-- Every warp of the group at its phase's end, with a task; every warp gone. -/
def sEnding (n : Nat) : State := tasked (task1 n 0) (sWarp (holding .phase))
def sGone : State := sWarp Warp.retire
/-- The launch has its one group retired. -/
def sOver (succ : Nat) : State := { sWarp id with launches := [{ oneLaunch with retired := 1, succAddr := succ }] }

/-- How its successor store ends: 0 it waits, 1 it faults, 2 it is made. -/
def storeEnds (s : State) : Nat :=
  match s.launch? 0 with
  | none => 3
  | some l =>
    match (s.flushDies l.dies).successorStore l with
    | .wait => 0
    | .fault => 1
    | .made _ => 2

theorem test_witness_GroupsEnd : (∀ n ∈ [1, 2], (((sEnding n).group? gA).map fun g => (g.cohort, (sEnding n).phaseWaits g, g.phase, g.warps.map Warp.phased)) = some ([0], false, 0, [true]) ∧
      (sEnding n).task? gA = some (task1 n 0)) ∧ (((sEnding 1).launch? 0).bind fun l => (l.code.phases.find? (·.id == 0))).isSome = true ∧
    ((sGone.group? gA).map fun g => (g.warps.map Warp.gone, sGone.openWindow g, g.warps.map (·.accs.length))) = some ([true], false, [0]) ∧ sGone.copies = [] ∧
    ((sOver 0).launch? 0).map (fun l => (l.started, l.ended, decide (l.retired = l.groups), l.orphans.length)) = some (true, false, true, 0) ∧ (sOver 0).tasks = [] ∧
    ((sOver 0).launch? 0).map ((sOver 0).flushDies [0]).flushing = some false ∧
    (∀ p ∈ [(0x8000, 2), (0xFFFFFFF8000, 1), (0x200000, 1)], storeEnds (sOver p.1) = p.2) := by decide +kernel

/-- The launch has ended, what follows its writes still to come or done; it was reported before or not; a store of it is out. -/
def sOwed (owed reported : Bool) (succ : Nat) (o : List Orphan) : State := { sWarp id with groups := [], launches := [{ oneLaunch with
  ended := true
  owed := owed
  reported := reported
  status := some 0x0010
  succAddr := succ
  orphans := o }] }

theorem test_witness_GroupsEnd_owed : (∀ x ∈ [(true, false, 0), (true, true, 0), (true, true, 0x8000), (true, true, 0x200000), (false, true, 0)],
      ((sOwed x.1 x.2.1 x.2.2 []).launch? 0).map (fun l => (l.ended, l.owed, l.reported, l.orphans.length, decide (l.seq = 0))) = some (true, x.1, x.2.1, 0, true)) ∧
    (sOwed true true 0 []).matOps = [] ∧ ((sOwed true true 0 []).launch? 0).map ((sOwed true true 0 []).flushDies [0]).flushing = some false ∧
    storeEnds (sOwed true true 0x8000 []) = 2 ∧ storeEnds (sOwed true true 0x200000 []) = 1 ∧
    (match (sOver 0x8000).launch? 0 with
      | some l => (match (sOver 0x8000).successorStore l with
        | .made _ => true
        | _ => false)
      | none => false) = true ∧ (sOver 0x8000).memory.wf = true := by decide +kernel

/-- A launch not started, with the dependence given; one of whose groups none is placed; one whose group waits for its next phase. -/
def sUnstarted (d : List (Nat × Nat)) : State := { sWarp id with launches := [{ oneLaunch with started := false, placed := 0, deps := d }] }
def sUnplaced : State := { sWarp id with groups := [], launches := [{ oneLaunch with placed := 0 }] }
def sLater : State := { sWarp id with groups := [], tasks := [{ task1 0 0 with next := some 0, phaseOver := true }], ready := [gA] }
def site0 : PlaceSite := ⟨0, 0x410000, 0x420000⟩

/-- What waits, and whether it fits; a cohort of two goes as one piece of work. -/
def worksOf (s : State) : List (Nat × List Nat × Bool × Bool) := s.works.map fun w => (w.launch.seq, w.members, w.later, s.fits w)
def sPair2 : State := { sWarp id with groups := [], launches := [{ oneLaunch with placed := 0, groups := 2, perCohort := 2 }] }

theorem test_witness_LaunchesPlaced : ((sUnstarted []).domain 0).work.isSome = true ∧ ((sUnstarted []).launch? 0).map (fun l => (l.started, l.ended)) = some (false, false) ∧
    (({ sUnstarted [] with domains := [] } : State).domain 0).work = none ∧ (sUnstarted [(9, 1)]).recStatus 9 1 = none ∧
    worksOf sUnplaced = [(0, [0], false, true)] ∧ worksOf sLater = [(0, [0], true, true)] ∧ (worksOf sPair2).map (fun x => x.2.1) = [[0, 1]] ∧
    worksOf { sUnplaced with launches := [{ oneLaunch with seq := 1, placed := 0 }, { oneLaunch with placed := 0, prio := 7, order := 5 }] } =
      [(0, [0], false, true), (1, [0], false, true)] ∧
    ((sUnplaced.launch? 0).bind fun l => sUnplaced.placeDie l (sUnplaced.preferred l 0 none) 1) = some 0 ∧
    ((sUnplaced.launch? 0).map fun l => l.code.phases.map fun ph => sUnplaced.siteOk l ph 0 site0) = some [true] ∧ sUnplaced.task? gA = none ∧
    ((sLater.launch? 0).bind fun l => sLater.placeDie l (sLater.preferred l 0 none) 1) = some 0 ∧ gA ∈ sLater.ready ∧
    ((sLater.launch? 0).map fun l => l.code.phases.map fun ph => (sLater.freed (sLater.task? gA)).siteOk l ph 0 site0) = some [true] := by decide +kernel
/-- The two groups of a cohort on two cores of die 0. -/
theorem test_witness_LaunchesPlaced_cohort : (sPair2.works.map fun w => (w.later, w.members,
      (sPair2.place w.launch w.phase 0 w.members w.cohortNo w.home [⟨0, 0x410000, 0x420000⟩, ⟨1, 0x430000, 0x440000⟩]).isSome)) = [(false, [0, 1], true)] ∧
    (∀ n ∈ [0, 1], sPair2.group? ⟨0, n⟩ = none ∧ sPair2.task? ⟨0, n⟩ = none) := by decide +kernel

/-! ### Records, requests and events -/

/-- A record with the fields given, each as offset, bytes and value. -/
def recOf (fs : List (Nat × Nat × Nat)) : Record :=
  ⟨fs.foldl (fun b f => b.take f.1 ++ leBytes f.2.1 f.2.2 ++ b.drop (f.1 + f.2.1)) (List.replicate 256 0)⟩

/-- A code object at 0x8000 of width 16, one phase, its segments and table within 1 KiB. -/
def sObject : State :=
  let s := sWarp id
  { s with memory := (((s.memory.store 0x8000 (leBytes 4 0x4E42454D ++ leBytes 2 1 ++ leBytes 1 16 ++ leBytes 1 1)).store 0x8010
      (leBytes 8 128 ++ leBytes 8 8)).store 0x8020 (leBytes 8 256 ++ leBytes 8 8)).store 0x8030 (leBytes 8 384 ++ leBytes 8 128 ++ leBytes 8 640 ++ leBytes 8 0 ++ leBytes 8 512) }
def launchRec : Record := recOf [(0, 1, 1), (8, 8, 0x8000), (0x1A, 1, 16), (0x1B, 1, 1), (0x1C, 4, 45), (0x20, 4, 1), (0x24, 1, 1), (0x30, 1, 1)]

def object0 : CodeObject := ⟨0x8000, 16, false, (128, 8), (256, 8), (384, 128), (640, 0), [⟨0, 0, 0, 0, ⟨0, 0, []⟩⟩]⟩

theorem test_witness_RecordsComplete : sObject.bound 0 = true ∧ sObject.codeObject 0 0x8000 = some object0 ∧
    sObject.launchError 0 launchRec (some object0) = none ∧ (sC.launchError 0 launchRec none).isSome = true ∧
    sObject.bound 5 = false ∧ (recOf [(9, 1, 1)]).cmdFault true [] = some 9 ∧ (recOf [(2, 1, 64)]).cmdFault true [] = some 2 ∧
    (recOf [(2, 1, 63)]).cmdFault true [] = none ∧ (({ sC with windows := [{ (Window.fresh 0) with ring := some ⟨0, 0, 0⟩ }] } : State).window 0).ring = some ⟨0, 0, 0⟩ := by
  decide +kernel

/-- The record of a launch with some fields changed, against a code object of one phase with a carry set. -/
def launchWith (fs : List (Nat × Nat × Nat)) : Record :=
  recOf ([(0, 1, 1), (8, 8, 0x8000), (0x1A, 1, 16), (0x1B, 1, 1), (0x1C, 4, 45), (0x20, 4, 1), (0x24, 1, 1), (0x30, 1, 1)] ++ fs)
def carrying : CodeObject := { object0 with phases := [⟨0, 0, 0, 0, ⟨0, 0, [(0, 1)]⟩⟩] }
def sChecks : State := { sObject with windows := [{ (Window.fresh 1) with dom := some 0 }] }

/-- R322's rows at their boundary values, in order: what is refused and where. -/
theorem test_witness_RecordsComplete_table : (∀ x ∈ [([(1, 1, 8)], 2, 1), ([(3, 1, 1)], 2, 3), ([(0x25, 1, 1)], 2, 0x25), ([(0x1C, 4, 44)], 3, 0x1C), ([(0x1C, 4, 897)], 3, 0x1C),
      ([(0x1C, 4, 2 ^ 30 + 45)], 3, 0x1C), ([(0x1A, 1, 17)], 4, 0x1A), ([(0x1A, 1, 32), (0x1C, 4, 90)], 4, 0x1A), ([(0x1B, 1, 0)], 4, 0x1B), ([(0x1B, 1, 9), (0x1C, 4, 405)], 4, 0x1B),
      ([(0x18, 2, 1)], 6, 0x18), ([(0x10, 4, 1)], 6, 0x10), ([(0x14, 4, 1)], 6, 0x14), ([(0x20, 4, 0)], 7, 0x20), ([(0x24, 1, 0)], 7, 0x24), ([(0x24, 1, 97)], 7, 0x24),
      ([(0x20, 4, 3), (0x24, 1, 2)], 7, 0x20), ([(0x30, 1, 0)], 8, 0x30)],
      sChecks.launchError 1 (launchWith x.1) (some object0) = some x.2) := by decide +kernel

theorem test_witness_RecordsComplete_last : (∀ x ∈ [([(2, 1, 1)], 9, 2), ([(0x90, 1, 7)], 0xB, 0x90), ([(0x90, 1, 1), (0x98, 2, 5)], 0xB, 0x98), ([(0x90, 1, 2), (0x98, 2, 1), (0xA0, 2, 5)], 0xB, 0xA0),
      ([(0xC8, 8, 4)], 0xD, 0xC8)], sChecks.launchError 1 (launchWith x.1) (some object0) = some x.2) ∧
    sChecks.launchError 1 (launchWith []) (some carrying) = some (6, 0x1C) ∧ sChecks.launchError 1 (launchWith [(0x1B, 1, 9)]) none = some (4, 0x1B) ∧
    sChecks.launchError 1 (launchWith []) none = some (5, 8) ∧ sChecks.launchError 1 (launchWith [(0x90, 1, 6), (0x1C, 4, 1024 + 45)]) (some carrying) = none ∧
    (∀ c ∈ [6, 9], sChecks.launchError 1 (launchWith [(0x1B, 1, c - 1), (0x1C, 4, 45 * (c - 1))]) (some object0) = none) ∧ ((launchWith []).nat 1 1 < 8 ∧ 64 ≤ (launchWith [(2, 1, 64)]).nat 2 1) := by
  decide +kernel

/-- The Crown reads the code object, or waits for its page. -/
theorem test_witness_RecordsComplete_reach : (sObject.codeReach 0 0x8000).isSome = true ∧ ({ sObject with memory := sObject.memory.store 0x3000 (leBytes 8 (2 ^ 48 + 0xF)) } : State).codeReach 0 0x8000 = none := by
  decide +kernel

def sBindable : State := prepared (fun s => { routed 1 s with tables := [] }) .c

theorem test_witness_MemoryCommandsComplete : (recOf [(8, 8, 0x1000)]).cmdFault true [(8, 8)] = none ∧ paExists 0x1000 = true ∧ paExists (2 ^ 45) = false ∧
    (sC.pageAt 0 0x8000).isSome = true ∧ sC.pageAt 0 0x40000000 = none ∧ sC.memory.sent = [] ∧ sMap.invalWaits 0 0 0 = false ∧
    (recOf [(8, 8, 0x200000), (16, 8, 0x400000)]).cmdFault true [(8, 8), (16, 8)] = none ∧ 0x200000 % 2097152 = 0 ∧ canonical 0x200000 = true ∧
    (recOf [(8, 4, 511), (12, 4, 2), (16, 8, 64)]).cmdFault false [(8, 4), (12, 4), (16, 8)] = none ∧
    (recOf [(8, 4, 15), (16, 8, 0x9000), (24, 8, 0xA000), (32, 8, 256)]).cmdFault true [(8, 4), (16, 8), (24, 8), (32, 8)] = none ∧
    ((sBindable.tableBytes 0 0x9000 64).map fun h => [leAt h 4 2, leAt h 6 58]) = some [1, 0] ∧ sBindable.stagingNeed 0 0x9000 1 = some 256 ∧
    sBindable.portsOn 0 = 0 ∧ (sRoute.table? 0 0).isSome = true ∧ (∀ k ∈ sRoute.cores, ∀ w ∈ k.windows, w.open_ = false) ∧
    (recOf [(8, 4, 4095), (12, 4, 1)]).cmdFault true [(8, 4), (12, 4)] = none := by decide +kernel

/-- An access of an old translation on its way, for which INVAL waits; BINDR's table read, or its page waited for. -/
theorem test_witness_MemoryCommandsComplete_waits : (inFlight .store 0 .none (inMemory [1, 2, 3, 4]) sMap).invalWaits 0 0x8000 0x10000 = true ∧
    (∀ x ∈ [(true, false), (false, true)], let s := if x.1 then frozen sBindable else sBindable
      (s.bindReach (recOf [(8, 4, 15), (16, 8, 0x9000), (24, 8, 0xA000), (32, 8, 256)])).isSome = x.2) := by decide +kernel

/-- A copy that has faulted and a warp held on record 0; both wait for the host. -/
def recordOf (kind : Nat) (k : Option WarpKey) (c : Option Nat) : FaultRec := ⟨0, 0, 1, kind, 0x10, k, c, 0, none, none⟩
def sSuspended : State := { sWarp id with copies := [{ copyOf 0x9000 0 with run := .suspended (some 0) false }], faultRecs := [recordOf 1 none (some 9)] }
def sRecorded : State := { sWarp (fun w => { inHandler w with
  handler := false
  held := true
  record := some 0 }) with faultRecs := [recordOf 0 (some ⟨0, 0, 0⟩) none] }

theorem test_witness_WorkCommandsComplete : (recOf [(8, 4, 255)]).cmdFault false [(8, 4), (16, 8), (24, 4), (28, 4)] = none ∧
    ({ sC with windows := [{ (Window.fresh 1) with dom := some 0 }] } : State).bound 1 = true ∧ (sC.launchAt 1 1).map (·.seq) = some 0 ∧
    (sC.launch? 0).map (fun l => (l.ended, l.groups)) = some (false, 1) ∧ (sSuspended.faultRec? 0 0).map (fun f => (f.state, f.kind, f.copy)) = some (1, 1, some 9) ∧
    (sSuspended.copy? 9).map (fun k => (k.id, k.stage)) = some (9, some 0) ∧ sSuspended.groups.map (·.stages.length) = [8] ∧ sSuspended.disp 0 0 = 0 ∧ (sSuspended.groups.map (·.rowsOut)) = [false] ∧
    (sRecorded.faultRec? 0 0).map (fun f => (f.state, f.kind, f.w)) = some (1, 0, some ⟨0, 0, 0⟩) ∧
    ((sRecorded.warp? ⟨0, 0, 0⟩).map fun w => (w.evicted, w.saved.isSome)) = some (false, true) ∧
    ({ sRecorded with memory := sRecorded.memory.store ((sRecorded.faultAddr 0 0).getD 0 + 3) [1] } : State).disp 0 0 = 1 ∧
    sC.faultRec? 0 0 = none ∧ (recOf [(24, 4, 511)]).nat 24 4 < 512 ∧ (sC.core 0 2207).profile = [] := by decide +kernel

/-- The launch that a CANCEL names: running, ended by another event or by this CANCEL, what follows its writes done or not. -/
def sNamed (ended owed : Bool) (by_ : Option Nat) : State := { sC with
  windows := [{ (Window.fresh 1) with dom := some 0 }]
  launches := sC.launches.map fun l => { l with win := 1, k := 1, ended := ended, owed := owed, cancelBy := by_ } }

theorem test_witness_WorkCommandsComplete_cancel : (∀ x ∈ [(false, false, none), (true, true, none), (true, false, some 1), (true, false, none), (true, false, some 2)],
      let s := sNamed x.1 x.2.1 x.2.2
      s.bound 1 = true ∧ ((s.launches.reverse.find? fun l => l.win == 1 && l.k == 1).map fun l => (l.ended, l.owed, l.cancelBy)) = some x ∧ (s.launches.map (·.seq)).Nodup ∧
        (s.launches.map fun l => (l.orphans.length, l.reported)) = [(0, false)] ∧ (s.window 0).next = 1 ∧ s.matOps = []) ∧
    (sNamed false false none).groups.all (fun g => g.leftOver.isEmpty) = true ∧
    ((sNamed false false none).launch? 0).map ((((sNamed false false none).endLaunch 0 0x0010 0)).flushDies [0]).flushing = some false ∧
    ((sNamed false false none).launches.reverse.find? fun l => l.win == 1 && l.k == 2) = none := by decide +kernel

/-- A warp that its handler has parked on record 0. -/
def sParked : State := { sWarp (fun w => { inHandler w with
  handler := false
  parkedFor := true
  record := some 0 }) with faultRecs := [recordOf 2 (some ⟨0, 0, 0⟩) none] }

theorem test_witness_WorkCommandsComplete_parked : (sParked.faultRec? 0 0).map (fun f => (f.state, f.kind, f.copy, f.w)) = some (1, 2, none, some ⟨0, 0, 0⟩) ∧
    ((sParked.warp? ⟨0, 0, 0⟩).map fun w => (w.evicted, w.saved.isSome, w.parkedFor)) = some (false, true, true) ∧
    (∀ n ∈ [0, 1, 2], ({ sParked with memory := sParked.memory.store ((sParked.faultAddr 0 0).getD 0 + 3) [BitVec.ofNat 8 n] } : State).disp 0 0 = n) := by decide +kernel

theorem test_witness_ManagementComplete : (0x0000000F00000000 : Word64).extractLsb' 4 28 = 0 ∧ (0x0000000000000010 : Word64).extractLsb' 4 28 ≠ 0 ∧
    (sC.domain 63).grant ≠ 0xF ∧ sC.worklistOpen 15 = false ∧ (sList [] false).worklistOpen 3 = true ∧
    sC.counterOk ⟨0, 0xFFFF, 31⟩ = true ∧ sC.counterOk ⟨0, 2207, 3⟩ = true ∧ sC.counterOk ⟨0, 2208, 3⟩ = false ∧ selectOk false 0 = true ∧ selectOk true 0 = true ∧
    (sC.core 0 2207).counters.length = 4 ∧ sC.module.staging = [] ∧ (sC.module.fusedVersion 1) = 0 := by decide +kernel

/-- Die 0 is withdrawing since ck 0 and holds the first byte of an SC line dirty: line 1, its own, or one of stack 5. -/
def sLeaving (line : Nat) : State :=
  (sWarp id).modDie 0 fun d => { d with withdrawal := some ⟨false, 7, 0⟩, lines := [⟨false, line, 0, 0, true, false, 1, List.replicate 128 5, 0, 0⟩] }
def sDie (st : DieStatus) : State := (sWarp id).modDie 0 fun d => { d with status := st }

theorem test_witness_DieRequestsEnd : (∀ d ∈ (sWarp id).dies, d.withdrawal = none) ∧ ((sWarp id).die 0).status = .live ∧ (sWarp id).flips = [] ∧
    (∀ st ∈ [DieStatus.reset, .retired, .testFailed, .disabled], ((sDie st).die 0).status = st ∧ ∀ d ∈ (sDie st).dies, d.withdrawal = none) ∧
    (∃ l ∈ (sWarp id).launches, l.ended = false ∧ ∃ g ∈ (sWarp id).groups, g.key.seq = l.seq ∧ g.die = 0) ∧
    (∀ line ∈ [1, farLine], ((sLeaving line).die 0).withdrawal = some ⟨false, 7, 0⟩ ∧ (sLeaving line).now ≤ 0 + 90000 ∧ (sLeaving line).memory.sent = [] ∧
      (((sLeaving line).die 0).lines.map fun l => (l.sc, l.dirty.getLsbD 0)) = [(true, true)]) ∧
    (sLeaving 1).homeOf (stackOf 128) = 0 ∧ (sLeaving 1).homeOf (stackOf (128 * farLine)) ≠ 0 ∧
    ((sLeaving 1).settleLines 0 ((sLeaving 1).returns2 0) fun _ => true).memory.sent = [] ∧
    (((sLeaving farLine).settleLines 0 ((sLeaving farLine).returns2 0) fun _ => true).memory.sent.map (·.src)) = [0] ∧
    (sLeaving 1).stranded 0 = [] ∧ (∀ n ∈ [90000, 90001], 0 + 90000 ≤ ({ sLeaving 1 with now := n } : State).now) := by decide +kernel

/-- A die number beyond the part, a flip in flight, a withdrawal in flight. -/
theorem test_witness_DieRequestsEnd_waits : ((512 : Nat) ≤ 512 ∧ sC.flips = []) ∧ (sPair [flipAt 1 []]).flips ≠ [] ∧ (∃ d ∈ (sLeaving 1).dies, d.withdrawal ≠ none) ∧
    (∃ l ∈ (sWarp id).launches, l.ended = false ∧ l.reported = false ∧ (sWarp id).launch? l.seq = some l) := by decide +kernel

/-- Window 1 is bound for domain 0 with queue pair 9. -/
def sBound : State := { sWarp id with windows := [{ (Window.fresh 1) with dom := some 0, qp := 9 }] }
def okPage (r : State × Except Nat Page) : Bool :=
  match r.2 with
  | .ok p => !p.qz && p.pp.isNone && p.cc != 2 && p.w && p.r && !p.fx && p.at_ 0x8000 == 0x8000 && p.leafAt == 0x3000 && r.1.memory.wf && r.1.memory.poison.isEmpty
  | .error _ => false

theorem test_witness_PortsAnswer : sBound.module.boot = .running ∧ (31 : Nat) < 32 ∧ sBound.boundTo 1 9 = true ∧ sBound.boundTo 2 9 = false ∧ 16384 / 16384 = 1 ∧
    sBound.qpDomain 9 = 0 ∧ sBound.qpDomain 8 = 64 ∧ okPage (sBound.resolve (sBound.edieSite 7) 0 0 0x8000) = true ∧
    sBound.module.paused = [] ∧ sBound.rdmaWaits = [] ∧ (sBound.module.connected.filter (·.1 == 31)).length < 4096 := by decide +kernel

/-- The page of address 0 is in transition, and a WRITE of queue pair 9 waits for it. -/
def oldWrite : RdmaReq := ⟨31, 9, 0, 0x8000⟩
def sFrozen : State := { sBound with
  memory := sBound.memory.store 0x3000 (leBytes 8 (2 ^ 48 + 0xF))
  rdmaWaits := [⟨oldWrite, .write [1]⟩]
  module := { sBound.module with connected := [(31, 9)] } }

theorem walkFrom_same (s : State) (m : Module) (n : Nat) (w : List RdmaJob) (dom va : Nat) : ∀ f l a,
    State.walkFrom { s with module := m, nextId := n, rdmaWaits := w } dom va f l a = s.walkFrom dom va f l a := by
  intro f
  induction f with
  | zero => intro l a; rfl
  | succ f ih => intro l a; simp only [State.walkFrom, ih]; rfl

theorem test_witness_PortsAnswer_waits (m : Module) (n : Nat) :
    State.doWrite { sFrozen with module := m, nextId := n, rdmaWaits := [] } oldWrite [1] = none := by
  have hw : State.walk { sFrozen with module := m, nextId := n, rdmaWaits := [] } 0 0x8000 = .leaf 2 0x3000 (2 ^ 48 + 0xF) := by
    have h : sFrozen.walk 0 0x8000 = .leaf 2 0x3000 (2 ^ 48 + 0xF) := by decide +kernel
    rw [← h]
    simp only [State.walk, walkFrom_same]
    rfl
  have hd : State.rdmaDomain { sFrozen with module := m, nextId := n, rdmaWaits := [] } 9 = some 0 := by
    have h : sFrozen.rdmaDomain 9 = some 0 := by decide +kernel
    rw [← h]
    rfl
  have hp : rdmaPieces 0x8000 1 = [(0x8000, 1)] := by decide +kernel
  have ho : regionOffset? oldWrite = none := by decide +kernel
  have hq : unhomed (2 ^ 48 + 0xF) = false := by decide +kernel
  have hz : (pageOfLeaf 2 0x3000 (2 ^ 48 + 0xF)).qz = true := by decide +kernel
  unfold State.doWrite
  rw [ho, show oldWrite.qp = 9 from rfl, hd]
  simp only [show oldWrite.va.toNat = 0x8000 from rfl, List.length_singleton, hp, State.rdmaWay, State.resolve, hw, hq, hz, Bool.true_or, if_true, Bool.false_eq_true, if_false]

/-- Port 31 has its 4 096 queue pairs, none of them 9. -/
theorem test_witness_PortsAnswer_full : let m := { sBound.module with connected := List.replicate 4096 (31, 1) }
    (31, 9) ∉ m.connected ∧ 4096 ≤ (m.connected.filter (·.1 == 31)).length := by decide +kernel

/-- A link that is there has retried flit 9 sixteen times; a flip waits for die 0 since ck 0. -/
def sSilent (n : Nat) : State := { sC with flips := [flipAt 1 []], now := n }

theorem test_witness_ModuleEventsComplete : sC.module.boot = .running ∧ sC.module.linksDown = [] ∧ linkDie 0 = none ∧ linkDie 1 = some 0 ∧ linkDie 2111 ≠ none ∧
    linkDie 2112 = none ∧ tableGet 1 ({ sC with module := { sC.module with retries := [(1, 9, 16)] } } : State).module.retries = some (9, 16) ∧
    tableGet 1 sC.module.retries = none ∧ sC.isLive 0 = true ∧ (sC.die 0).unresponsive = false ∧ sC.silent 0 = false ∧ (sSilent unansweredLimit).silent 0 = true ∧
    (sSilent (unansweredLimit - 1)).silent 0 = false ∧ sC.module.gradeB = false ∧ (([(0, 68001)] : List (Nat × Nat)).map (·.2)).sum + 0 > 68000 ∧
    sC.module.energyAt + 1000000 ≤ nsOf ({ sC with now := 2000000 } : State).now ∧ nsOf sC.now < sC.module.energyAt + 1000000 ∧
    sC.module.tofsAt + 1073741824 ≤ nsOf ({ sC with now := 2 ^ 31 } : State).now ∧
    ((sC.warp? ⟨0, 0, 0⟩).map fun w => (w.ended, w.evicted, w.saved)) = some (false, false, none) := by decide +kernel

/-- The true offsets are within 4 ns of themselves. -/
theorem test_witness_ModuleEventsComplete_offsets : let offs : List Int := (List.range 16).map fun n => Config.regionOffset (n % 4) - Config.regionOffset (n / 4)
    offs.length = 16 ∧ ∀ i j : Nat, i < 4 → j < 4 → (offs.getD (4 * i + i) 0 = 0) ∧ offs.getD (4 * j + i) 0 = -(offs.getD (4 * i + j) 0) ∧
      offs.getD (4 * i + j) 0 - (Config.regionOffset j - Config.regionOffset i) ≤ 4 ∧
      (Config.regionOffset j - Config.regionOffset i) - offs.getD (4 * i + j) 0 ≤ 4 := by
  refine ⟨rfl, fun i j hi hj => ?_⟩
  have hi : i = 0 ∨ i = 1 ∨ i = 2 ∨ i = 3 := by omega
  have hj : j = 0 ∨ j = 1 ∨ j = 2 ∨ j = 3 := by omega
  rcases hi with rfl | rfl | rfl | rfl <;> rcases hj with rfl | rfl | rfl | rfl <;> simp [List.range, List.range.loop] <;> omega

/-- The dies of both kinds at their bounds. -/
theorem test_witness_ModuleEventsComplete_sites : (519 : Nat) < 520 ∧ (511 : Nat) < (if true then 512 else 520) ∧ (519 : Nat) < (if false then 512 else 520) := by decide

def noImage : FwImage := ⟨[], 0, 0, [], [], [], []⟩
def someFuses (b : Bool) (off : List Nat) : Fuses := ⟨List.replicate 48 0, List.replicate 48 0, 0, b, off⟩
def someBoot (f : Fuses) : BootImages := ⟨f, noImage, List.replicate 8 noImage, noImage, noImage, noImage, List.replicate 3 noImage, List.replicate 48 0, []⟩

/-- Parts that fit, of either grade, and that do not; an image whose key is not the fused one does not run. -/
theorem test_witness_PowerComplete : Module.fresh.bootFits (someBoot (someFuses false [])) = true ∧
    Module.fresh.bootFits (someBoot (someFuses true (List.range 32))) = true ∧ Module.fresh.bootFits (someBoot (someFuses false [1])) = false ∧
    ({ Module.fresh with fuses := some (someFuses true (List.range 32)) }).bootFits (someBoot (someFuses false [])) = false ∧ sC.module.boot ≠ .off := by
  decide +kernel

theorem test_witness_PowerComplete_fails : let m := { Module.fresh with fuses := some (someFuses false []) }
    (∃ x ∈ m.stages (someBoot (someFuses false [])), x.image = some noImage) ∧ m.runs noImage = false := by
  refine ⟨⟨_, List.mem_cons_of_mem _ (List.mem_cons_self ..), rfl⟩, ?_⟩
  have h : (sha384 [] == List.replicate 48 0) = false := by decide +kernel
  simp only [Module.runs, noImage, someFuses, h, Bool.false_and]

/-- One whose keys are the fused ones and whose signatures hold does: a key and a signature that hold are numbers no test can write out briefly. -/
theorem test_witness_PowerComplete_runs (i : FwImage) (h1 : ed25519Verify i.edKey (signedMessage i) i.edSig = true)
    (h2 : mldsaVerify i.mlKey (signedMessage i) i.mlSig = true) :
    Module.runs { Module.fresh with fuses := some ⟨sha384 i.edKey, sha384 i.mlKey, 0, false, []⟩ } i = true := by
  simp [Module.runs, Module.fusedVersion, Module.fresh, tableGet, h1, h2]

/-- A session of each state, of the part and of the requester, whose directions are each other's. -/
def secretOf (b : Byte) : Traffic := ⟨List.replicate 48 b, 0⟩
def partKeys : Keys := ⟨[1, 2, 3, 4], [], secretOf 5, secretOf 6⟩
def requesterKeys : Keys := ⟨[1, 2, 3, 4], [], secretOf 6, secretOf 5⟩
def sSession (x : Session) : State := sC.withSession x

/-- Four bytes under one block of the stream come back. -/
theorem stream_four (keys : List (List Byte)) (nonce : List Byte) (a b c d : Byte) (h : 4 ≤ (aesBlock keys (nonce ++ bigEndian 4 2)).length) :
    ∃ w x y z, gcmStream keys nonce [a, b, c, d] = [w, x, y, z] ∧ gcmStream keys nonce [w, x, y, z] = [a, b, c, d] := by
  match e : aesBlock keys (nonce ++ bigEndian 4 2), h with
  | k0 :: k1 :: k2 :: k3 :: ks, _ =>
    refine ⟨a ^^^ k0, b ^^^ k1, c ^^^ k2, d ^^^ k3, ?_, ?_⟩ <;>
      simp [gcmStream, mapIdxList, List.range, List.range.loop, bytesAt, e, xorBytes, BitVec.xor_assoc]

theorem tag_length (keys : List (List Byte)) (n h c : List Byte) (e : (aesBlock keys (n ++ bigEndian 4 1)).length = 16) : (gcmTag keys n h c).length = 16 := by
  have b : ∀ n, (bigEndian 16 n).length = 16 := fun n => by simp [bigEndian, leBytes]
  simp [gcmTag, xorBytes, List.length_zipWith, e, b]

theorem opened_again (k k' : Keys) (x y : Byte) (hk : k.id = [1, 2, 3, 4]) (hk' : k'.id = [1, 2, 3, 4]) (hr : k'.rsp = k.req)
    (e1 : (aesBlock (aesKeys k.req.key) (k.req.nonce ++ bigEndian 4 1)).length = 16)
    (e2 : 4 ≤ (aesBlock (aesKeys k.req.key) (k.req.nonce ++ bigEndian 4 2)).length) : k.unseal (k'.seal [x, y]) = some [x, y] := by
  obtain ⟨a, b, c, d, h1, h2⟩ := stream_four (aesKeys k.req.key) k.req.nonce 2 0 x y e2
  have hd : ∀ k : Keys, k.id = [1, 2, 3, 4] → k.header 20 = [1, 2, 3, 4, 20, 0] := fun k h => by simp [Keys.header, h, leBytes]
  have l := tag_length (aesKeys k.req.key) k.req.nonce [1, 2, 3, 4, 20, 0] [a, b, c, d] e1
  have t : k'.seal [x, y] = [1, 2, 3, 4, 20, 0] ++ ([a, b, c, d] ++ gcmTag (aesKeys k.req.key) k.req.nonce [1, 2, 3, 4, 20, 0] [a, b, c, d]) := by
    unfold Keys.seal
    rw [show leBytes 2 [x, y].length ++ [x, y] = [2, 0, x, y] by simp [leBytes], hr]
    simp only [List.length_cons, List.length_nil, Nat.reduceAdd, hd k' hk', gcmSeal, h1]
  rw [t]
  unfold Keys.unseal
  generalize hg : gcmTag (aesKeys k.req.key) k.req.nonce [1, 2, 3, 4, 20, 0] [a, b, c, d] = tag at *
  simp only [List.cons_append, List.nil_append, List.take_succ_cons, List.take_zero, List.drop_succ_cons, List.drop_zero, List.length_cons, l, Nat.reduceAdd, Nat.reduceSub, hd k hk,
    gcmUnseal, hg, h2, bne_self_eq_false, Bool.false_eq_true, if_false, Nat.reduceLeDiff, decide_true, beq_self_eq_true, Bool.and_self, if_true]
  simp [leAt, leNat, bytesAt]

theorem test_unseal : partKeys.unseal (requesterKeys.seal [0x13, 0xE1]) = some [0x13, 0xE1] :=
  opened_again _ _ _ _ rfl rfl rfl (by decide +kernel) (by decide +kernel)

/-- A KEY_EXCHANGE whose share is a point, and one whose share is none. -/
def exchangeOf (a : Nat × Nat) : List Byte := [0x13, 0xE4, 0, 0, 7, 7, 0, 0] ++ List.replicate 32 0 ++ p384Bytes a ++ [0, 0]

theorem test_witness_SpdmAnswers : sC.module.boot ≠ .off ∧ sC.module.session = .none ∧ sC.module.session.isOpen = false ∧ sC.module.meas.length = 8 ∧
    (sSession (.open_ partKeys)).module.session.isOpen = true ∧ (sSession (.opening partKeys)).module.session.isOpen = false ∧
    (sSession (.opening partKeys)).module.session.keys? = some partKeys ∧ 0x7F ∉ [0x84, 0xE1, 0xE3, 0x81, 0x82, 0x83, 0xE0, 0xE4, 0xE5, 0xEC] ∧
    leAt [0x13, 0x83, 0, 0] 2 1 = 0 ∧ leAt [0x13, 0x83, 1, 0] 2 1 ≠ 0 ∧ 0 < slot0.length ∧
    (let b : List Byte := [4, 0, 0, 0, 0x10, 0x84, 0, 0]; 8 ≤ b.length ∧ leAt b 0 4 = b.length - 4 ∧ leAt (b.drop 4) 0 1 = 0x10 ∧ leAt (b.drop 4) 1 1 = 0x84) ∧
    (exchangeOf p384Base).length = 138 ∧ leAt (exchangeOf p384Base) 3 1 = 0 ∧ p384Point (bytesAt (exchangeOf p384Base) 40 96) = some p384Base ∧
    p384Point (bytesAt (exchangeOf (1, 1)) 40 96) = none := by decide +kernel

/-- Messages of the session: one that its keys open, and one that they do not; what is not of the session. -/
theorem test_witness_SpdmAnswers_session : (requesterKeys.seal [0x13, 0xE1]).take 4 = partKeys.id ∧ partKeys.unseal (requesterKeys.seal [0x13, 0xE1]) = some [0x13, 0xE1] ∧
    spdmData [0x13, 0xE1] = true ∧ spdmData [0x01, 0x00] = false ∧ partKeys.unseal (requesterKeys.seal [1, 0]) = some [1, 0] ∧
    partKeys.unseal [1, 2, 3, 4, 0, 0] = none ∧ partKeys.id.length = 4 ∧ requesterKeys.rsp = partKeys.req :=
  ⟨by simp [Keys.seal, Keys.header, requesterKeys, partKeys], test_unseal, by decide, by decide, opened_again _ _ _ _ rfl rfl rfl (by decide +kernel) (by decide +kernel),
    by decide +kernel, rfl, rfl⟩

/-- A requester whose one certificate is the root named, with a signature that its key takes and the MAC of the session, is authentic; one of another root is not. -/
theorem test_witness_SpdmAnswers_finish (m : Module) (k : Keys) (cert sig : List Byte) (own : Cert) (hs : sig.length = 64) (hc : parseCert cert = some own)
    (ha : own.keyAlg = derEd25519) (h : ed25519Verify own.key (spdmSigned "requester-finish signing" (m.finishing [cert] [0x13, 0xE5, 1, 0])) sig = true) :
    ({ m with rootDigest := sha384 cert }).authentic k [cert]
      ([0x13, 0xE5, 1, 0] ++ sig ++ k.req.verify (sha384 (m.finishing [cert] [0x13, 0xE5, 1, 0] ++ sig))) = true ∧
    ∀ bytes, m.rootDigest ≠ sha384 cert → m.authentic k [cert] bytes = false := by
  have e : ∀ x : List Byte, bytesAt ([0x13, 0xE5, 1, 0] ++ sig ++ x) 4 64 = sig := by
    intro x
    simp [bytesAt, ← hs]
  have d : ∀ x : List Byte, ([0x13, 0xE5, 1, 0] ++ sig ++ x).drop 68 = x := by
    intro x
    simp [← hs]
  have t : ∀ (r x : List Byte), Module.finishing { m with rootDigest := r } [cert] ([0x13, 0xE5, 1, 0] ++ sig ++ x) = m.finishing [cert] [0x13, 0xE5, 1, 0] := by
    intro r x
    simp [Module.finishing]
  have l : ∀ x : List Byte, leAt ([0x13, 0xE5, 1, 0] ++ sig ++ x) 2 1 = 1 := by
    intro x
    rfl
  refine ⟨?_, fun bytes hr => ?_⟩
  · simp only [Module.authentic, e, d, l, t, List.filterMap_cons, hc, List.filterMap_nil, List.getLast?_singleton, ha, h]
    simp [chainIssued]
  · simp [Module.authentic, Ne.symm hr]

/-! ### The standards R391 names: FIPS 197 appendix C.3, RFC 4231 test case 2, twice the base point of P-384, X.690's length 201 -/

theorem test_aes : aesBlock (aesKeys ((List.range 32).map (BitVec.ofNat 8))) ((List.range 16).map fun i => BitVec.ofNat 8 (17 * i)) =
    [0x8e, 0xa2, 0xb7, 0xca, 0x51, 0x67, 0x45, 0xbf, 0xea, 0xfc, 0x49, 0x90, 0x4b, 0x49, 0x60, 0x89] := by decide +kernel

theorem test_hmac : hmac384 (asciiBytes "Jefe") (asciiBytes "what do ya want for nothing?") =
    bigEndian 48 0xaf45d2e376484031617f78d2b58a6b1b9c7ef464f5a01b47e42ec3736322445e8e2240ca5e69e2c78b3239ecfab21649 := by decide +kernel

theorem test_p384_twice : (p384Sum (some p384Base) (some p384Base)).map (·.1) =
    some 0x08D999057BA3D2D969260045C55B97F089025959A6F434D651D207D19FB96E9E4FE0E86EBE0E64F85B96A9C75295DF61 := by decide +kernel

theorem test_der_length : (der 0x04 (List.replicate 201 7)).take 4 = [0x04, 0x81, 0xC9, 7] := by decide +kernel

/-- Window 0 holds record 1, its sequence byte right or wrong. -/
def sRecord (b : Nat) : State := { sC with windows := [{ (Window.fresh 0) with bytes := [(0, (recOf [(255, 1, b)]).bytes)] }], agenda := [⟨0, .monitor 0⟩] }

theorem test_witness_RecordsInSequence : (∀ b ∈ [1, 2], (sRecord b).module.boot = .running ∧ ((sRecord b).window 0).next = 1 ∧
      ((tableGet 0 ((sRecord b).window 0).bytes).map fun x => [x.length, leAt x 255 1]) = some [256, b]) ∧
    ((sRecord 1).monitored 0).isSome = true ∧ ((sRecord 2).monitored 0).isNone = true ∧
    ((({ sRecord 1 with agenda := [] } : State).pass 0).monitored 0).isSome = true := by decide +kernel

/-- The agenda has the gang issue a MOVI. -/
def sFetching (w : Nat) : State := State.reset.withFetchWord 64 w
def cFetching : Option Ctx := ({ (sFetching 0x6080000000000005) with cur := some ⟨⟨0, 0, 0⟩, .c, 0⟩ } : State).ctx?

theorem test_witness_StepRunsDecoded : (sFetching 0x6080000000000005).agenda = [⟨0, .issue ⟨0, 0, 0⟩ .c 0⟩] ∧
    (({ sFetching 0x6080000000000005 with agenda := [] } : State).pass 0).picks ⟨⟨0, 0, 0⟩, .c, 0⟩ = true ∧
    (({ sFetching 0x6080000000000005 with agenda := [] } : State).pass 0).mayIssue ⟨⟨0, 0, 0⟩, .c, 0⟩ = true ∧ cFetching.isSome = true ∧
    (cFetching.map fun c => match ({ sFetching 0x6080000000000005 with cur := some ⟨⟨0, 0, 0⟩, .c, 0⟩ } : State).fetch c with
      | (_, .word w) => w
      | _ => 0) = some 0x6080000000000005 ∧ (match decodeIn .c 0x6080000000000005 with
      | .instr _ => true
      | _ => false) = true ∧ (Instr.thermalTrip false 0 0).isEvent = true := by decide +kernel

/-- The page of the code is there, or is in transition; a management request in a secured message of an open session. -/
theorem test_witness_StepRunsDecoded_page : (∀ b ∈ [false, true], let s := if b then frozen (sFetching 0) else sFetching 0
      (s.launch? 0).any (fun l => (match s.resolve 0 0 0 (l.code.base + l.code.cSeg.1) with
        | (_, .ok p) => p.qz == b && p.pp.isNone
        | _ => false) && 8 ≤ l.code.cSeg.2) = true) := by decide +kernel

theorem test_witness_StepRunsDecoded_managed : leAt (framed (requesterKeys.seal [1, 0])) 0 4 = (framed (requesterKeys.seal [1, 0])).length - 4 ∧
    partKeys.unseal ((framed (requesterKeys.seal [1, 0])).drop 4) = some [1, 0] ∧ spdmData [1, 0] = false ∧ (sSession (.open_ partKeys)).module.boot = .running ∧
    (∀ d ∈ (sSession (.open_ partKeys)).dies, d.withdrawal = none) ∧ (∃ d ∈ (sLeaving 1).dies, d.withdrawal ≠ none) := by
  have n : (requesterKeys.seal [1, 0]).length = 26 := by decide +kernel
  have d : (framed (requesterKeys.seal [1, 0])).drop 4 = requesterKeys.seal [1, 0] := by simp [framed, leBytes]
  refine ⟨?_, ?_, by decide, by decide +kernel, by decide +kernel, by decide +kernel⟩
  · generalize requesterKeys.seal [1, 0] = m at n
    simp [framed, n, leAt, bytesAt, leBytes, leNat]
  · rw [d]
    exact opened_again _ _ _ _ rfl rfl rfl (by decide +kernel) (by decide +kernel)

theorem test_witness_DecodeInvertsEncode : (Instr.movi h0 ⟨0, 0, 0, 0, 5⟩).wellFormed = true ∧ (encode (Instr.movi h0 ⟨0, 0, 0, 0, 5⟩)).isSome = true ∧
    (match decode 0x6080000000000005 with
      | .instr _ => true
      | _ => false) = true ∧ (match decode 0xFF80000000000000 with
      | .unassigned _ => true
      | _ => false) = true ∧ (match decode 0x6080000100000005 with
      | .reserved _ => true
      | _ => true) = true := by decide +kernel

theorem test_witness_StepKeepsCanonicalStores : State.reset.canonicalStores = true ∧ (sFetching 0x6080000000000005).canonicalStores = true ∧
    (match step (sFetching 0x6080000000000005) with
      | .next _ => true
      | _ => false) = true := by decide +kernel

/-- Every TY below 4 has sources: a quotient by 0 among them. -/
theorem test_witness_values : ((2 : BitVec 4).toNat < 4) ∧ numberOf 0 0 (src (cC.reads (oneOf 0) [8, 8] 0) 1) = 0 ∧ (Instr.icmp h0 { q0 with sub := 6 }).wellFormed = false ∧
    5 < ({ q0 with sub := 6 } : FormQ).sub.toNat := by decide +kernel

/-- Elements that a word holds, of each width, the last of them at its end. -/
theorem test_witness_ShiftsAndFieldsExact : (∀ x ∈ [(6, 3), (7, 4), (8, 7), (13, 1), (14, 3)], codeBits x.1 * (x.2 + 1) ≤ 32 ∧ x.2 < 8) ∧ 5 < ({ q0 with sub := 6 } : FormQ).sub.toNat ∧
    (Instr.icmp h0 { q0 with sub := 6 }).wellFormed = false := by decide +kernel

/-- Lane 0 reads a from f0 and b from f1. -/
def cReads (a b : Nat) : Ctx := { cC with warp := { cC.warp with lanes := cC.warp.lanes.map fun k => { k with f := (k.f.set! 0 (BitVec.ofNat 32 a)).set! 1 (BitVec.ofNat 32 b) } } }
def read2 (a b k : Nat) : Nat := (src ((cReads a b).reads (oneOf 4) [8, 9] 0) k).toNat

/-- Sources of every sort that a clause asks for: a quotient by 0 and of the least number by −1; numbers of both signs and formats, exact and rounded,
zeros, infinities and NaNs. -/
theorem test_witness_DivisionsExact : (∀ x ∈ [(7, 0), (2 ^ 31, 2 ^ 32 - 1), (7, 2), (0x3F800000, 0x40400000), (0x80000000, 0x7F800000), (0xFF800000, 0x7FC00000), (0x3F804040, 0xBF80FF80)],
      read2 x.1 x.2 0 = x.1 ∧ read2 x.1 x.2 1 = x.2) ∧ cC.warp.mode.getLsbD 0 = false ∧
    numberOf 0 0 (BitVec.ofNat 32 (2 ^ 31)) = leastOf 0 ∧ numberOf 0 0 (BitVec.ofNat 32 (2 ^ 32 - 1)) = -1 ∧
    unitsOf 23 0x3F800000 = some (2 ^ 149) ∧ unitsOf 23 0x40400000 = some (3 * 2 ^ 149) ∧ unitsOf 23 0x80000000 = some 0 ∧ unitsOf 23 0x7F800000 = none ∧
    unitsOf 23 0xFF800000 = none ∧ isNaN 23 0x7FC00000 ∧ ¬ isNaN 23 0x7F800000 ∧ ¬ isNaN 23 0xFF800000 ∧
    unitsOf 7 (floatCode 5 0 0x3F804040) = some (3 * 2 ^ 133) ∧ unitsOf 7 (floatCode 5 1 0x3F804040) = some (2 ^ 133) ∧ unitsOf 7 (floatCode 5 0 0xBF80FF80) = none ∧
    codeRank 23 0x80000000 true < codeRank 23 0 true ∧ codeRank 23 0x80000000 false = codeRank 23 0 false := by
  unfold isNaN; decide +kernel

/-- Conversions: elements with a value, NaNs and infinities of each kind, of 6, 8 and 16 bits; NX and its XV. -/
theorem test_witness_DivisionsExact_conversions : (elementValue 6 0 0x38).isSome = true ∧ (elementValue 8 0x3F80 8).isSome = true ∧
    elementValue 13 0 0x7F80 = none ∧ notANumber 6 0 0x80 ∧ ¬ notANumber 13 0 0x7F80 ∧ belowZero 13 0 0xFF80 ∧ (kindOf 5 = 13 ∧ kindOf 2 = 11) ∧ codeBits 9 < codeBits 0 := by
  unfold notANumber belowZero isNaN; decide +kernel

end Sys2Proof.Tests
end

section
/-! PROOFS. What the parts of the state that the module's events touch read as after an update: tables, dies, accounts, poison, what is reported
and logged. -/

namespace Sys2Proof.Machine

/-! ## Tables -/

@[simp] theorem tableGet_tableSet {κ α : Type} [DecidableEq κ] (k : κ) (v : α) (l : List (κ × α)) : tableGet k (tableSet k v l) = some v := by
  unfold tableSet
  induction l with
  | nil => simp [putFirst, tableGet]
  | cons x xs ih =>
    unfold putFirst
    by_cases h : x.1 = k
    · simp [h, tableGet]
    · simpa [h, tableGet] using ih

theorem tableGet_none {κ α : Type} [DecidableEq κ] (k : κ) (l : List (κ × α)) (h : k ∉ l.map (·.1)) : tableGet k l = none := by
  induction l with
  | nil => rfl
  | cons x xs ih =>
    simp only [List.map_cons, List.mem_cons, not_or] at h
    rw [tableGet, if_neg (Ne.symm h.1), ih h.2]

/-- A list read as a table by position, numbered from k on. -/
theorem tableGet_numbered {α : Type} (l : List α) (k i : Nat) : tableGet (k + i) (l.mapIdx fun j x => (k + j, x)) = l[i]? := by
  induction l generalizing k i with
  | nil => rfl
  | cons x xs ih =>
    rw [List.mapIdx_cons, tableGet]
    cases i with
    | zero => simp
    | succ i =>
      have e : k + (i + 1) = k + 1 + i := by omega
      have f : (fun j (x : α) => (k + (j + 1), x)) = fun j x => (k + 1 + j, x) := by
        funext j x; rw [show k + (j + 1) = k + 1 + j by omega]
      rw [if_neg (by simp), e, f, ih, List.getElem?_cons_succ]

theorem tableGet_mapIdxList {α : Type} (l : List α) (i : Nat) : tableGet i (mapIdxList (fun j x => (j, x)) l) = l[i]? := by
  simpa [mapIdxList] using tableGet_numbered l 0 i

theorem mapIdxList_keys {α : Type} (l : List α) : (mapIdxList (fun j x => (j, x)) l).map (·.1) = List.range l.length := by
  apply List.ext_getElem?
  intro i
  by_cases h : i < l.length <;> simp [mapIdxList, h]

theorem updAt_getD {α : Type} (f : α → α) (i k : Nat) (l : List α) (d : α) (h : k < l.length) :
    (updAt i f l).getD k d = if i = k then f (l.getD k d) else l.getD k d := by
  simp only [updAt, List.getD_eq_getElem?_getD, List.getElem?_modify, List.getElem?_eq_getElem h]
  split <;> rfl

theorem distinct_eq_true_iff (l : List Nat) : distinct l = true ↔ l.Nodup := by
  induction l with
  | nil => simp [distinct]
  | cons x xs ih => simp [distinct, ih]

/-! ## Dies -/

@[simp] theorem die_num (s : State) (d : Nat) : (s.die d).num = d := by
  unfold State.die
  cases h : s.dies.find? (·.num == d) with
  | none => rfl
  | some k => simpa using List.find?_some h

theorem die_setDie (s : State) (k : DieSt) (d : Nat) : (s.setDie k).die d = if k.num = d then k else s.die d := by
  unfold State.die State.setDie
  by_cases h : k.num = d
  · subst h
    rw [find_putFirst _ _ (by simp)]; simp
  · rw [if_neg h]
    congr 1
    apply find_putFirst_ne
    · simpa using h
    · intro x hx
      have hx : x.num = k.num := by simpa using hx
      simpa [hx] using h

theorem die_modDie (s : State) (n : Nat) (f : DieSt → DieSt) (hf : ∀ k, (f k).num = k.num) (d : Nat) :
    (s.modDie n f).die d = if n = d then f (s.die n) else s.die d := by
  unfold State.modDie
  rw [die_setDie, hf, die_num]

@[simp] theorem die_send (s : State) (o : Out) (d : Nat) : (s.send o).die d = s.die d := rfl
@[simp] theorem isLive_send (s : State) (o : Out) (d : Nat) : (s.send o).isLive d = s.isLive d := rfl

theorem isLive_lt {s : State} {d : Nat} (h : s.isLive d = true) : d < Config.dies := by
  simp only [State.isLive, Bool.and_eq_true, decide_eq_true_eq] at h
  exact h.1.1

/-- A die stays live where its status and its mask bit stay. -/
theorem isLive_congr {s t : State} {d : Nat} (hs : (t.die d).status = (s.die d).status) (hm : (t.die d).masked = (s.die d).masked) :
    t.isLive d = s.isLive d := by
  unfold State.isLive; rw [hs, hm]

/-- An event of a die changes dies alone: its counters. -/
theorem dieEvent_eq (s : State) (d evt dom n : Nat) : ∃ ds, s.dieEvent d evt dom n = { s with dies := ds } := by
  unfold State.dieEvent
  split
  · exact ⟨_, rfl⟩
  · exact ⟨s.dies, rfl⟩

/-! ## Accounts (R396) -/

@[simp] theorem account_dom (m : Module) (d : Nat) : (m.account d).dom = d := by
  unfold Module.account
  cases h : m.accounts.find? (·.dom == d) with
  | none => rfl
  | some k => simpa using List.find?_some h

theorem account_putFirst (m : Module) (a : Account) (d i : Nat) (hd : a.dom = d) :
    Module.account { m with accounts := putFirst (·.dom == d) a m.accounts } i = if d = i then a else m.account i := by
  unfold Module.account
  by_cases h : d = i
  · subst h
    rw [find_putFirst _ _ (by simpa using hd), if_pos rfl]; rfl
  · rw [if_neg h]
    congr 1
    apply find_putFirst_ne
    · simpa [hd] using h
    · intro x hx
      have hx : x.dom = d := by simpa using hx
      simpa [hx] using h

/-- The sets after a charge. -/
theorem charge_account (s : State) (d c n i : Nat) (hd : d < 65) :
    (s.charge d c n).module.account i =
      if d = i then { s.module.account d with counts := Vector.ofFn fun j =>
        if j.val = c then (s.module.account d).counts[j] + BitVec.ofNat 64 n else (s.module.account d).counts[j] }
      else s.module.account i := by
  have e : (if d < 64 then d else 64) = d := by split <;> omega
  unfold State.charge
  rw [e]
  exact account_putFirst s.module _ d i (account_dom s.module d)

/-- A charge adds to one counter of one set. -/
theorem charge_count (s : State) (d c n i : Nat) (hd : d < 65) (hc : c < 8) :
    ((s.charge d c n).module.account i).counts.getD c 0 =
      (s.module.account i).counts.getD c 0 + (if d = i then BitVec.ofNat 64 n else 0) := by
  rw [charge_account s d c n i hd]
  by_cases h : d = i
  · subst h
    simp [Vector.getD, hc]
  · simp [h]

/-- Charges of one counter to different sets add to each its own. -/
theorem charges_count (ps : List (Nat × Nat)) (c : Nat) (hc : c < 8) (hn : (ps.map (·.1)).Nodup) (hlt : ∀ p ∈ ps, p.1 < 65) (s : State) (i : Nat) :
    ((ps.foldl (fun (t : State) p => t.charge p.1 c p.2) s).module.account i).counts.getD c 0 =
      (s.module.account i).counts.getD c 0 + BitVec.ofNat 64 ((tableGet i ps).getD 0) := by
  induction ps generalizing s with
  | nil => simp [tableGet]
  | cons p ps ih =>
    obtain ⟨hp, hn⟩ := List.nodup_cons.mp hn
    rw [List.foldl_cons, ih hn (fun q hq => hlt q (List.mem_cons_of_mem _ hq)), charge_count _ _ _ _ _ (hlt p (List.mem_cons_self ..)) hc, tableGet]
    by_cases h : p.1 = i
    · subst h
      simp [tableGet_none _ _ hp]
    · simp [h]

/-- Charges change the accounts alone. -/
theorem charges_eq (ps : List (Nat × Nat)) (c : Nat) (s : State) :
    ∃ as, ps.foldl (fun (t : State) p => t.charge p.1 c p.2) s = { s with module := { s.module with accounts := as } } := by
  induction ps generalizing s with
  | nil => exact ⟨_, rfl⟩
  | cons p ps ih => exact ih (s.charge p.1 c p.2)

@[simp] theorem die_withDir (s : State) (m : Memory) (d : Nat) : (s.withDir m).die d = s.die d := rfl

/-! ## Poison (R385) -/

theorem poisoned_iff (m : Memory) (pa : Nat) : m.poisoned pa 1 = true ↔ ∃ b ∈ m.poison, sectorOf b = sectorOf pa := by
  simp only [Memory.poisoned, List.any_eq_true]
  refine exists_congr fun b => and_congr_right fun _ => ?_
  simp only [overlaps, Bool.and_eq_true, decide_eq_true_eq]
  unfold sectorOf
  omega

theorem poisoned_poisonSector (m : Memory) (sec pa : Nat) :
    (m.poisonSector sec).poisoned pa 1 = true ↔ sectorOf pa = sec ∨ m.poisoned pa 1 = true := by
  simp only [poisoned_iff, Memory.poisonSector, List.mem_append, List.mem_filter, List.mem_map, List.mem_range, bne_iff_ne]
  constructor
  · rintro ⟨b, ⟨hb, -⟩ | ⟨i, hi, rfl⟩, h⟩
    · exact .inr ⟨b, hb, h⟩
    · exact .inl (by rw [← h]; unfold sectorOf; omega)
  · rintro (h | ⟨b, hb, h⟩)
    · exact ⟨16 * sec + 0, .inr ⟨0, by omega, rfl⟩, by rw [h]; unfold sectorOf; omega⟩
    · by_cases hs : sectorOf b = sec
      · exact ⟨16 * sec + 0, .inr ⟨0, by omega, rfl⟩, by rw [← h, hs]; unfold sectorOf; omega⟩
      · exact ⟨b, .inl ⟨hb, hs⟩, h⟩

/-- Poisoning a list of sectors. -/
theorem poisoned_poisonSectors (ss : List Nat) (f : Nat → Nat) (m : Memory) (pa : Nat) :
    (ss.foldl (fun m i => m.poisonSector (f i)) m).poisoned pa 1 = true ↔ (∃ i ∈ ss, sectorOf pa = f i) ∨ m.poisoned pa 1 = true := by
  induction ss generalizing m with
  | nil => simp
  | cons i ss ih => simp only [List.foldl_cons, ih, poisoned_poisonSector, List.mem_cons, exists_eq_or_imp, or_assoc, or_left_comm]

theorem poisoned_poisonLine (m : Memory) (pa : Nat) : (m.poisonLine (lineOf pa)).poisoned pa 1 = true := by
  unfold Memory.poisonLine
  refine (poisoned_poisonSectors _ _ _ _).2 (.inl ⟨pa / 16 % 8, by simp; omega, ?_⟩)
  unfold sectorOf lineOf
  omega

@[simp] theorem leave_poison (m : Memory) (line d : Nat) : (m.leave line d).poison = m.poison := by
  unfold Memory.leave; split
  · rfl
  · split <;> rfl
  · rfl

/-- A directory has no part in what is poisoned. -/
theorem poisoned_leave (m : Memory) (line d pa n : Nat) : (m.leave line d).poisoned pa n = m.poisoned pa n := by
  simp [Memory.poisoned]

/-! ## Reports and the module's state -/

@[simp] theorem report_eq_send (s : State) (kind arg : Nat) : s.report kind arg = s.send (.report kind arg) := rfl

theorem running_of_boot {s : State} (h : s.module.boot = .running) : s.running = true := by simp [State.running, h]

/-- An entry of the log leaves everything but log and count. -/
theorem logError_eq (s : State) (die unit kind addr : Nat) : ∃ lg, s.logError die unit kind addr =
    { s with module := { s.module with log := lg, logged := s.module.logged + 1 } } := ⟨_, rfl⟩

end Sys2Proof.Machine
end

section
/-! PROOFS. What the fabric and the module controller do on their own (R373, R377, R379, R387, R388, R397, R398, R401): O49, event by event. -/

namespace Sys2Proof.Machine

/-! ## Links (R373) -/

theorem linkRetry_absent (s : State) (link flit : Nat) (h : linkDie link = none) : exec (.linkRetry ⟨link, flit⟩) s = .next s := by
  simp [execLinkRetry, h]

theorem linkDown_absent (s : State) (link : Nat) (h : linkDie link = none) : exec (.linkDown link) s = .next s := by
  simp [execLinkDown, h]

/-- A retry is counted, as one more of the same flit or the first of another, and logged. -/
theorem linkRetry_counts (s : State) (link flit : Nat) (hb : s.module.boot = .running) (hu : link ∉ s.module.linksDown) (hl : linkDie link ≠ none) :
    ∃ t : State, exec (.linkRetry ⟨link, flit⟩) s = .next t ∧ (∃ n, tableGet link t.module.retries = some (flit, n) ∧
        (∀ m, tableGet link s.module.retries = some (flit, m) → n = m + 1) ∧
        ((∀ m, tableGet link s.module.retries ≠ some (flit, m)) → n = 1)) ∧
      t.module.logged = s.module.logged + 1 ∧ t.memory = s.memory ∧ t.groups = s.groups ∧ t.out = s.out := by
  obtain ⟨die, hd⟩ := Option.ne_none_iff_exists'.mp hl
  simp only [exec_linkRetry, execLinkRetry, hd, running_of_boot hb, List.contains_eq_mem, hu, Bool.not_true, Bool.false_or, decide_false,
    Bool.false_eq_true, if_false]
  generalize hs1 : ({ s with module := _ } : State) = s1
  obtain ⟨ds, he⟩ := dieEvent_eq s1 die 6 64 1
  rw [he]
  subst hs1
  refine ⟨_, rfl, ⟨_, tableGet_tableSet _ _ _, fun m hm => ?_, fun hm => ?_⟩, rfl, rfl, rfl, rfl⟩
  · simp [hm]
  · cases hr : tableGet link s.module.retries with
    | none => rfl
    | some p =>
      have hp : p.1 ≠ flit := fun e => hm p.2 (by rw [hr, ← e])
      simp [hp]

/-- Fewer than 16 retries of one flit leave a link as it is. -/
theorem linkDown_early (s : State) (link : Nat) (h : ∀ f n, tableGet link s.module.retries = some (f, n) → n < 16) :
    exec (.linkDown link) s = .next s := by
  simp only [exec_linkDown, execLinkDown]
  split
  · next f n _ hr => simp [h f n hr]
  · rfl

theorem linkDown_reported (s : State) (link f n : Nat) (hb : s.module.boot = .running) (hu : link ∉ s.module.linksDown) (hl : linkDie link ≠ none)
    (hr : tableGet link s.module.retries = some (f, n)) (hn : 16 ≤ n) :
    ∃ t : State, exec (.linkDown link) s = .next t ∧
      t.module.linksDown = s.module.linksDown ++ [link] ∧ t.out = s.out ++ [.report 0 link] ∧ t.module.logged = s.module.logged + 1 ∧
      t.memory = s.memory ∧ t.groups = s.groups := by
  obtain ⟨die, hd⟩ := Option.ne_none_iff_exists'.mp hl
  have hn : ¬ n < 16 := by omega
  simp only [exec_linkDown, execLinkDown, hd, hr, running_of_boot hb, List.contains_eq_mem, hu, hn, Bool.not_true, decide_false, Bool.or_self,
    Bool.false_eq_true, if_false]
  generalize hs1 : ({ s with module := _ } : State) = s1
  obtain ⟨lg, he⟩ := logError_eq s1 die 3 1 link
  rw [he]
  subst hs1
  exact ⟨_, rfl, rfl, rfl, rfl, rfl, rfl⟩

/-! ## A die that does not answer (R379) -/

theorem dieUnresponsive_answers (s : State) (die : Nat) (h : s.silent die = false) : exec (.dieUnresponsive die) s = .next s := by
  simp [execDieUnresponsive, h]

/-- The die is reported and marked; it stays live. -/
theorem dieUnresponsive_reported (s : State) (die : Nat) (hb : s.module.boot = .running) (hl : s.isLive die = true)
    (hu : (s.die die).unresponsive = false) (hs : s.silent die = true) :
    ∃ t : State, exec (.dieUnresponsive die) s = .next t ∧ t.out = s.out ++ [.report 1 die] ∧
      t.die die = { s.die die with unresponsive := true } ∧ t.isLive die = true := by
  have hd : (s.modDie die fun d => { d with unresponsive := true }).die die = { s.die die with unresponsive := true } := by
    rw [die_modDie (hf := by intro _; rfl), if_pos rfl]
  refine ⟨(s.modDie die fun d => { d with unresponsive := true }).report 1 die, ?_, rfl, hd, ?_⟩
  · simp [execDieUnresponsive, running_of_boot hb, hl, hu, hs]
  · rw [report_eq_send, isLive_send, isLive_congr (s := s) (by rw [hd]) (by rw [hd]), hl]

/-! ## Power and temperature (R387, R388) -/

theorem die_withhold (s : State) (die n d : Nat) :
    (s.withhold die n).die d = if die = d then { s.die die with withheldUntil := max (s.die die).withheldUntil n } else s.die d := by
  unfold State.withhold
  rw [die_modDie (hf := by intro _; rfl)]

theorem powerLimitWithhold_within (s : State) (die n rest : Nat) (draws : List (Nat × Nat)) (h : (draws.map (·.2)).sum + rest ≤ s.module.powerLimit) :
    exec (.powerLimitWithhold die ⟨n, draws, rest⟩) s = .next s := by
  simp [execPowerLimitWithhold, h]

/-- Where the draws pass the maximum, the die that draws most of those that still issue is withheld. -/
theorem powerLimitWithhold_passed (s : State) (die n rest : Nat) (draws : List (Nat × Nat)) (hb : s.module.boot = .running) (hl : s.isLive die = true)
    (h : s.module.powerLimit < (draws.map (·.2)).sum + rest) (hn : (draws.map (·.1)).Nodup)
    (hm : ∀ p ∈ draws, s.isLive p.1 = true → p.2 ≤ (tableGet die draws).getD 0 ∨ s.now < (s.die p.1).withheldUntil) :
    exec (.powerLimitWithhold die ⟨n, draws, rest⟩) s = .next (s.withhold die n) := by
  have above : (draws.any fun p => (tableGet die draws).getD 0 < p.2 && s.isLive p.1 && (s.die p.1).withheldUntil ≤ s.now) = false := by
    rw [List.any_eq_false]
    intro p hp
    have := hm p hp
    simp only [Bool.and_eq_true, decide_eq_true_eq, not_and]
    rintro ⟨hd, hlp⟩
    have := this hlp
    omega
  simp only [exec_powerLimitWithhold, execPowerLimitWithhold, above, running_of_boot hb, hl, (distinct_eq_true_iff _).2 hn, Nat.not_le.2 h,
    Bool.not_true, decide_false, Bool.or_self, Bool.false_eq_true, if_false]

/-- From 95 °C and below the trip, issue on a K-die is withheld, and any die reported. -/
theorem temperatureThrottle_hot (s : State) (die temp n : Nat) (hb : s.module.boot = .running) (hd : die < 520) (h1 : 95 ≤ temp) (h2 : temp < 105) :
    exec (.temperatureThrottle die temp n) s = .next ((if die < Config.dies then s.withhold die n else s).report 2 die) := by
  have e1 : ¬ dieNumbers ≤ die := Nat.not_le.2 hd
  have e2 : ¬ temp < 95 := by omega
  have e3 : ¬ 105 ≤ temp := by omega
  simp only [exec_temperatureThrottle, execTemperatureThrottle, running_of_boot hb, e1, e2, e3, Bool.not_true, decide_false, Bool.or_self,
    Bool.false_eq_true, if_false]

theorem temperatureThrottle_outside (s : State) (die temp n : Nat) (h : temp < 95 ∨ 105 ≤ temp) : exec (.temperatureThrottle die temp n) s = .next s := by
  rcases h with h | h <;> simp [execTemperatureThrottle, h]

/-- What the throttle of a K-die leaves. -/
theorem temperatureThrottle_withholds (s : State) (die temp n : Nat) (hb : s.module.boot = .running) (hd : die < Config.dies) (h1 : 95 ≤ temp)
    (h2 : temp < 105) : ∃ t : State, exec (.temperatureThrottle die temp n) s = .next t ∧ t.out = s.out ++ [.report 2 die] ∧
      t.die die = { s.die die with withheldUntil := max (s.die die).withheldUntil n } ∧ t.memory = s.memory ∧ t.groups = s.groups := by
  refine ⟨_, temperatureThrottle_hot s die temp n hb (Nat.lt_trans hd (by decide)) h1 h2, ?_⟩
  rw [if_pos hd]
  refine ⟨rfl, ?_, rfl, rfl⟩
  rw [report_eq_send, die_send, die_withhold, if_pos rfl]

/-- What the throttle of any die leaves of the others. -/
theorem temperatureThrottle_others (s : State) (die temp n : Nat) (hb : s.module.boot = .running) (hd : die < 520) (h1 : 95 ≤ temp)
    (h2 : temp < 105) : ∃ t : State, exec (.temperatureThrottle die temp n) s = .next t ∧
      t.out = s.out ++ [.report 2 die] ∧ t.memory = s.memory ∧ t.groups = s.groups ∧ ∀ d, d ≠ die → t.die d = s.die d := by
  refine ⟨_, temperatureThrottle_hot s die temp n hb hd h1 h2, ?_⟩
  split
  · refine ⟨rfl, rfl, rfl, fun d hne => ?_⟩
    rw [report_eq_send, die_send, die_withhold, if_neg hne.symm]
  · exact ⟨rfl, rfl, rfl, fun _ _ => rfl⟩

/-! ## Offsets (R377) -/

theorem tofsOk_of (offs : List Int) (hl : offs.length = 16)
    (h : ∀ i j : Nat, i < 4 → j < 4 → (offs.getD (4 * i + i) 0 = 0) ∧ offs.getD (4 * j + i) 0 = -(offs.getD (4 * i + j) 0) ∧
      offs.getD (4 * i + j) 0 - (Config.regionOffset j - Config.regionOffset i) ≤ 4 ∧
      (Config.regionOffset j - Config.regionOffset i) - offs.getD (4 * i + j) 0 ≤ 4) : tofsOk offs = true := by
  simp only [tofsOk, hl, beq_self_eq_true, Bool.true_and, List.all_eq_true, List.mem_range, Bool.and_eq_true, Bool.or_eq_true, bne_iff_ne, beq_iff_eq,
    decide_eq_true_eq]
  intro i hi j hj
  obtain ⟨h0, hneg, hle, hge⟩ := h i j hi hj
  refine ⟨⟨⟨?_, hneg⟩, hle⟩, hge⟩
  by_cases hij : i = j
  · subst hij; exact .inr h0
  · exact .inl hij

theorem tofsMeasure_early (s : State) (offs : List Int) (h : nsOf s.now < s.module.tofsAt + 1073741824) : exec (.tofsMeasure offs) s = .next s := by
  simp [execTofsMeasure, h]

/-- All entries are replaced at once, and nothing but them and their time. -/
theorem tofsMeasure_due (s : State) (offs : List Int) (hb : s.module.boot = .running) (hk : tofsOk offs = true)
    (h : s.module.tofsAt + 1073741824 ≤ nsOf s.now) :
    ∃ t : State, exec (.tofsMeasure offs) s = .next t ∧ { t with module := s.module } = s ∧
      t.module.tofsAt = nsOf s.now ∧ ∀ n, t.tofs n = BitVec.ofInt 32 (offs.getD n 0) := by
  refine ⟨{ s with module := { s.module with tofs := mapIdxList (fun i e => (i, e)) offs, tofsAt := nsOf s.now } }, ?_, rfl, rfl, fun n => ?_⟩
  · simp only [exec_tofsMeasure, execTofsMeasure, running_of_boot hb, hk, Nat.not_lt.2 h, Nat.reducePow, Bool.not_true, decide_false, Bool.or_self,
      Bool.false_eq_true, if_false]
  · simp only [State.tofs, tableGet_mapIdxList, List.getD_eq_getElem?_getD]

/-! ## Energy (R396 to R398) -/

theorem sum_shares_le (mj total : Nat) (acts : List Nat) : (acts.map fun a => mj * a / total).sum ≤ mj * acts.sum / total := by
  induction acts with
  | nil => simp
  | cons a acts ih =>
    calc ((a :: acts).map fun a => mj * a / total).sum
        = mj * a / total + (acts.map fun a => mj * a / total).sum := by simp
      _ ≤ mj * a / total + mj * acts.sum / total := by omega
      _ ≤ (mj * a + mj * acts.sum) / total := Nat.div_add_div_le_add_div ..
      _ = mj * (a :: acts).sum / total := by rw [List.sum_cons, Nat.mul_add]

@[simp] theorem shares_length (m : Module) (mj : Nat) : (m.shares mj).length = 65 := by simp [Module.shares]

/-- Whole shares never pass what is shared out, so that the remainder makes it up. -/
theorem shares_sum (m : Module) (mj : Nat) : (m.shares mj).sum = mj := by
  simp only [Module.shares, List.sum_append, List.sum_singleton]
  refine Nat.add_sub_cancel' ?_
  generalize (List.range 64).map m.activity = acts
  have e : (fun a => if acts.sum == 0 then 0 else mj * a / acts.sum) = fun a => mj * a / acts.sum := by
    funext a
    by_cases h0 : acts.sum = 0
    · simp only [h0, beq_self_eq_true, if_true, Nat.div_zero]
    · simp only [beq_iff_eq, h0, if_false]
  calc (acts.map fun a => if acts.sum == 0 then 0 else mj * a / acts.sum).sum
      = (acts.map fun a => mj * a / acts.sum).sum := by rw [e]
    _ ≤ mj * acts.sum / acts.sum := sum_shares_le ..
    _ ≤ mj := Nat.div_le_of_le_mul (Nat.le_of_eq (Nat.mul_comm ..))

theorem energyMeasure_early (s : State) (mj : Nat) (h : nsOf s.now < s.module.energyAt + 1000000) : exec (.energyMeasure mj) s = .next s := by
  simp [execEnergyMeasure, h]

theorem energyMeasure_passed (s : State) (mj : Nat) (h : s.module.powerLimit < mj) : exec (.energyMeasure mj) s = .next s := by
  simp [execEnergyMeasure, h]

/-- Each set receives its share; the accounts as they then stand are the boundary's. -/
theorem energyMeasure_due (s : State) (mj : Nat) (hb : s.module.boot = .running) (h : s.module.energyAt + 1000000 ≤ nsOf s.now)
    (hp : mj ≤ s.module.powerLimit) :
    ∃ t : State, exec (.energyMeasure mj) s = .next t ∧ { t with module := s.module } = s ∧
      t.module.boundary = t.module.accounts ∧ t.module.energyAt = s.module.energyAt + 1000000 ∧
      ∀ i, (t.module.account i).counts.getD 6 0 =
        (s.module.account i).counts.getD 6 0 + BitVec.ofNat 64 ((s.module.shares mj).getD i 0) := by
  have hn : ((mapIdxList (fun i (e : Nat) => (i, e)) (s.module.shares mj)).map (·.1)).Nodup := by
    rw [mapIdxList_keys]; exact List.nodup_range
  have hlt : ∀ p ∈ mapIdxList (fun i (e : Nat) => (i, e)) (s.module.shares mj), p.1 < 65 := by
    intro p hp
    have : p.1 ∈ List.range (s.module.shares mj).length := mapIdxList_keys (s.module.shares mj) ▸ List.mem_map_of_mem hp
    simpa using this
  have hc := charges_count _ 6 (by decide) hn hlt s
  obtain ⟨as, he⟩ := charges_eq (mapIdxList (fun i (e : Nat) => (i, e)) (s.module.shares mj)) 6 s
  simp only [he, tableGet_mapIdxList, ← List.getD_eq_getElem?_getD] at hc
  refine ⟨{ s with module := { s.module with accounts := as, boundary := as, energyAt := s.module.energyAt + 1000000 } }, ?_, rfl, rfl, rfl, hc⟩
  simp only [exec_energyMeasure, execEnergyMeasure, running_of_boot hb, Nat.not_lt.2 h, Nat.not_lt.2 hp, he, Bool.not_true, decide_false, Bool.or_self,
    Bool.false_eq_true, if_false]

/-! ## Errors (R401) -/

/-- Noting an error changes the counts of dies, and of the module the log and the count of soft errors, that of its unit by one. -/
theorem noteError_eq (s : State) (e : ErrorEvent) : ∃ ds lg, s.noteError e =
    { s with dies := ds, module := { s.module with
        soft := tableSet (e.die, e.unitNo) ((tableGet (e.die, e.unitNo) s.module.soft).getD 0 + 1) s.module.soft
        log := lg, logged := s.module.logged + 1 } } := by
  cases hc : e.corrected with
  | false =>
    simp only [State.noteError, hc, Bool.false_eq_true, if_false]
    cases e.unit <;> exact ⟨s.dies, _, rfl⟩
  | true =>
    simp only [State.noteError, hc, if_true]
    generalize hs1 : ({ s with module := _ } : State) = s1
    obtain ⟨ds, he⟩ := dieEvent_eq s1 e.die 0x14 64 1
    rw [he]
    subst hs1
    cases e.unit <;> exact ⟨ds, _, rfl⟩

/-- A bad line is poisoned at its home and dropped from the die that found it. -/
theorem uncorrected_line (s : State) (e : ErrorEvent) (pa : Nat) (hu : e.unit = .line pa) :
    (s.uncorrected e).memory.poisoned pa 1 = true ∧ (s.uncorrected e).memory.mem = s.memory.mem ∧
      ((s.uncorrected e).die e.die).lines = (s.die e.die).lines.filter (·.line != pa / 128) := by
  have hd : ((s.poisonLine (lineOf pa)).modDie e.die fun d => { d with lines := d.lines.filter (·.line != lineOf pa) }).die e.die =
      { s.die e.die with lines := (s.die e.die).lines.filter (·.line != lineOf pa) } := by
    rw [die_modDie (hf := by intro _; rfl), if_pos rfl]; rfl
  simp only [State.uncorrected, hu]
  split
  · refine ⟨(poisoned_leave ..).trans (poisoned_poisonLine ..), (leave_mem ..).trans (poisonLine_mem ..), ?_⟩
    rw [die_withDir, hd]; rfl
  · refine ⟨poisoned_poisonLine .., poisonLine_mem .., ?_⟩
    rw [hd]; rfl

/-- What an uncorrectable error does leaves the counts of errors. -/
theorem uncorrected_counts (s : State) (e : ErrorEvent) :
    (s.uncorrected e).module.logged = s.module.logged ∧ (s.uncorrected e).module.soft = s.module.soft := by
  cases hu : e.unit with
  | line pa =>
    simp only [State.uncorrected, hu]
    split <;> exact ⟨rfl, rfl⟩
  | link l =>
    simp only [State.uncorrected, hu]
    split <;> exact ⟨rfl, rfl⟩
  | _ => simp only [State.uncorrected, hu]; exact ⟨rfl, rfl⟩

/-- A warp that neither has ended nor is evicted nor in its handler holds 0x01 and stops. -/
theorem checked_eq (w : Warp) (unit : Nat) (he : w.ended = false) (hv : w.evicted = false) (hs : w.saved = none) :
    w.checked unit = { w with
      pending := w.pending ++ [Raised.plain 0x01 unit 0 .c false (w.c.slice 0).pc (gangSlices w.c (w.c.slice 0).gang)]
      c := { w.c with stopped := true }, a := { w.a with stopped := true } } := by
  simp only [Warp.checked, he, hv, hs, Bool.or_self, Bool.false_eq_true, if_false]

@[simp] theorem checked_key (w : Warp) (unit : Nat) : (w.checked unit).key = w.key := by
  unfold Warp.checked
  dsimp only
  split
  · rfl
  · split
    · split <;> rfl
    · rfl

theorem errorDetect_corrected (s : State) (e : ErrorEvent) (hb : s.module.boot = .running) (hc : e.corrected = true) :
    exec (.errorDetect e) s = .next (s.noteError e) := by
  simp [execErrorDetect, running_of_boot hb, hc]

theorem errorDetect_uncorrected (s : State) (e : ErrorEvent) (hb : s.module.boot = .running) (hc : e.corrected = false) :
    exec (.errorDetect e) s = .next ((s.noteError e).uncorrected e) := by
  simp [execErrorDetect, running_of_boot hb, hc]

/-- Every error is counted once and logged; a corrected one leaves memory, groups and what has been sent. -/
theorem errorDetect_counts (s : State) (e : ErrorEvent) (hb : s.module.boot = .running) :
    ∃ t : State, exec (.errorDetect e) s = .next t ∧ t.module.logged = s.module.logged + 1 ∧
      tableGet (e.die, e.unitNo) t.module.soft = some ((tableGet (e.die, e.unitNo) s.module.soft).getD 0 + 1) ∧
      (e.corrected = true → t.memory = s.memory ∧ t.groups = s.groups ∧ t.out = s.out) ∧
      (e.corrected = false → t = (s.noteError e).uncorrected e) := by
  obtain ⟨ds, lg, hn⟩ := noteError_eq s e
  cases hc : e.corrected with
  | true =>
    refine ⟨_, errorDetect_corrected s e hb hc, ?_⟩
    rw [hn]
    exact ⟨rfl, tableGet_tableSet .., fun _ => ⟨rfl, rfl, rfl⟩, fun h => absurd h (by decide)⟩
  | false =>
    obtain ⟨hl, hs⟩ := uncorrected_counts (s.noteError e) e
    refine ⟨_, errorDetect_uncorrected s e hb hc, ?_, ?_, fun h => absurd h (by decide), fun _ => rfl⟩
    · rw [hl, hn]
    · rw [hs, hn]; exact tableGet_tableSet ..

/-- A bad sector of a stack is poisoned, and no byte of memory changes. -/
theorem uncorrected_hbm (s : State) (e : ErrorEvent) (pa : Nat) (hu : e.unit = .hbm pa) :
    (s.uncorrected e).memory.poisoned pa 1 = true ∧ (s.uncorrected e).memory.mem = s.memory.mem ∧ (s.uncorrected e).groups = s.groups := by
  simp only [State.uncorrected, hu]
  exact ⟨(poisoned_poisonSector ..).2 (.inl rfl), rfl, rfl⟩

/-- A bad row of the state that a warp holds raises 0x01 in it and stops both strands. -/
theorem uncorrected_warpState (s : State) (e : ErrorEvent) (k : WarpKey) (w : Warp) (hu : e.unit = .warpState k) (hw : s.warp? k = some w)
    (he : w.ended = false) (hv : w.evicted = false) (hs : w.saved = none) :
    ∃ w' r, (s.uncorrected e).warp? k = some w' ∧ w'.pending = w.pending ++ [r] ∧ r.code = 0x01 ∧ r.aux = e.unitNo ∧ r.slice = 0 ∧ w'.lanes = w.lanes ∧
      w'.c.stopped = true ∧ w'.a.stopped = true := by
  refine ⟨w.checked e.unitNo, Raised.plain 0x01 e.unitNo 0 .c false (w.c.slice 0).pc (gangSlices w.c (w.c.slice 0).gang), ?_, ?_⟩
  · simp only [State.uncorrected, hu]
    rw [warp_modWarp (hf := by intro w hk; rw [checked_key, hk]), if_pos rfl, hw, Option.map_some]
  · rw [checked_eq w e.unitNo he hv hs]
    exact ⟨rfl, rfl, rfl, rfl, rfl, rfl, rfl⟩

/-- A link that fails is down and reported. -/
theorem uncorrected_link (s : State) (e : ErrorEvent) (l : Nat) (hu : e.unit = .link l) (hl : l ∉ s.module.linksDown) :
    l ∈ (s.uncorrected e).module.linksDown ∧ (s.uncorrected e).out = s.out ++ [.report 0 l] := by
  simp only [State.uncorrected, hu, List.contains_eq_mem, hl, decide_false, Bool.false_eq_true, if_false]
  exact ⟨List.mem_append_right _ (List.mem_singleton_self l), rfl⟩

/-- What the entry of an error in the log leaves. -/
theorem noteError_keeps (s : State) (e : ErrorEvent) : (s.noteError e).memory = s.memory ∧ (s.noteError e).groups = s.groups ∧
    (s.noteError e).out = s.out ∧ (s.noteError e).module.linksDown = s.module.linksDown := by
  obtain ⟨ds, lg, hn⟩ := noteError_eq s e
  rw [hn]
  exact ⟨rfl, rfl, rfl, rfl⟩

theorem noteError_warp (s : State) (e : ErrorEvent) (k : WarpKey) : (s.noteError e).warp? k = s.warp? k := by
  unfold State.warp? State.group?
  rw [(noteError_keeps s e).2.1]

/-! ## O49 -/

/-- Settles O49: each event by its own lemmas above. -/
theorem moduleEventsComplete : Obligations.ModuleEventsComplete := by
  unfold Obligations.ModuleEventsComplete
  intro s hb
  refine ⟨fun link flit hu => ⟨fun hl => ?_, fun hl => ?_⟩, fun die hl => ⟨dieUnresponsive_answers s die, dieUnresponsive_reported s die hb hl,
      fun n draws rest => ⟨powerLimitWithhold_within s die n rest draws, fun h hn hm => ?_⟩, fun temp n => ?_, fun temp n h => ?_⟩,
    fun die temp n => temperatureThrottle_others s die temp n hb, temperatureThrottle_outside s,
    fun offs hlen hoffs => ⟨tofsMeasure_early s offs, fun h => ?_⟩, fun mj => ⟨energyMeasure_early s mj, energyMeasure_passed s mj, fun h hp => ?_⟩,
    fun e => ?_⟩
  · exact ⟨linkRetry_absent s link flit hl, linkDown_absent s link hl⟩
  · exact ⟨linkRetry_counts s link flit hb hu hl, linkDown_early s link, fun f n => linkDown_reported s link f n hb hu hl⟩
  · exact ⟨_, powerLimitWithhold_passed s die n rest draws hb hl h hn hm, rfl, (die_withhold ..).trans (if_pos rfl)⟩
  · exact temperatureThrottle_withholds s die temp n hb (isLive_lt hl)
  · exact temperatureThrottle_outside s die temp n (.inl h)
  · obtain ⟨t, ht, hframe, hat, htofs⟩ := tofsMeasure_due s offs hb (tofsOk_of offs hlen hoffs) h
    exact ⟨t, ht, hframe, hat, fun n _ => htofs n⟩
  · obtain ⟨t, ht, hframe, hbound, hat, hcounts⟩ := energyMeasure_due s mj hb h hp
    exact ⟨t, ht, hframe, hbound, hat, shares_sum _ _, fun i _ => hcounts i⟩
  · obtain ⟨hmem, hgroups, hout, hdown⟩ := noteError_keeps s e
    obtain ⟨t, ht, hlogged, hsoft, hcorrected, huncorrected⟩ := errorDetect_counts s e hb
    refine ⟨t, ht, hlogged, hsoft, hcorrected, fun hc => ?_⟩
    obtain rfl := huncorrected hc
    refine ⟨fun pa hu => ?_, fun pa hu => ?_, fun k w hu hw => ?_, fun l hu hl => ?_⟩
    · rw [← hmem, ← hgroups]
      exact uncorrected_hbm _ e pa hu
    · obtain ⟨hp, hm, hlines⟩ := uncorrected_line (s.noteError e) e pa hu
      rw [← hmem, hlines]
      exact ⟨hp, hm, fun l hl => by simpa using (List.mem_filter.1 hl).2⟩
    · exact uncorrected_warpState _ e k w hu ((noteError_warp s e k).trans hw)
    · rw [← hout]
      exact uncorrected_link _ e l hu (hdown ▸ hl)

end Sys2Proof.Machine
end

section
/-! PROOFS. Power (R1 to R4, R379, R388 to R390, R393): a trip, and the boot stage by stage: O50. -/

namespace Sys2Proof.Machine

/-! ## A trip (R388) -/

theorem thermalTrip_below (s : State) (stack : Bool) (site temp : Nat) (h : temp < (if stack then 95 else 105)) :
    exec (.thermalTrip stack site temp) s = .next s := by
  simp only [exec_thermalTrip, execThermalTrip, h, decide_true, Bool.or_true, if_true]

/-- A trip is reported and takes the power. -/
theorem thermalTrip_trips (s : State) (stack : Bool) (site temp : Nat) (hb : s.module.boot ≠ .off) (hs : site < (if stack then 512 else 520))
    (h : (if stack then 95 else 105) ≤ temp) :
    exec (.thermalTrip stack site temp) s = .next ((s.report (if stack then 4 else 3) site).unpowered) := by
  have e1 : ¬ (if stack then Config.dies else dieNumbers) ≤ site := Nat.not_le.2 hs
  have e2 : (s.module.boot == .off) = false := by simpa using hb
  simp only [exec_thermalTrip, execThermalTrip, e1, e2, Nat.not_lt.2 h, decide_false, Bool.or_self, Bool.false_eq_true, if_false]

/-! ## Images and stages (R389, R390) -/

/-- Whether an image runs is a matter of the fuses and the versions raised since. -/
theorem runs_congr {m n : Module} (hf : m.fuses = n.fuses) (hv : m.fused = n.fused) (i : FwImage) : m.runs i = n.runs i := by
  unfold Module.runs Module.fusedVersion
  rw [hf, hv]

/-- The stages are those of the parts, the versions raised and the staged images. -/
theorem stages_congr {m n : Module} (hv : m.fused = n.fused) (hs : m.staged = n.staged) (b : BootImages) : m.stages b = n.stages b := by
  simp only [Module.stages, hv, hs]

/-- A register extended by contents in order. -/
def extended (r : List Byte) (contents : List (List Byte)) : List Byte := contents.foldl (fun r x => sha384 (r ++ sha384 x)) r

theorem extend_meas_getD (m : Module) (reg k : Nat) (content : List Byte) (hk : k < m.meas.length) :
    (m.extend reg content).meas.getD k [] = if reg = k then extended (m.meas.getD k []) [content] else m.meas.getD k [] :=
  updAt_getD _ reg k m.meas [] hk

@[simp] theorem extend_meas_length (m : Module) (reg : Nat) (content : List Byte) : (m.extend reg content).meas.length = m.meas.length := by
  simp [Module.extend, updAt]

@[simp] theorem runs_extend (m : Module) (reg : Nat) (content : List Byte) (i : FwImage) : (m.extend reg content).runs i = m.runs i := rfl

/-- Boot changes the registers alone. -/
theorem bootStages_frame (xs : List BootStage) (m : Module) : ∃ meas, (bootStages m xs).1 = { m with meas := meas } := by
  induction xs generalizing m with
  | nil => exact ⟨m.meas, rfl⟩
  | cons x xs ih =>
    rw [bootStages]
    split
    · exact ih (m.extend x.reg x.content)
    · split
      · exact ih (m.extend x.reg x.content)
      · exact ⟨_, rfl⟩

/-- Boot passes when every image runs. -/
theorem bootStages_passes (xs : List BootStage) (m : Module) :
    (bootStages m xs).2 = true ↔ ∀ x ∈ xs, ∀ i, x.image = some i → m.runs i = true := by
  induction xs generalizing m with
  | nil => simp [bootStages]
  | cons x xs ih =>
    rw [bootStages, List.forall_mem_cons]
    split
    · next hx => simp [ih, hx]
    · next i hx => by_cases hi : m.runs i = true <;> simp [ih, hx, hi]

/-- A register after a boot that passes: extended by the contents of its stages, in order. -/
theorem bootStages_meas (xs : List BootStage) (m : Module) (hp : (bootStages m xs).2 = true) :
    (bootStages m xs).1.meas.length = m.meas.length ∧ ∀ k, k < m.meas.length →
      (bootStages m xs).1.meas.getD k [] = extended (m.meas.getD k []) ((xs.filter (·.reg == k)).map (·.content)) := by
  induction xs generalizing m with
  | nil => exact ⟨rfl, fun _ _ => rfl⟩
  | cons x xs ih =>
    have hnext : bootStages m (x :: xs) = bootStages (m.extend x.reg x.content) xs := by
      rw [bootStages]
      split
      · rfl
      · next i hx => rw [if_pos]; exact (bootStages_passes _ m).1 hp x (List.mem_cons_self ..) i hx
    rw [hnext] at hp ⊢
    obtain ⟨hlen, hmeas⟩ := ih _ hp
    rw [extend_meas_length] at hlen hmeas
    refine ⟨hlen, fun k hk => ?_⟩
    rw [hmeas k hk, extend_meas_getD m _ k _ hk, List.filter_cons]
    by_cases hr : x.reg = k
    · simp [hr, extended]
    · simp [hr]

/-- Stages of one register among those of a list of images. -/
theorem filter_imageStages (l : List FwImage) (f : FwImage → FwImage) (reg k : Nat) :
    (l.map fun i => imageStage reg (f i)).filter (·.reg == k) = if reg = k then l.map fun i => imageStage reg (f i) else [] := by
  by_cases h : reg = k
  · rw [if_pos h, List.filter_eq_self]
    intro x hx
    obtain ⟨i, -, rfl⟩ := List.mem_map.1 hx
    exact beq_iff_eq.2 h
  · rw [if_neg h, List.filter_eq_nil_iff]
    intro x hx
    obtain ⟨i, -, rfl⟩ := List.mem_map.1 hx
    exact fun e => h (beq_iff_eq.1 e)

/-- What each register measures (R389). -/
def measured (m : Module) (b : BootImages) : List (List (List Byte)) :=
  let read (i : FwImage) : List Byte := imageBytes (stagedFor m.staged i)
  [[fuseBytes b.fuses m.fused], [read b.controller], b.edies.map read, [read b.mdie], [read b.kdie], [read b.crown], b.handlers.map read, [b.config]]

theorem stages_measured (m : Module) (b : BootImages) (k : Nat) (hk : k < 8) :
    ((m.stages b).filter (·.reg == k)).map (·.content) = (measured m b).getD k [] := by
  simp only [Module.stages, List.filter_append, filter_imageStages]
  have hk : k = 0 ∨ k = 1 ∨ k = 2 ∨ k = 3 ∨ k = 4 ∨ k = 5 ∨ k = 6 ∨ k = 7 := by omega
  rcases hk with rfl | rfl | rfl | rfl | rfl | rfl | rfl | rfl <;> simp [imageStage, measured]

/-! ## The dies at power-on (R2, R379) -/

theorem find_map_num (l : List Nat) (g : Nat → DieSt) (hg : ∀ n, (g n).num = n) (d : Nat) :
    (l.map g).find? (·.num == d) = if d ∈ l then some (g d) else none := by
  induction l with
  | nil => simp
  | cons x xs ih =>
    rw [List.map_cons, List.find?_cons, hg]
    by_cases h : x = d
    · simp [h]
    · have e1 : (x == d) = false := by simpa using h
      have e2 : ¬ d = x := fun e => h e.symm
      simp [e1, e2, ih]

/-- Where every listed die is masked, the live dies are those not listed. -/
theorem isLive_unless_listed (s : State) (l k : List Nat) (g h : Nat → DieSt) (hs : s.dies = l.map g ++ k.map h) (hg : ∀ n, (g n).num = n)
    (hh : ∀ n, (h n).num = n) (hgm : ∀ n, (g n).masked = true) (hhm : ∀ n, (h n).masked = true) (d : Nat) :
    s.isLive d = true ↔ d < Config.dies ∧ d ∉ l ∧ d ∉ k := by
  unfold State.isLive State.die
  rw [hs, List.find?_append, find_map_num l g hg, find_map_num k h hh]
  by_cases hl : d ∈ l
  · simp [hl, hgm]
  · by_cases hk : d ∈ k
    · simp [hl, hk, hhm]
    · simp [hl, hk, DieSt.fresh]

/-! ## POWER_ON -/

theorem powerOn_unfit (s : State) (b : BootImages) (h : s.module.bootFits b = false) : exec (.powerOn b) s = .next s := by
  simp [execPowerOn, h]

/-- Parts fit a module with fuses only where they have those. -/
theorem bootFits_fuses (m : Module) (b : BootImages) (f : Fuses) (hf : m.fuses = some f) (hb : b.fuses ≠ f) : m.bootFits b = false := by
  have e : (some f == some b.fuses) = false := by simpa using fun e => hb e.symm
  simp [Module.bootFits, hf, e]

/-- The module controller as boot begins. -/
def bootModule (s : State) (b : BootImages) : Module :=
  { Module.fresh with
      fuses := some b.fuses, fused := s.module.fused, staged := s.module.staged, rootDigest := b.config.take 48, poweredAt := s.now, tofsAt := nsOf s.now }

/-- The module controller at the end of the stages, and whether all have passed. -/
def booted (s : State) (b : BootImages) : Module × Bool := bootStages (bootModule s b) ((bootModule s b).stages b)

/-- Everything but fuses and the staged images has started anew, with the fuses and the root digest of the parts. -/
def startsAnew (s t : State) (b : BootImages) : Prop :=
  t.groups = [] ∧ t.launches = [] ∧ t.memory = State.reset.memory ∧ t.nextSeq = 1 ∧ t.agenda = s.agenda ∧
    t.module.fuses = some b.fuses ∧ t.module.gradeB = b.fuses.gradeB ∧ t.module.rootDigest = b.config.take 48

/-- Power-on with an image that does not pass ends in recovery. -/
theorem powerOn_fails (s : State) (b : BootImages) (hf : s.module.bootFits b = true) (hp : (booted s b).2 = false) :
    ∃ t : State, exec (.powerOn b) s = .next t ∧ startsAnew s t b ∧ t.module.boot = .recovery := by
  obtain ⟨meas, hm⟩ := bootStages_frame ((bootModule s b).stages b) (bootModule s b)
  have hfit : ¬ (!(s.module.bootFits b)) = true := by simp [hf]
  have hfail : (!(booted s b).2) = true := by simp [hp]
  have he : exec (.powerOn b) s = .next { s.unpowered.bumpId with module := { (booted s b).1 with boot := .recovery } } :=
    (if_neg hfit).trans (if_pos hfail)
  refine ⟨_, he, ?_, rfl⟩
  rw [booted, hm]
  exact ⟨rfl, rfl, rfl, rfl, rfl, rfl, rfl, rfl⟩

/-- The dies that a power-on lists: those disabled, and those of the others whose self-test has failed. -/
def listedDies (s : State) (b : BootImages) : List DieSt :=
  let off (status : DieStatus) (d : Nat) : DieSt := { DieSt.fresh d with status := status, masked := true, leftReset := s.now }
  b.fuses.disabled.map (off .disabled) ++ (b.selfTestFail.eraseDups.filter fun d => !(b.fuses.disabled.contains d)).map (off .testFailed)

theorem isLive_of_listedDies (s t : State) (b : BootImages) (h : t.dies = listedDies s b) (d : Nat) :
    t.isLive d = true ↔ d < 512 ∧ d ∉ b.fuses.disabled ∧ d ∉ b.selfTestFail := by
  rw [isLive_unless_listed t _ _ _ _ h (fun _ => rfl) (fun _ => rfl) (fun _ => rfl) (fun _ => rfl) d]
  refine and_congr_right fun _ => and_congr_right fun hd => ?_
  simp [List.mem_eraseDups, hd]

/-- Power-on with every image passing runs, on the dies that are neither disabled nor failing. -/
theorem powerOn_passes (s : State) (b : BootImages) (hf : s.module.bootFits b = true) (hp : (booted s b).2 = true) :
    ∃ t : State, exec (.powerOn b) s = .next t ∧ startsAnew s t b ∧ t.module.boot = .running ∧ t.module.meas = (booted s b).1.meas ∧
      t.dies = listedDies s b := by
  obtain ⟨meas, hm⟩ := bootStages_frame ((bootModule s b).stages b) (bootModule s b)
  have hfit : ¬ (!(s.module.bootFits b)) = true := by simp [hf]
  have hpass : ¬ (!(booted s b).2) = true := by simp [hp]
  obtain ⟨handlers, tofs, he⟩ : ∃ handlers tofs, exec (.powerOn b) s = .next { s.unpowered.bumpId with
      dies := listedDies s b
      module := { (booted s b).1 with boot := .running, handlers := handlers, energyAt := nsOf s.now, tofs := tofs } } :=
    ⟨_, _, (if_neg hfit).trans (if_neg hpass)⟩
  refine ⟨_, he, ?_, rfl, rfl, rfl⟩
  rw [booted, hm]
  exact ⟨rfl, rfl, rfl, rfl, rfl, rfl, rfl, rfl⟩

/-- The registers after a boot that passes. -/
theorem booted_meas (s : State) (b : BootImages) (hp : (booted s b).2 = true) :
    (booted s b).1.meas.length = 8 ∧ ∀ k, k < 8 →
      (booted s b).1.meas.getD k [] = extended (List.replicate 48 0) ((measured (bootModule s b) b).getD k []) := by
  obtain ⟨hlen, hmeas⟩ := bootStages_meas _ _ hp
  refine ⟨hlen, fun k hk => ?_⟩
  have h0 : (bootModule s b).meas.getD k [] = List.replicate 48 0 := by
    rw [show (bootModule s b).meas = List.replicate 8 (List.replicate 48 0) from rfl, List.getD_eq_getElem?_getD, List.getElem?_replicate, if_pos hk, Option.getD_some]
  exact (hmeas k hk).trans (by rw [stages_measured _ _ k hk, h0])

/-! ## O50 -/

/-- Settles O50: trips and power-ons by their own lemmas, the registers one by one from booted_meas. -/
theorem powerComplete : Obligations.PowerComplete := by
  unfold Obligations.PowerComplete
  refine ⟨fun s stack site temp hb hs => ⟨thermalTrip_below s stack site temp, fun h => ?_⟩, fun s b h => ?_, fun s b m hf hm => ?_⟩
  · exact ⟨_, thermalTrip_trips s stack site temp hb hs h, rfl, rfl, rfl, rfl, rfl, rfl, rfl, rfl, rfl⟩
  · obtain h | ⟨f, hf, hb⟩ := h
    · exact powerOn_unfit s b h
    · exact powerOn_unfit s b (bootFits_fuses _ b f hf hb)
  · have hpass : (booted s b).2 = true ↔ ∀ x ∈ m.stages b, ∀ i, x.image = some i → m.runs i = true := by
      rw [stages_congr (n := bootModule s b) (by rw [hm]; rfl) (by rw [hm]; rfl) b]
      simp only [runs_congr (m := m) (n := bootModule s b) (by rw [hm]; rfl) (by rw [hm]; rfl)]
      exact bootStages_passes _ _
    cases hp : (booted s b).2 with
    | false =>
      obtain ⟨t, ht, ⟨hg, hl, hmem, hseq, hag, hfu, hgr, hroot⟩, hboot⟩ := powerOn_fails s b hf hp
      refine ⟨t, ht, hg, hl, hmem, hseq, hag, hfu, hgr, hroot, fun _ => hboot, fun h => ?_⟩
      rw [hpass.2 h] at hp
      contradiction
    | true =>
      obtain ⟨t, ht, ⟨hg, hl, hmem, hseq, hag, hfu, hgr, hroot⟩, hboot, hmeas, hdies⟩ := powerOn_passes s b hf hp
      obtain ⟨hlen, hreg⟩ := booted_meas s b hp
      rw [← hmeas] at hlen hreg
      refine ⟨t, ht, hg, hl, hmem, hseq, hag, hfu, hgr, hroot, ?_, fun _ => ⟨hboot, isLive_of_listedDies s t b hdies, hlen, ?_⟩⟩
      · rintro ⟨x, hx, i, hi, hr⟩
        rw [hpass.1 hp x hx i hi] at hr
        contradiction
      · exact ⟨hreg 0 (by decide), hreg 1 (by decide), hreg 2 (by decide), hreg 3 (by decide), hreg 4 (by decide), hreg 5 (by decide),
          hreg 6 (by decide), hreg 7 (by decide)⟩

end Sys2Proof.Machine
end
